-- ==== Sys2Proof/Word.lean ====
section
/-! DEFINITION. The word types of the Xirov Q8 (R3, R88). -/

namespace Sys2Proof

/-- A byte (R3). -/
abbrev Byte := BitVec 8

/-- A scalar register, address word or bundle: 64 bits (R88, R105). -/
abbrev Word := BitVec 64

end Sys2Proof
end

