-- ==== Sys2Proof/Config.lean ====
section
/-! DEFINITION. What the spec leaves to the part, the choice or the environment: constants with no body. Nothing can evaluate
them, so a claim that holds for the model holds whatever they are (log entry 5). -/

namespace Sys2Proof

/-- A choice the spec leaves open (steal order R34, the promise P of R163, the use of a stale translation R55 or instruction
line R62, the spread of a seed), drawn for the `n`-th time. -/
opaque Config.freeChoice : Nat → Nat

/-- A word whose value the spec does not give, the `n`-th one (the power model's state that no rule names, a read of a device
register that R286 marks write-only). -/
opaque Config.freeWord : Nat → Word

/-- The digest of the public key that is fused into the package (R297), 48 bytes. -/
opaque Config.fusedDigest : BitVec 384

/-- The public key that comes with a firmware image, x and y: the spec does not say where they stand (R297). -/
opaque Config.imageKey : List Byte → BitVec 768

/-- The signature r and s that comes with a firmware image (R297). -/
opaque Config.imageSignature : List Byte → BitVec 768

/-- The private half of the device identity key (R297). -/
opaque Config.identitySecret : Nat

/-- The number that the package chooses for a signature over a digest (R298). -/
opaque Config.signNonce : List Byte → Nat

/-- Whether the host link can write the report address (R299). -/
opaque Config.hostWritable : Nat → Bool

/-- Whether the span links reach a package of that number, other than this one (R296). -/
opaque Config.spanReach : Nat → Bool

/-- The power model's temperature of a column at the `n`-th sample (R353). -/
opaque Config.powerModel : Nat → Int

/-- Whether the column's power changed by more than 10 % over the last 64 samples, at the `n`-th sample (R353). -/
opaque Config.powerMoved : Nat → Bool

end Sys2Proof
end

