-- ==== Sys2Proof/Machine/Crypto.lean ====
section
/-! DEFINITION. The cryptography that boot and attestation name (R297, R298): SHA-384 and ECDSA over P-384. The spec gives the names
only; algorithms and constants are those of FIPS 180-4, FIPS 186-4 and SP 800-186 (PRESUMED, log entry 47). -/

namespace Sys2Proof.Machine

/-! ### SHA-384 -/

/-- The largest number below `2 ^ n` more than `r`, of bits from `n` down, whose power `e` does not exceed `x`. -/
def rootFrom (e x : Nat) : Nat → Nat → Nat
  | 0, r => r
  | n + 1, r => rootFrom e x n (if (r + 2 ^ n) ^ e ≤ x then r + 2 ^ n else r)

/-- The first 64 bits behind the point of the root of degree `e` of a number below 512. -/
def rootFraction (e p : Nat) : Word := BitVec.ofNat 64 (rootFrom e (p * 2 ^ (64 * e)) 69 0)

/-- Has a number no divisor but 1 and itself? -/
def isPrime (n : Nat) : Bool := decide (2 ≤ n) && (List.range n).all fun d => decide (d < 2) || n % d != 0

/-- The first 80 primes. -/
def shaPrimes : List Nat := (List.range 410).filter isPrime

/-- The constants of the 80 rounds: what stands behind the point of the primes' cube roots. -/
def shaConstants : List Word := shaPrimes.map (rootFraction 3)

/-- The first state: the same of the square roots of the ninth to the sixteenth prime. -/
def shaInit : List Word := ((shaPrimes.drop 8).take 8).map (rootFraction 2)

/-- Eight bytes as a word, the first the highest. -/
def beWord (l : List Byte) : Word := l.foldl (fun a b => (a <<< 8) ||| b.setWidth 64) 0

/-- The `n` bytes of a number, the highest first. -/
def beBytes (v : Nat) : Nat → List Byte
  | 0 => []
  | n + 1 => BitVec.ofNat 8 (v / 256 ^ n) :: beBytes v n

/-- A message padded to whole blocks of 128 bytes: a 1 bit, zeros, its length in bits. -/
def shaPad (m : List Byte) : List Byte :=
  m ++ [0x80] ++ List.replicate ((239 - m.length % 128) % 128) 0 ++ beBytes (8 * m.length) 16

/-- The words of a block, the last first, extended by `n` words of the message schedule. -/
def shaExtend : Nat → List Word → List Word
  | 0, w => w
  | n + 1, w =>
    let x := w.getD 1 0
    let y := w.getD 14 0
    let s1 := x.rotateRight 19 ^^^ x.rotateRight 61 ^^^ (x >>> 6)
    let s0 := y.rotateRight 1 ^^^ y.rotateRight 8 ^^^ (y >>> 7)
    shaExtend n ((s1 + w.getD 6 0 + s0 + w.getD 15 0) :: w)

/-- The sixteen words of a block, the last first. -/
def shaWords (l : List Byte) : List Word := ((List.range 16).map fun i => beWord ((l.drop (8 * i)).take 8)).reverse

/-- One round; `x` is the round's constant plus its word of the schedule. -/
def shaRound (l : List Word) (x : Word) : List Word :=
  match l with
  | [a, b, c, d, e, f, g, h] =>
    let t := h + (e.rotateRight 14 ^^^ e.rotateRight 18 ^^^ e.rotateRight 41) + ((e &&& f) ^^^ (~~~e &&& g)) + x
    let u := (a.rotateRight 28 ^^^ a.rotateRight 34 ^^^ a.rotateRight 39) + ((a &&& b) ^^^ (a &&& c) ^^^ (b &&& c))
    [t + u, a, b, c, d + t, e, f, g]
  | l => l

/-- The state after a block. -/
def shaBlock (h : List Word) (block : List Byte) : List Word :=
  let w := (shaExtend 64 (shaWords block)).reverse
  let r := (List.zipWith (· + ·) shaConstants w).foldl shaRound h
  List.zipWith (· + ·) h r

/-- The state after `n` blocks of a padded message. -/
def shaBlocks : Nat → List Byte → List Word → List Word
  | 0, _, h => h
  | n + 1, l, h => shaBlocks n (l.drop 128) (shaBlock h (l.take 128))

/-- The SHA-384 digest of a message, 48 bytes. -/
def sha384 (m : List Byte) : List Byte :=
  let l := shaPad m
  ((shaBlocks (l.length / 128) l shaInit).take 6).flatMap fun w => beBytes w.toNat 8

/-- Bytes as a number, the first the lowest, as the device stores its numbers. -/
def leNat : List Byte → Nat
  | [] => 0
  | b :: r => b.toNat + 256 * leNat r

/-- Bytes as a number, the first the highest, as ECDSA reads a digest. -/
def beNat (l : List Byte) : Nat := l.foldl (fun a b => 256 * a + b.toNat) 0

/-! ### P-384 -/

/-- The field's prime. -/
def p384 : Nat := 2 ^ 384 - 2 ^ 128 - 2 ^ 96 + 2 ^ 32 - 1

/-- The order of the base point. -/
def n384 : Nat := 0xffffffffffffffffffffffffffffffffffffffffffffffffc7634d81f4372ddf581a0db248b0a77aecec196accc52973

/-- The constant b of the curve y² = x³ − 3x + b. -/
def b384 : Nat := 0xb3312fa7e23ee7e4988e056be3f82d19181d9c6efe8141120314088f5013875ac656398d8a2ed19d2a85c8edd3ec2aef

/-- A point of the curve; `none` is the point at infinity. -/
abbrev Point := Option (Nat × Nat)

/-- The base point. -/
def g384 : Point :=
  some (0xaa87ca22be8b05378eb1c71ef320ad746e1d3b628ba79b9859f741e082542a385502f25dbf55296c3a545e3872760ab7,
        0x3617de4a96262c6f5d9e98bf9292dc29f8f41dbd289a147ce9da3113b5f0b8c00a60b1ce1d7e819d7a431d7c90ea0e5f)

/-- A power modulo `m`, the exponent's bits one by one. -/
def powMod (m : Nat) : Nat → Nat → Nat → Nat → Nat
  | 0, _, _, acc => acc
  | fuel + 1, b, e, acc => powMod m fuel (b * b % m) (e / 2) (if e % 2 = 1 then acc * b % m else acc)

/-- The inverse modulo a prime. -/
def invMod (m a : Nat) : Nat := powMod m 384 (a % m) (m - 2) 1

/-- The third point of the line with slope `l` through a point and one with abscissa `x2`, mirrored. -/
def onLine (l x1 y1 x2 : Nat) : Point :=
  let x := (l * l + (p384 - x1) + (p384 - x2)) % p384
  some (x, (l * (x1 + (p384 - x)) + (p384 - y1)) % p384)

/-- The sum of two points. -/
def pointAdd : Point → Point → Point
  | none, q => q
  | p, none => p
  | some (x1, y1), some (x2, y2) =>
    if x1 = x2 then
      if (y1 + y2) % p384 = 0 then none
      else onLine ((3 * x1 * x1 + (p384 - 3)) * invMod p384 (2 * y1) % p384) x1 y1 x2
    else onLine ((y2 + (p384 - y1)) * invMod p384 (x2 + (p384 - x1)) % p384) x1 y1 x2

/-- A multiple of a point, added to another. -/
def pointMul : Nat → Nat → Point → Point → Point
  | 0, _, _, acc => acc
  | fuel + 1, k, p, acc => pointMul fuel (k / 2) (pointAdd p p) (if k % 2 = 1 then pointAdd acc p else acc)

/-- Is a pair of coordinates a point of the curve? -/
def onCurve (x y : Nat) : Bool :=
  decide (x < p384) && decide (y < p384) && (y * y % p384 == (x * x * x + (p384 - 3) * x + b384) % p384)

/-- A key or a signature as two numbers of 384 bits: x and y, or r and s. -/
def halves (v : BitVec 768) : Nat × Nat := (v.toNat % 2 ^ 384, v.toNat / 2 ^ 384)

/-- Does a signature over a digest verify under a public key (ECDSA)? -/
def ecdsaVerify (key : BitVec 768) (digest : List Byte) (sig : BitVec 768) : Bool :=
  let q := halves key
  let r := (halves sig).1
  let t := (halves sig).2
  if !onCurve q.1 q.2 || r == 0 || t == 0 || decide (n384 ≤ r) || decide (n384 ≤ t) then false
  else
    let w := invMod n384 t
    match pointMul 384 (beNat digest * w % n384) g384 (pointMul 384 (r * w % n384) (some q) none) with
    | some p => p.1 % n384 == r
    | none => false

/-- The public key of a private one. -/
def publicKey (d : Nat) : BitVec 768 :=
  match pointMul 384 (d % n384) g384 none with
  | some p => BitVec.ofNat 768 (p.1 + p.2 * 2 ^ 384)
  | none => 0

/-- The signature r and s over a digest, with a private key and the number `k` that the signer chooses. -/
def ecdsaSign (d k : Nat) (digest : List Byte) : BitVec 768 :=
  match pointMul 384 (k % n384) g384 none with
  | some p =>
    let r := p.1 % n384
    BitVec.ofNat 768 (r + invMod n384 k * (beNat digest + r * d) % n384 * 2 ^ 384)
  | none => 0

end Sys2Proof.Machine
end

