-- ==== Sys2Proof/Syntax.lean ====
section
/-! DEFINITION. The instructions of the Xirov Q8: one constructor for each row of spec/opcode_table.json. The first three
groups are fetched (control/memory slot, arithmetic slot, long instructions: R110, R113, R116); the fourth holds the steps
of the machine's other agents (spec/95_what_each_step_holds.md), which no bundle encodes. -/

namespace Sys2Proof

/-- A 4-bit register field names `s0`–`s15` (R108). -/
abbrev Reg := BitVec 4

/-- A function register `f0`–`f7` (R108). -/
abbrev FRegN := BitVec 3

/-- Precision of a scalar floating-point instruction (R133): `.s` binary32, `.d` binary64. -/
inductive Prec | s | d
  deriving DecidableEq, Repr

/-- Condition of `fcmp` (R138). -/
inductive FCond | eq | lt | le | un
  deriving DecidableEq, Repr

/-- A row operand (R116, R170): tile, RS (the row is named by a register), STEP, and the row or register number. -/
structure RowOp where
  tile : BitVec 4
  rs : Bool
  step : Bool
  idx : BitVec 6
  deriving DecidableEq, Repr

/-- A logical thread: `GRID`, `LTEAM`, `LTHREAD` (R26, R42). -/
structure Tid where
  grid : Nat
  team : Nat
  thread : Nat
  deriving DecidableEq, Repr

/-- The power states of R267, from shallowest to deepest. -/
inductive PowerLevel | run | nap | drowsy | shadowedOff
  deriving DecidableEq, Repr

/-- One constructor for each row of the opcode table. -/
inductive Instr
  -- control/memory slot (R111)
  /-- NOP. R251: control-slot no-operation -/
  | nop
  /-- ADDI_CM. R128: control-slot `addi` -/
  | addiCm (d : Reg) (a : Reg) (i : BitVec 13)
  /-- LD_B. R147: scalar load -/
  | ldB (d : Reg) (a : Reg) (i : BitVec 13)
  /-- LD_B_U. R147: scalar load -/
  | ldBU (d : Reg) (a : Reg) (i : BitVec 13)
  /-- LD_H. R147: scalar load -/
  | ldH (d : Reg) (a : Reg) (i : BitVec 13)
  /-- LD_H_U. R147: scalar load -/
  | ldHU (d : Reg) (a : Reg) (i : BitVec 13)
  /-- LD_W. R147: scalar load -/
  | ldW (d : Reg) (a : Reg) (i : BitVec 13)
  /-- LD_W_U. R147: scalar load -/
  | ldWU (d : Reg) (a : Reg) (i : BitVec 13)
  /-- LD_D. R147: scalar load -/
  | ldD (d : Reg) (a : Reg) (i : BitVec 13)
  /-- LD_Q. R149: 64-byte load into s8–s15 -/
  | ldQ (a : Reg) (i : BitVec 13)
  /-- ST_B. R147: scalar store -/
  | stB (a : Reg) (i : BitVec 13) (b : Reg)
  /-- ST_H. R147: scalar store -/
  | stH (a : Reg) (i : BitVec 13) (b : Reg)
  /-- ST_W. R147: scalar store -/
  | stW (a : Reg) (i : BitVec 13) (b : Reg)
  /-- ST_D. R147: scalar store -/
  | stD (a : Reg) (i : BitVec 13) (b : Reg)
  /-- ST_Q. R149, R192: 64-byte store of s8–s15, or a matrix record -/
  | stQ (a : Reg) (i : BitVec 13)
  /-- LDF. R150: wait for full, read, leave full -/
  | ldf (d : Reg) (a : Reg) (i : BitVec 13)
  /-- LDE. R150: wait for full, read, leave empty -/
  | lde (d : Reg) (a : Reg) (i : BitVec 13)
  /-- STF. R150: wait for full, store, leave full -/
  | stf (a : Reg) (i : BitVec 13) (b : Reg)
  /-- STW. R150: wait for empty, store, set full -/
  | stw (a : Reg) (i : BitVec 13) (b : Reg)
  /-- FESET. R150: set the full/empty bit -/
  | feset (v : BitVec 1) (a : Reg) (i : BitVec 13)
  /-- FESTAT. R150: read the full/empty bit -/
  | festat (d : Reg) (a : Reg) (i : BitVec 13)
  /-- AADD. R152: atomic -/
  | aadd (d : Reg) (a : Reg) (b : Reg)
  /-- AADDF. R153: atomic floating-point add -/
  | aaddf (d : Reg) (a : Reg) (b : Reg)
  /-- AAND. R152: atomic -/
  | aand (d : Reg) (a : Reg) (b : Reg)
  /-- AOR. R152: atomic -/
  | aor (d : Reg) (a : Reg) (b : Reg)
  /-- AXOR. R152: atomic -/
  | axor (d : Reg) (a : Reg) (b : Reg)
  /-- AMIN. R152: atomic -/
  | amin (d : Reg) (a : Reg) (b : Reg)
  /-- AMAX. R152: atomic -/
  | amax (d : Reg) (a : Reg) (b : Reg)
  /-- AMINU. R152: atomic -/
  | aminu (d : Reg) (a : Reg) (b : Reg)
  /-- AMAXU. R152: atomic -/
  | amaxu (d : Reg) (a : Reg) (b : Reg)
  /-- ASWAP. R152: atomic -/
  | aswap (d : Reg) (a : Reg) (b : Reg)
  /-- ACAS. R152: atomic -/
  | acas (d : Reg) (a : Reg) (b : Reg)
  /-- FENCE_ACQ. R75, R155: fence at scope `sc` -/
  | fenceAcq (sc : BitVec 3)
  /-- FENCE_REL. R75, R155: fence at scope `sc` -/
  | fenceRel (sc : BitVec 3)
  /-- FENCE_FULL. R75, R155: fence at scope `sc` -/
  | fenceFull (sc : BitVec 3)
  /-- PFENCE_TILE. R84 -/
  | pfenceTile
  /-- PFENCE_KEEP. R85 -/
  | pfenceKeep
  /-- WAITC. R157 -/
  | waitc (l : BitVec 6) (sn : BitVec 6) (cn : BitVec 6) (m : BitVec 6)
  /-- HINT. R158 -/
  | hint (k : BitVec 2) (a : Reg) (b : Reg)
  /-- SBIND. R160; `d` is s4–s7 -/
  | sbind (d : Reg) (a : Reg)
  /-- SFREE. R162; `d` is s4–s7 -/
  | sfree (d : Reg)
  /-- SSTAT. R162; `a` is s4–s7 -/
  | sstat (d : Reg) (a : Reg)
  /-- B_EQ. R143: conditional branch, offset in bundles -/
  | bEq (a : Reg) (b : Reg) (o : BitVec 17)
  /-- B_NE. R143: conditional branch, offset in bundles -/
  | bNe (a : Reg) (b : Reg) (o : BitVec 17)
  /-- B_LT. R143: conditional branch, offset in bundles -/
  | bLt (a : Reg) (b : Reg) (o : BitVec 17)
  /-- B_GE. R143: conditional branch, offset in bundles -/
  | bGe (a : Reg) (b : Reg) (o : BitVec 17)
  /-- B_LTU. R143: conditional branch, offset in bundles -/
  | bLtu (a : Reg) (b : Reg) (o : BitVec 17)
  /-- B_GEU. R143: conditional branch, offset in bundles -/
  | bGeu (a : Reg) (b : Reg) (o : BitVec 17)
  /-- JAL. R144 -/
  | jal (d : Reg) (o : BitVec 21)
  /-- JR. R144 -/
  | jr (d : Reg) (a : Reg) (i : BitVec 13)
  /-- CPY. R163, R164 -/
  | cpy (d : Reg)
  /-- CPYG. R163, R164 -/
  | cpyg (d : Reg)
  /-- CPYS. R163, R164 -/
  | cpys (d : Reg)
  /-- PUBL. R83, R166 -/
  | publ (a : Reg)
  /-- SLEEP. R167 -/
  | sleep (a : Reg)
  /-- FORK. R33, R230 -/
  | fork (o : BitVec 21)
  /-- JOIN. R36, R231 -/
  | join (a : Reg)
  /-- NEXT. R34, R232 -/
  | next
  /-- YIELD. R233 -/
  | yield
  /-- EXIT. R234 -/
  | exit
  /-- LAUNCH. R237 -/
  | launch (a : Reg)
  /-- MIGR. R235 -/
  | migr (a : Reg)
  /-- PROG. R236 -/
  | prog
  /-- RDSR. R240 -/
  | rdsr (d : Reg) (n : BitVec 12)
  /-- WRSR. R240 -/
  | wrsr (n : BitVec 12) (a : Reg)
  /-- TRAP. R248 -/
  | trap (i : BitVec 13)
  /-- TRET. R250 -/
  | tret
  /-- BRK. R249 -/
  | brk (i : BitVec 13)
  /-- HALT. R251 -/
  | halt
  -- arithmetic slot (R114)
  /-- NOP_ARITHMETIC. R251: arithmetic-slot no-operation -/
  | nopArithmetic
  /-- ADDI. R128 -/
  | addi (d : Reg) (a : Reg) (i : BitVec 14)
  /-- ADD. R128 -/
  | add (d : Reg) (a : Reg) (b : Reg)
  /-- SUB. R128 -/
  | sub (d : Reg) (a : Reg) (b : Reg)
  /-- MUL. R128 -/
  | mul (d : Reg) (a : Reg) (b : Reg)
  /-- MULH. R128 -/
  | mulh (d : Reg) (a : Reg) (b : Reg)
  /-- MULHU. R128 -/
  | mulhu (d : Reg) (a : Reg) (b : Reg)
  /-- DIV. R129 -/
  | div (d : Reg) (a : Reg) (b : Reg)
  /-- DIVU. R129 -/
  | divu (d : Reg) (a : Reg) (b : Reg)
  /-- REM. R129 -/
  | rem (d : Reg) (a : Reg) (b : Reg)
  /-- REMU. R129 -/
  | remu (d : Reg) (a : Reg) (b : Reg)
  /-- AND. R128 -/
  | and (d : Reg) (a : Reg) (b : Reg)
  /-- OR. R128 -/
  | or (d : Reg) (a : Reg) (b : Reg)
  /-- XOR. R128 -/
  | xor (d : Reg) (a : Reg) (b : Reg)
  /-- ANDI. R128 -/
  | andi (d : Reg) (a : Reg) (i : BitVec 14)
  /-- ORI. R128 -/
  | ori (d : Reg) (a : Reg) (i : BitVec 14)
  /-- XORI. R128 -/
  | xori (d : Reg) (a : Reg) (i : BitVec 14)
  /-- SHL. R128 -/
  | shl (d : Reg) (a : Reg) (b : Reg)
  /-- SHR. R128 -/
  | shr (d : Reg) (a : Reg) (b : Reg)
  /-- SRA. R128 -/
  | sra (d : Reg) (a : Reg) (b : Reg)
  /-- SHLI. R128 -/
  | shli (d : Reg) (a : Reg) (h : BitVec 6)
  /-- SHRI. R128 -/
  | shri (d : Reg) (a : Reg) (h : BitVec 6)
  /-- SRAI. R128 -/
  | srai (d : Reg) (a : Reg) (h : BitVec 6)
  /-- SLT. R128 -/
  | slt (d : Reg) (a : Reg) (b : Reg)
  /-- SLTU. R128 -/
  | sltu (d : Reg) (a : Reg) (b : Reg)
  /-- SLTI. R128 -/
  | slti (d : Reg) (a : Reg) (i : BitVec 14)
  /-- SEQ. R128 -/
  | seq (d : Reg) (a : Reg) (b : Reg)
  /-- MIN. R128 -/
  | min (d : Reg) (a : Reg) (b : Reg)
  /-- MAX. R128 -/
  | max (d : Reg) (a : Reg) (b : Reg)
  /-- MINU. R128 -/
  | minu (d : Reg) (a : Reg) (b : Reg)
  /-- MAXU. R128 -/
  | maxu (d : Reg) (a : Reg) (b : Reg)
  /-- CLZ. R128 -/
  | clz (d : Reg) (a : Reg)
  /-- CTZ. R128 -/
  | ctz (d : Reg) (a : Reg)
  /-- POPC. R128 -/
  | popc (d : Reg) (a : Reg)
  /-- BEXT. R130 -/
  | bext (d : Reg) (a : Reg) (o : BitVec 7) (w : BitVec 7)
  /-- BEXTU. R130 -/
  | bextu (d : Reg) (a : Reg) (o : BitVec 7) (w : BitVec 7)
  /-- BINS. R130 -/
  | bins (d : Reg) (a : Reg) (o : BitVec 7) (w : BitVec 7)
  /-- BSWAP. R128 -/
  | bswap (d : Reg) (a : Reg)
  /-- FADD. R135 -/
  | fadd (p : Prec) (d : Reg) (a : Reg) (b : Reg)
  /-- FSUB. R135 -/
  | fsub (p : Prec) (d : Reg) (a : Reg) (b : Reg)
  /-- FMUL. R135 -/
  | fmul (p : Prec) (d : Reg) (a : Reg) (b : Reg)
  /-- FDIV. R135 -/
  | fdiv (p : Prec) (d : Reg) (a : Reg) (b : Reg)
  /-- FSQRT. R135 -/
  | fsqrt (p : Prec) (d : Reg) (a : Reg)
  /-- FMIN. R137 -/
  | fmin (p : Prec) (d : Reg) (a : Reg) (b : Reg)
  /-- FMAX. R137 -/
  | fmax (p : Prec) (d : Reg) (a : Reg) (b : Reg)
  /-- FCMP. R138 -/
  | fcmp (p : Prec) (cc : FCond) (d : Reg) (a : Reg) (b : Reg)
  /-- FCVT. R141, R142; type codes of R114 -/
  | fcvt (t : BitVec 4) (st : BitVec 4) (d : Reg) (a : Reg)
  /-- FCLASS. R139 -/
  | fclass (p : Prec) (d : Reg) (a : Reg)
  /-- FSGN. R140; 0 `.j`, 1 `.n`, 2 `.x` -/
  | fsgn (k : BitVec 2) (p : Prec) (d : Reg) (a : Reg) (b : Reg)
  -- long instructions (R117)
  /-- LI. R132 -/
  | li (d : Reg) (imm : BitVec 51)
  /-- LIH. R132 -/
  | lih (d : Reg) (imm : BitVec 32)
  /-- SEL. R131 -/
  | sel (d : Reg) (a : Reg) (b : Reg) (c : Reg)
  /-- FFMA. R136 -/
  | ffma (p : Prec) (d : Reg) (a : Reg) (b : Reg) (c : Reg)
  /-- TCFG. R171 -/
  | tcfg (t : BitVec 4) (ty : BitVec 2)
  /-- TZERO. R172 -/
  | tzero (t : BitVec 4)
  /-- VLD. R176 -/
  | vld (rd : RowOp) (a : Reg) (off : BitVec 11)
  /-- VST. R176 -/
  | vst (a : Reg) (off : BitVec 11) (rb : RowOp)
  /-- VBC. R177 -/
  | vbc (rd : RowOp) (a : Reg)
  /-- VADD. R178 -/
  | vadd (rd : RowOp) (ra : RowOp) (rb : RowOp)
  /-- VSUB. R178 -/
  | vsub (rd : RowOp) (ra : RowOp) (rb : RowOp)
  /-- VMUL. R178 -/
  | vmul (rd : RowOp) (ra : RowOp) (rb : RowOp)
  /-- VFMA. R178 -/
  | vfma (rd : RowOp) (ra : RowOp) (rb : RowOp)
  /-- VMIN. R178 -/
  | vmin (rd : RowOp) (ra : RowOp) (rb : RowOp)
  /-- VMAX. R178 -/
  | vmax (rd : RowOp) (ra : RowOp) (rb : RowOp)
  /-- VABS. R179 -/
  | vabs (rd : RowOp) (ra : RowOp)
  /-- VNEG. R179 -/
  | vneg (rd : RowOp) (ra : RowOp)
  /-- VCVT. R179 -/
  | vcvt (rd : RowOp) (ra : RowOp)
  /-- VCMP. R180 -/
  | vcmp (cc : BitVec 3) (rd : RowOp) (ra : RowOp) (rb : RowOp)
  /-- VSEL. R181 -/
  | vsel (rd : RowOp) (ra : RowOp) (rb : RowOp)
  /-- VPERM. R181 -/
  | vperm (rd : RowOp) (ra : RowOp) (rb : RowOp)
  /-- VRED. R183 -/
  | vred (op : BitVec 2) (ra : RowOp)
  /-- VSCALE. R182 -/
  | vscale (rd : RowOp) (ra : RowOp) (b : Reg)
  /-- VLOOP. R187; replays the last n1 + 1 entries -/
  | vloop (n1 : BitVec 4) (cnt : BitVec 12)
  /-- VPOP. R185 -/
  | vpop (d : Reg)
  /-- TOPK. R189; k = k1 + 1 -/
  | topk (mn : Bool) (c : Reg) (rd : RowOp) (rb : RowOp) (ra : RowOp) (k1 : BitVec 7)
  /-- TOPKM. R190; k = k1 + 1 -/
  | topkm (mn : Bool) (c : Reg) (rd : RowOp) (rb : RowOp) (ra : RowOp) (k1 : BitVec 7)
  /-- VSORT. R191 -/
  | vsort (ds : Bool) (rd : RowOp) (rb : RowOp) (ra : RowOp)
  /-- MDEP_ADD. R209 -/
  | mdepAdd (a : Reg) (off : BitVec 11) (b : Reg)
  /-- MDEP_MAX. R209 -/
  | mdepMax (a : Reg) (off : BitVec 11) (b : Reg)
  /-- MSENSE. R210–R212 -/
  | msense (d : Reg) (a : Reg) (b : Reg) (st : BitVec 3)
  /-- MRD. R209 -/
  | mrd (d : Reg) (a : Reg) (off : BitVec 11)
  /-- MCLR. R209 -/
  | mclr (a : Reg) (off : BitVec 11)
  /-- MTICK. R213 -/
  | mtick (d : Reg) (rg : BitVec 3)
  /-- FLD_F. R217 -/
  | fldF (fd : FRegN) (a : Reg) (off : BitVec 11)
  /-- FST_F. R217 -/
  | fstF (a : Reg) (off : BitVec 11) (fb : FRegN)
  /-- FSET. R218 -/
  | fset (fd : FRegN) (a : Reg) (j : BitVec 7)
  /-- FDOM. R218 -/
  | fdom (fd : FRegN) (a : Reg) (b : Reg)
  /-- FADD_F. R220 -/
  | faddF (fd : FRegN) (fa : FRegN) (fb : FRegN)
  /-- FSUB_F. R220 -/
  | fsubF (fd : FRegN) (fa : FRegN) (fb : FRegN)
  /-- FMUL_F. R221 -/
  | fmulF (fd : FRegN) (fa : FRegN) (fb : FRegN)
  /-- FSCL. R220 -/
  | fscl (fd : FRegN) (fa : FRegN) (b : Reg)
  /-- FCOMP. R222 -/
  | fcomp (fd : FRegN) (fa : FRegN) (fb : FRegN)
  /-- FINT. R223 -/
  | fint (fd : FRegN) (fa : FRegN)
  /-- FDER. R224 -/
  | fder (fd : FRegN) (fa : FRegN)
  /-- FEVAL. R225 -/
  | feval (d : Reg) (fa : FRegN) (b : Reg)
  /-- FEVAL_V. R226 -/
  | fevalV (rd : RowOp) (fa : FRegN) (rb : RowOp)
  /-- FSAMP. R227 -/
  | fsamp (fd : FRegN) (rb : RowOp) (n : BitVec 8)
  /-- FROOT. R228 -/
  | froot (d : Reg) (fa : FRegN) (b : Reg) (c : Reg)
  /-- FLEN. R219 -/
  | flen (d : Reg) (fa : FRegN)
  /-- FTRUNC. R219 -/
  | ftrunc (fd : FRegN) (fa : FRegN) (n : BitVec 8)
  -- steps of the other agents (spec/95)
  /-- PERFORM_AT_HOME. R70: piece `k` of request `req` is performed -/
  | performAtHome (req : Nat) (k : Nat)
  /-- CONTINUATION_REPLY. R39 -/
  | continuationReply (req : Nat)
  /-- HOME_ACKNOWLEDGE. R156 -/
  | homeAcknowledge (req : Nat)
  /-- PHASE_COMPLETE. R78 -/
  | phaseComplete (who : Tid)
  /-- MIGRATION_ARRIVE. R37 -/
  | migrationArrive (who : Tid)
  /-- SLEEP_WAKE. R30 -/
  | sleepWake (who : Tid)
  /-- VLOOP_REPLAY. R187 -/
  | vloopReplay (who : Tid)
  /-- STREAM_FETCH. R160 -/
  | streamFetch (who : Tid) (r : Reg)
  /-- COPY_TRANSFER. R164 -/
  | copyTransfer (cp : Nat)
  /-- PROMISE_CHECK. R312 -/
  | promiseCheck (cp : Nat)
  /-- WINDOW_EXCHANGE. R83: the exchange of `who`'s `publ` -/
  | windowExchange (who : Tid)
  /-- MMA. R196 -/
  | mma (core : Nat)
  /-- MMA_S. R196 -/
  | mmaS (core : Nat)
  /-- MMA_SP. R197 -/
  | mmaSp (core : Nat)
  /-- MROT. R199 -/
  | mrot (core : Nat)
  /-- MROT_SEND. R199 -/
  | mrotSend (core : Nat)
  /-- MROT_EXCHANGE. R199 -/
  | mrotExchange (grid : Nat) (team : Nat) (win : Nat)
  /-- MFILL. R200 -/
  | mfill (core : Nat)
  /-- MDRAIN. R201 -/
  | mdrain (core : Nat)
  /-- MZERO. R202 -/
  | mzero (core : Nat)
  /-- REIN_ADMISSION. R203 -/
  | reinAdmission (cl : Nat)
  /-- REIN_STEP_DOWN. R303 -/
  | reinStepDown (cl : Nat)
  /-- REIN_TABLE_CHANGE. R20 -/
  | reinTableChange (cl : Nat)
  /-- BUDGET_CHANGE. R290 -/
  | budgetChange
  /-- GRID_START. R25: team t is placed on the t-th core of `cores` -/
  | gridStart (grid : Nat) (cores : List Nat)
  /-- NEXT_PARK_END. R35 -/
  | nextParkEnd (grid : Nat)
  /-- GRID_COMPLETE. R28 -/
  | gridComplete (grid : Nat)
  /-- PREEMPT. R43 -/
  | preempt (grid : Nat)
  /-- PREEMPT_ABANDON. R324 -/
  | preemptAbandon (grid : Nat)
  /-- RESUME. R43 -/
  | resume (grid : Nat) (cores : List Nat)
  /-- SWAP_INSTANT. R44 -/
  | swapInstant
  /-- EXCHANGE. R46 -/
  | exchange (p : Nat) (q : Nat)
  /-- MESSAGE_FORWARD. R47 -/
  | messageForward (req : Nat)
  /-- FORWARDING_WITHDRAW. R47 -/
  | forwardingWithdraw (core : Nat)
  /-- MREG_WRITE_APPLY. R205 -/
  | mregWriteApply (grid : Nat)
  /-- BANKPART_CHANGE_END. R65 -/
  | bankpartChangeEnd (bank : Nat)
  /-- SWEEPER_NORMALISE. R208: word index `w` of region `rg` -/
  | sweeperNormalise (grid : Nat) (rg : Nat) (w : Nat)
  /-- PATROL_SCRUB. R344 -/
  | patrolScrub (key : Nat)
  /-- MRAM_SCRUB. R271 -/
  | mramScrub (key : Nat)
  /-- WEAR_LEVELLING. R271 -/
  | wearLevelling (core : Nat)
  /-- CALIBRATION. R271 -/
  | calibration
  /-- INNINGS_COMMIT. R262 -/
  | inningsCommit (grid : Nat)
  /-- GRID_FAULT_END. R316 -/
  | gridFaultEnd (grid : Nat)
  /-- WATCHDOG_WINDOW_END. R323 -/
  | watchdogWindowEnd
  /-- QTAIL_DOORBELL. R252 -/
  | qtailDoorbell (q : Nat) (v : Word)
  /-- QUEUE_ENABLE. R288: `v` is the QCTL value, with EN set -/
  | queueEnable (q : Nat) (v : Word)
  /-- QUEUE_DISABLE. R288: `v` is the QCTL value, with EN clear -/
  | queueDisable (q : Nat) (v : Word)
  /-- QLAT_WRITE. R288 -/
  | qlatWrite (q : Nat) (v : Word)
  /-- INVALIDATION_COMMAND. R55, R288 -/
  | invalidationCommand (q : Nat) (v : Word)
  /-- INVALIDATION_COMPLETE. R55 -/
  | invalidationComplete (q : Nat)
  /-- LAUNCH_ENTRY. R256 -/
  | launchEntry (q : Nat)
  /-- GRAPH_ENTRY. R257 -/
  | graphEntry (q : Nat)
  /-- WAIT_VALUE_ENTRY. R256 -/
  | waitValueEntry (q : Nat)
  /-- WAIT_VALUE_POLL. R256 -/
  | waitValuePoll (q : Nat)
  /-- SIGNAL_ENTRY. R256 -/
  | signalEntry (q : Nat)
  /-- COPY_ENTRY. R256 -/
  | copyEntry (q : Nat)
  /-- ENTRY_COMPLETE. R254: entry number `n` of queue `q` -/
  | entryComplete (q : Nat) (n : Nat)
  /-- FSREPLY_RETRY. R289 -/
  | fsreplyRetry (token : Nat)
  /-- FSREPLY_TRAP. R311 -/
  | fsreplyTrap (token : Nat)
  /-- FSREPLY_END. R311 -/
  | fsreplyEnd (token : Nat)
  /-- CPB_RELEASE. R291 -/
  | cpbRelease (k : Nat)
  /-- DEBUG_HALT. R273: the host's HALT -/
  | debugHalt (cl : Nat)
  /-- DEBUG_RESUME. R292 -/
  | debugResume (cl : Nat)
  /-- DDATA_READ. R292 -/
  | ddataRead (cl : Nat)
  /-- DDATA_WRITE. R292 -/
  | ddataWrite (cl : Nat) (v : Word)
  /-- REACH_GO. R295 -/
  | reachGo (st : Nat)
  /-- REACH_STOP. R295 -/
  | reachStop (st : Nat)
  /-- REACH_PROGRAM_STOP. R295 -/
  | reachProgramStop (st : Nat)
  /-- RD64. R293 -/
  | rd64 (st : Nat) (adr : Nat) (tag : Nat)
  /-- RD256. R293 -/
  | rd256 (st : Nat) (adr : Nat) (tag : Nat)
  /-- WR64. R293 -/
  | wr64 (st : Nat) (adr : Nat) (tag : Nat) (data : BitVec 512)
  /-- WR256. R293 -/
  | wr256 (st : Nat) (adr : Nat) (tag : Nat) (data : BitVec 2048)
  /-- FEOP_READ. R293 -/
  | feopRead (st : Nat) (adr : Nat) (tag : Nat) (sub : Nat)
  /-- FEOP_SET. R293 -/
  | feopSet (st : Nat) (adr : Nat) (tag : Nat) (sub : Nat) (v : Bool)
  /-- METARD. R293 -/
  | metard (st : Nat) (adr : Nat) (tag : Nat)
  /-- NOLEND_ILLEGAL_COMMAND. R293 -/
  | nolendIllegalCommand (st : Nat) (tag : Nat) (cmd : Nat)
  /-- ATTESTATION_REQUEST. R299 -/
  | attestationRequest
  /-- ATTESTATION_DONE. R299 -/
  | attestationDone
  /-- TELPTR_READ. R343 -/
  | telptrRead
  /-- DEVICE_REGISTER_WRITE. R285 -/
  | deviceRegisterWrite (adr : Nat) (v : Word)
  /-- POWER_GATE. R267 -/
  | powerGate (core : Nat) (lvl : PowerLevel)
  /-- WAKE. R268 -/
  | wake (core : Nat)
  /-- CONTINUOUS_SHADOW_COPY. R23 -/
  | continuousShadowCopy (core : Nat)
  /-- CORE_POWER_LOSS. R350 -/
  | corePowerLoss (core : Nat)
  /-- PACKAGE_POWER_LOSS. R351, R86: the numbered keep-region stores had reached MRAM -/
  | packagePowerLoss (durable : List Nat)
  /-- FIRMWARE_BOOT. R297 -/
  | firmwareBoot (image : List Byte)
  /-- TEMPERATURE_SAMPLE. R353 -/
  | temperatureSample (col : Nat) (temp : Int)
  /-- VERTICAL_BUS_FAILURE. R347 -/
  | verticalBusFailure (bank : Nat) (quad : Nat)
  /-- LINK_FLIT_ERROR. R355 -/
  | linkFlitError (link : Nat)
  /-- LINK_RETRAIN. R355 -/
  | linkRetrain (link : Nat)
  /-- LINK_DOWN. R355 -/
  | linkDown (link : Nat)
  /-- SPAN_ROUTE_TIMEOUT. R355 -/
  | spanRouteTimeout (req : Nat)
  /-- ILLEGAL_BUNDLE. R107, R331 -/
  | illegalBundle (sub : Nat) (bundle : BitVec 64)
  /-- FETCH_FAULT. R145, R334 -/
  | fetchFault
  /-- ILLEGAL_RECORD. R121 -/
  | illegalRecord (core : Nat)
  /-- ILLEGAL_KIND_ENTRY. R320 -/
  | illegalKindEntry (q : Nat)
  /-- STEP_DOWN_COMPLETE. R270 -/
  | stepDownComplete (core : Nat)
  /-- PKGMODE_WRITE. R290 -/
  | pkgmodeWrite (v : Word)
  /-- FSQPTR_WRITE. R362 -/
  | fsqptrWrite (v : Word)
  deriving DecidableEq, Repr

end Sys2Proof
end

