-- ==== Sys2Proof/Machine/State.lean ====
section
/-! DEFINITION. Everything the spec gives the machine, as plain data, and the machine right after reset. INVENTORY.md lists each
piece with the rule that names it. Lists are sparse: what is not listed is at its reset value. -/

namespace Sys2Proof.Machine

/-! ### Function registers, tiles, streams -/

/-- A function register (R102, R103): interval bounds, INX, TRC, and the coefficients c_0 … c_(n−1). -/
structure FReg where
  a : Word
  b : Word
  inx : Bool
  trc : Bool
  coef : List Word
  deriving DecidableEq, Repr

/-- The empty function register of R27. -/
def FReg.empty : FReg := ⟨0, 0, false, false, []⟩

/-- One row of a tile, 256 bytes (R168). -/
abbrev Row := BitVec 2048

/-- A tile (R168): 64 rows, TYPE (R169), whether its hidden checksum is valid, OVF, and whether a valid checksum disagrees
with the data (R346). -/
structure Tile where
  rows : Vector Row 64
  type : BitVec 2
  valid : Bool
  ovf : Bool
  sumBad : Bool
  deriving DecidableEq, Repr

/-- R27: zeros, FP32, valid checksum. -/
def Tile.zero : Tile := ⟨Vector.replicate 64 0, 0, true, false, false⟩

/-- An element that a read stream has fetched ahead of its pop: its value, the key it was read from, and a number that is higher for
one that the thread's streams fetched later (R73). -/
structure Ahead where
  val : Word
  key : Nat
  no : Nat
  deriving DecidableEq, Repr

/-- A bound stream (R159–R161): the descriptor, the index of the next element, the value last popped or appended, EXH, the
elements a read stream has fetched ahead, and the request that fetches the next one. -/
structure Stream where
  base : Word
  stride : Word
  count : Nat
  size : BitVec 2
  write : Bool
  uns : Bool
  idx : Nat
  last : Word
  exh : Bool
  fetched : List Ahead
  pending : Option Nat
  deriving DecidableEq, Repr

/-! ### Requests in the fabric -/

/-- The functions of `CA` (R152, R153). -/
inductive AtomicFn | add | addf64 | addf32 | and | or | xor | min | max | minu | maxu | swap | cas
  deriving DecidableEq, Repr

/-- The mark operations on one word (R209). -/
inductive MarkFn | depAdd | depMax | clr | rd
  deriving DecidableEq, Repr

/-- A region descriptor as an operation carries it (R204, R205): its number, first location, bytes, ORIGIN, NEXP and K. -/
structure Region where
  num : Nat
  base : Nat
  size : Nat
  origin : Nat
  nexp : Nat
  k : Nat
  deriving DecidableEq, Repr

/-- One cell of a sense that is not skipped (R210–R212): its index, which patch event reads it, its key and its region. -/
structure Cell where
  idx : Nat
  patch : Nat
  key : Nat
  rg : Region
  deriving DecidableEq, Repr

/-- What a request does at its home. -/
inductive ReqOp where
  | read
  | write
  | atomic (f : AtomicFn) (cmp : Word)
  | ldf | lde | stf | stw
  | feset (v : Bool)
  | festat
  | join
  | mark (f : MarkFn) (amount : Nat) (rg : Region)
  | sense (cells : List Cell) (skipped : Nat)
  | bankRead
  | bankWrite (v : Word)
  deriving DecidableEq, Repr

/-- Where a reply's payload goes (R39, R147, R149, R176, R212). -/
inductive Dest where
  | none
  | scalar (d : Reg) (view size : Nat) (uns : Bool)
  | raw (d : Reg)
  | quad
  | row (tile row view : Nat)
  | sense (d : Reg)
  /-- words that a bundle reads before it takes effect (R160, R211, R217, R237) -/
  | sync
  /-- the next element of the read stream bound to a register (R160) -/
  | stream (d : Reg)
  deriving DecidableEq, Repr

/-- The counter of `OUTCNT` that a request raised (R156). -/
inductive Counter | none | l | s
  deriving DecidableEq, Repr

/-- One single-copy atomic unit of a request (R71): at most 8 bytes from `key`, whose effective address is `ea`; `val` is what the
home answered, `tick` the tick a mark operation took, for a sense one digit of base 4,096 for each region (R212). -/
structure Piece where
  ea : Word
  key : Nat
  len : Nat
  data : Word
  done : Bool
  val : Word
  tick : Nat
  deriving DecidableEq, Repr

/-- A request between issue and its reply or acknowledgement (R39, R70, R78); ids rise in issue order. `dataFrom`: an append issued
with the load of that id, whose value it will store (R161); `tile`: the tile that a `vst` names (R174); `held`: it has arrived at a bank
whose carve-out grows to it (R65). -/
structure Req where
  id : Nat
  tid : Tid
  core : Nat
  op : ReqOp
  pieces : List Piece
  dest : Dest
  isLoad : Bool
  isStore : Bool
  counter : Counter
  phase : BitVec 2
  epoch : Nat
  ea : Word
  fpc : Word
  queue : Nat
  dataFrom : Option Nat
  tile : Option Nat
  parked : Bool
  held : Bool
  misrouted : Bool
  orphan : Bool
  deriving DecidableEq, Repr

/-! ### Threads -/

/-- An entry of the loop sequencer's log (R186): the instruction, the row each row operand resolved to, and the scalars read. -/
structure Entry where
  instr : Instr
  rows : List Nat
  scalars : List Word
  deriving DecidableEq, Repr

/-- A `vloop` under way (R187): its entries oldest first, the count, the replay number c, the next entry, the bundle's PC;
the first of the request numbers set aside for its accesses, with the phase and the epoch that they carry, since they count as
issued at the `vloop`; and a pause for fault service or until `tret`. -/
structure VReplay where
  entries : List Entry
  count : Nat
  c : Nat
  k : Nat
  fpc : Word
  base : Nat
  phase : BitVec 2
  epoch : Nat
  paused : Option Nat
  untilTret : Bool
  deriving DecidableEq, Repr

/-- The stages of `publ` (R83, R302). -/
inductive PublStage | counters | release | exchange | done
  deriving DecidableEq, Repr

/-- Why a thread does not issue (R30, R75, R83–R85, R162, R235, R302, R311). `pc` stays at the waiting bundle (R43) but for
`migrating`, `next`, `again` and `joining`, whose continuation is elsewhere. -/
inductive Wait where
  | running
  /-- on a full/empty operation until it is served; then the acquire of R76 if it was `ldf` or `lde` -/
  | word (req : Nat)
  | sleep (v : Word) (onPromise : Bool)
  | next (since : Word)
  /-- at a `next` in which it was saved parked, and which it issues again alone (R43, R350) -/
  | again
  /-- until a `join` issued at a cycle is acknowledged (R231) -/
  | joining (req : Nat) (since : Word)
  | waitc (l s c m : BitVec 6)
  | vpop (d : Reg)
  /-- a thread moving to another core (R37); the access it then performs -/
  | migrating (pend : Option Req)
  /-- fault service (R311) -/
  | service (token : Nat)
  /-- until the thread's requests with an id below `upto` are performed; `loads`: only its loads (R75) -/
  | performed (upto : Nat) (loadsOnly : Bool)
  | publ (stage : PublStage) (upto : Nat) (loc : Nat)
  | pfenceTile
  | pfenceKeep (upto : Nat) (closed : Bool)
  /-- a `wrsr` of `MREGi` until the referee has applied it (R205) -/
  | mregWrite
  /-- a `wrsr BANKPART` until the bank has taken it (R356) -/
  | bankWrite (req : Nat)
  | exiting (upto : Nat)
  /-- until the words or the stream element that its bundle reads have come (R160, R217) -/
  | fetching (req : Nat)
  /-- a `launch` at its bundle, until the release that covers the requests below `upto` has completed (R237) -/
  | released (upto : Nat)
  /-- a task has been obtained and its PC taken; until the loads with an id below `upto` are performed (R34) -/
  | acquire (upto : Nat)
  /-- a `fence.rel` or `fence.full` that would close a fourth phase (R78, R155) -/
  | fence (scope : Nat) (full : Bool)
  /-- a `migr` to the core of a team, until the load and store counters are zero and the phases complete (R78, R235) -/
  | migr (team : Nat)
  /-- a fault stopped it (R309); its grid ends under R316 -/
  | faulted
  | ended
  /-- an effect of a replay-mode chunk that its commit performs (R327) -/
  | commit
  deriving DecidableEq, Repr

/-- A trap due at the thread's next bundle boundary (R312, R337, R339). -/
structure TrapDue where
  code : Nat
  tval : Word
  at_ : Word
  deriving DecidableEq, Repr

/-- A parked bundle whose arithmetic slot has taken effect (R43, R106): its PC, HM, and the registers its control slot read. -/
structure Half where
  pc : Word
  hm : Bool
  regs : Vector Word 16
  deriving DecidableEq, Repr

/-- A closed phase whose release is not complete (R78): its number, the first request number after it, whether the release was of
scope `domain`, and whether the thread had stored into another package (R355). -/
structure ClosedPhase where
  num : BitVec 2
  upto : Nat
  domain : Bool
  far : Bool
  deriving DecidableEq, Repr

/-- A logical thread (R26, R27). -/
structure Thread where
  id : Tid
  regs : Vector Word 16
  pc : Word
  fregs : Vector FReg 8
  tstat : Word
  cntL : BitVec 6
  cntS : BitVec 6
  cntC : BitVec 6
  cntM : BitVec 6
  tvec : Word
  tcause : Word
  tpc : Word
  tval : Word
  phaseNo : BitVec 2
  closed : List ClosedPhase
  far : Bool
  epoch : Nat
  awaiting : List (Reg × Nat)
  streams : Vector (Option Stream) 4
  resq : List Word
  log : List Entry
  vreplay : Option VReplay
  wait : Wait
  core : Nat
  slot : Nat
  homeSlot : Nat
  launches : BitVec 32
  promises : List (Nat × Word)
  traps : List TrapDue
  taskAt : Option Word
  yieldUntil : Word
  half : Option Half
  outer : Option Half
  got : List (Word × List Word)
  deriving DecidableEq, Repr

/-! ### Teams and grids -/

/-- A task (R32, R265): its PC, s4–s7, and the cycle of its push. -/
structure Task where
  pc : Word
  s4 : Word
  s5 : Word
  s6 : Word
  s7 : Word
  stamp : Word
  deriving DecidableEq, Repr

/-- A `fork` issued whose push waits for its release, which covers the requests below `upto` (R33). -/
structure PendPush where
  tid : Tid
  upto : Nat
  task : Task
  deriving DecidableEq, Repr

/-- A double window (R165, R238): in the TCM share or the scratchpad partition, from `off`, two buffers of `len` bytes;
`flipped`: the second buffer is the visible half; `step`: the `mrot` steps exchanged into view (R199); `recv`: the blocks of
the next step that have arrived whole (0 A, 1 B, 2 SA, 3 SB). -/
structure DWindow where
  spad : Bool
  off : Nat
  len : Nat
  flipped : Bool
  step : Nat
  recv : List Nat
  deriving DecidableEq, Repr

/-- A record in the matrix queue (R119, R192): its eight words, its owner, the rows done (R195), whether its
multiply is complete, the scales of A and of B that have been read (R99), the units of a drain and the blocks of an `mrot` not yet written, a pause for fault service or until `tret` (R337). -/
structure MRec where
  id : Nat
  words : List Word
  tid : Tid
  fpc : Word
  upto : Nat
  rows : Nat
  running : Bool
  multiplied : Bool
  scalesA : List Word
  scalesB : List Word
  writes : List Piece
  sends : List (Nat × List Piece)
  paused : Option Nat
  untilTret : Bool
  deriving DecidableEq, Repr

/-- Request messages counted for R45: the cluster of their home, the TCM share they went to (0 for another home, else one more
than its grid · 8,192 + team), and how many. -/
structure SentTo where
  cluster : Nat
  share : Nat
  n : Nat
  deriving DecidableEq, Repr

/-- A team (R24, R26). `sent` counts its request messages since the last swap instant, `hist` those of the intervals before, the
latest first (R45); `mrotStep` counts the `mrot` steps completed, `mrotWins` holds for each window the last one that it received (R199);
`savedMq` holds its records while it is saved, and
`savedFrom` is the core whose saddlebag it then took along (R43). -/
structure Team where
  grid : Nat
  lteam : Nat
  core : Option Nat
  tiles : List Tile
  pool : Nat
  tcm : Nat
  spad : Nat
  spill : Nat
  nthread : Nat
  deque : List Task
  windows : List DWindow
  sent : List SentTo
  hist : List (List SentTo)
  placedAt : Word
  mrotStep : Nat
  mrotWins : List (Nat × Nat)
  savedMq : List MRec
  savedFrom : Nat
  deriving DecidableEq, Repr

/-- A hint range (R158). -/
structure Hint where
  base : Nat
  len : Nat
  kind : BitVec 2
  deriving DecidableEq, Repr

/-- A fault as detected (R315, R319): `byThread` when a thread raised it. -/
structure FaultRec where
  cycle : Word
  byThread : Bool
  team : Nat
  thread : Nat
  status : Nat
  cause : Nat
  detail : Nat
  fpc : Word
  fval : Word
  deriving DecidableEq, Repr

/-- A launch descriptor (R237). -/
structure Descriptor where
  entry : Word
  done : Word
  shape : Word
  flags : Word
  tvec : Word
  mregp : Word
  dwin : Word
  args : List Word
  rsv : List Word
  deriving DecidableEq, Repr

/-- Where a grid stands: queued by the referee, placed, stopping for pre-emption since a cycle (R43), saved. -/
inductive GridState where
  | queued
  | placed
  | quiescing (since : Word)
  | saved
  deriving DecidableEq, Repr

/-- An effect of a replay-mode chunk that takes place at its commit (R264, R327). -/
inductive Deferred where
  | push (team : Nat) (t : Task)
  | launch (who : Tid) (desc : Descriptor) (regions : List (Word × Word)) (windows : List DWindow) (callix : Word)
  | record (who : Tid) (fpc : Word) (words : List Word)
  | copy (who : Tid) (kind : Nat) (fpc : Word) (ops : List Word) (id : Nat) (p : Word)
  | publ (who : Tid) (loc : Nat)
  | pfence (who : Tid) (keep : Bool)
  | mreg (n : Nat) (v : Word)
  | bank (core : Nat) (who : Tid) (v : Word)
  /-- a `prog` or a task completed, which makes the grid live once committed (R323) -/
  | live
  deriving DecidableEq, Repr

/-- A byte of a keep-region store that is performed and not yet durable (R85, R86), or where `bit` gives one the full/empty bit of the
word at `key` (R66); `id` is that of the store. -/
structure KeepStore where
  id : Nat
  tid : Tid
  epoch : Nat
  key : Nat
  val : Byte
  ea : Word
  bit : Option Bool
  deriving DecidableEq, Repr

/-- What a chunk writes is kept apart until its commit (R262): memory and empty words as the chunk sees them, and as they were
when it began, what its threads have stored: key and bytes, and their keep-region stores. -/
structure Apart where
  mem : List Host.Cell
  empty : List Nat
  mem0 : List Host.Cell
  empty0 : List Nat
  writes : List (Nat × Nat)
  keep : List KeepStore
  deriving DecidableEq, Repr

/-- Replay mode (R262, R263): the innings, the team whose chunk runs, its turn 0–511, the effects kept for the commit, what the
chunk keeps apart, whether its commit is under way and since when (R264), and the slot whose bundle ended the team's last chunk early
(R327). -/
structure Replay where
  innings : Nat
  team : Nat
  turn : Nat
  deferred : List Deferred
  apart : Option Apart
  committing : Bool
  commitAt : Word
  early : List (Nat × Nat)
  deriving DecidableEq, Repr

/-- A grid (R24, R41, R42, R244). `entry`: its queue and the entry of that queue that launched it; `held`: the breakpoints that
hold it (R274). -/
structure Grid where
  num : Nat
  queue : Nat
  prio : Nat
  parent : Option Nat
  callix : Word
  depth : Nat
  desc : Descriptor
  regions : List (Word × Word)
  windows : List DWindow
  readyAt : Word
  consumed : Word
  entry : Option (Nat × Nat)
  held : List Nat
  state : GridState
  start : Word
  mreg : List (Word × Word)
  mregPend : List (Nat × Word × Tid)
  hints : List Hint
  pushes : List PendPush
  faults : List FaultRec
  nfault : Nat
  live : Bool
  placedSince : Word
  tasks : Nat
  qwait : Nat
  search : Nat
  run : Nat
  steals : Nat
  failed : Nat
  replay : Replay
  deriving DecidableEq, Repr

/-! ### Copies, cores, clusters, banks -/

/-- A copy accepted by an engine (R163, R164, R339): kind 0 `cpy`, 1 `cpyg`, 2 `cpys`; the operands `s8`–`s13`; the row or
element to read next; the units read and not yet written; the promise; a pause for fault service, or until the thread's `tret`;
the core that issued it (R267); for a queue's copy entry, that entry. -/
structure Copy where
  id : Nat
  kind : Nat
  tid : Tid
  grid : Nat
  core : Nat
  cluster : Nat
  ops : List Word
  next : Nat
  writes : List Piece
  promise : Word
  missed : Bool
  paused : Option Nat
  untilTret : Bool
  counted : Bool
  fpc : Word
  upto : Nat
  entry : Option (Nat × Nat)
  deriving DecidableEq, Repr

/-- The matrix unit under the rein (R203, R270). -/
inductive UnitState where
  | inactive
  | requesting (since : Word)
  | active (from_ : Word)
  | steppingDown (slot : Word)
  deriving DecidableEq, Repr

/-- The state a saddlebag slot holds (R84, R87), with the tasks whose push waits; requests and copies from number `upto` on came
after it. -/
structure Snapshot where
  cycle : Word
  upto : Nat
  threads : List Thread
  teams : List Team
  mq : List MRec
  tcm : List Host.Cell
  empties : List Nat
  pushes : List PendPush
  deriving DecidableEq, Repr

/-- A line of an instruction cache (R62): the address space of its queue, the location, the key at which it was read, the bundle. -/
structure ILine where
  queue : Nat
  loc : Nat
  key : Nat
  bundle : Word
  deriving DecidableEq, Repr

/-- A core (R17). A core not listed is at reset. -/
structure Core where
  num : Nat
  ptr : Nat
  mq : List MRec
  unit : UnitState
  emptied : Word
  power : PowerLevel
  entering : Option (PowerLevel × Word)
  waking : Option Word
  idleSince : Word
  frozen : Nat
  exchanging : Bool
  forwardSince : Option Word
  icache : List ILine
  slotA : Option Snapshot
  slotB : Option Snapshot
  commitB : Bool
  deriving DecidableEq, Repr

/-- A core at reset. -/
def Core.reset (c : Nat) : Core :=
  { num := c, ptr := 0, mq := [], unit := .inactive, emptied := 0, power := .run, entering := none, waking := none,
    idleSince := 0, frozen := 0, exchanging := false, forwardSince := none, icache := [], slotA := none, slotB := none,
    commitB := false }

/-- A cluster: the rein table in force (R20) and its debug block (R292). -/
structure Cluster where
  num : Nat
  fast : Bool
  arm : BitVec 8
  halted : Bool
  why : BitVec 3
  who : BitVec 3
  dsel : Word
  ddata : Word
  dstat : Word
  deriving DecidableEq, Repr

/-- A cluster at reset. -/
def Cluster.reset (c : Nat) : Cluster :=
  { num := c, fast := false, arm := 0, halted := false, why := 0, who := 0, dsel := 0, ddata := 0, dstat := 0 }

/-- How a megabyte of a carve-out was last withdrawn (R357). -/
inductive Withdrawal | shrink | cut
  deriving DecidableEq, Repr

/-- A home bank (R64, R65, R347, R356, R357). `busy` holds the W of the change in progress. -/
structure Bank where
  num : Nat
  w : Nat
  cur : Nat
  busy : Option Nat
  waiting : Option Nat
  withdrawn : List (Nat × Withdrawal)
  retired : List Nat
  deriving DecidableEq, Repr

/-- A bank at reset. -/
def Bank.reset (b : Nat) : Bank :=
  { num := b, w := 0, cur := 0, busy := none, waiting := none, withdrawn := [], retired := [] }

/-! ### The referee, the host, the links -/

/-- An entry being consumed or run (R254): its identity, its number, whether that is of an earlier enabling of the queue, its
address, KIND, and once complete its record; `stops`: the queue stops once the record is written (R320). -/
structure QEntry where
  id : Nat
  num : Nat
  old : Bool
  addr : Nat
  kind : Nat
  grid : Nat
  done : Bool
  status : Nat
  cause : Nat
  written : Bool
  stops : Bool
  deriving DecidableEq, Repr

/-- A queue (R252, R288). `pos` is the address of the entry to consume next, `link` where its address is read when `pos` is 0,
`held` the breakpoints that hold it at the entry there (R274),
`passed`: the entry at `pos` has been released. -/
structure Queue where
  num : Nat
  head : Word
  seq : Word
  en : Bool
  prio : BitVec 3
  sirq : Bool
  lat : BitVec 32
  pt : Word
  inva : Word
  invl : BitVec 36
  invBusy : Bool
  invUpto : Nat
  pos : Nat
  link : Nat
  number : Nat
  seqDone : Nat
  entries : List QEntry
  waitKind : Option (Word × Word × Nat)
  polledAt : Word
  held : List Nat
  passed : Bool
  deriving DecidableEq, Repr

/-- A queue at reset (R288). -/
def Queue.reset (q : Nat) : Queue :=
  { num := q, head := 0, seq := 0, en := false, prio := 0, sirq := false, lat := 0, pt := 0, inva := 0, invl := 0,
    invBusy := false, invUpto := 0, pos := 0, link := 0, number := 0, seqDone := 0, entries := [], waitKind := none,
    polledAt := 0, held := [], passed := false }

/-- What waits for a fault-service reply (R311, R337, R339): a thread, its `vloop`, a matrix record, a copy. -/
inductive FsWho where
  | thread (t : Tid)
  /-- a thread in `next` since a cycle, which would append a task's value (R232) -/
  | seek (t : Tid) (since : Word)
  | replay (t : Tid)
  | record (core id : Nat)
  | copy (id : Nat)
  deriving DecidableEq, Repr

/-- A fault-service record (R289); `inRing`: written to the ring. -/
structure FsRec where
  token : Nat
  va : Word
  tid : Tid
  kind : Nat
  queue : Nat
  cycle : Word
  who : FsWho
  inRing : Bool
  deriving DecidableEq, Repr

/-- A page-table entry as a walk has read it, held until an invalidation of its range completes (R55): the queue whose table it
belongs to, the locations it leads to, its key, and its value. -/
structure TlbEntry where
  queue : Nat
  base : Nat
  size : Nat
  key : Nat
  val : Word
  deriving DecidableEq, Repr

/-- The state of a line of a data cache (R17, R61). -/
inductive LineState | m | o | e | s
  deriving DecidableEq, Repr

/-- A 32-byte line that the data cache of a core holds (R17, R61): its key / 32. -/
structure Line where
  core : Nat
  num : Nat
  st : LineState
  deriving DecidableEq, Repr

/-- A reach block and the program it runs (R294, R295); `stopping`: the STATUS with which it stops next, 0 while it runs on. -/
structure Reach where
  num : Nat
  rbase : Word
  rlen : Word
  rpc : Word
  run : Bool
  status : BitVec 4
  stopping : BitVec 4
  args : List Word
  regs : Vector Word 16
  pc : Word
  deriving DecidableEq, Repr

/-- A reach block at reset (R295). -/
def Reach.reset (n : Nat) : Reach :=
  { num := n, rbase := 0, rlen := 0, rpc := 0, run := false, status := 0, stopping := 0, args := [0, 0, 0, 0],
    regs := Vector.replicate 16 0, pc := 0 }

/-- A response of a Nolend base die (R293): TAG, the error status, the data bytes, and the full/empty bits and ECC status
that `FEOP` and `METARD` return. -/
structure Response where
  stack : Nat
  tag : Nat
  error : Bool
  data : List Byte
  bits : List Bool
  deriving DecidableEq, Repr

/-- A column's temperature sensor (R353, R354). -/
structure Sensor where
  col : Nat
  reading : Int
  same : Nat
  failed : Bool
  temp : Int
  level : Nat
  deriving DecidableEq, Repr

/-- A place where errors were corrected (R343): count since the last record, and the cycle of that record. -/
structure Corrected where
  key : Nat
  count : Nat
  last : Word
  deriving DecidableEq, Repr

/-- The global device registers (R286, R290, R291, R299, R322, R343). -/
structure HostRegs where
  pkgnum : BitVec 13
  nstacks : Nat
  cap : Nat
  fsqbase : Word
  fsqSize : BitVec 12
  fsqHead : BitVec 12
  fsqTail : BitVec 12
  irqaddr : Word
  wdog : BitVec 7
  telbase : Word
  telSize : BitVec 12
  telHead : BitVec 12
  telTail : BitVec 12
  telDrop : BitVec 16
  budget : BitVec 2
  budgetInForce : BitVec 2
  fast : Bool
  attBusy : Bool
  attDone : Bool
  attErr : Bool
  attaddr : Word
  attnonce : List Word
  attTaken : Word × List Word
  cpba : List Word
  cpbc : List Word
  deriving DecidableEq, Repr

/-- What happens next in the run: an issue on a core, a bundle of a reach program, a step of another agent, a write of the host to
memory (also one that lays out a program image, R10), a base-die request with its header (R293), the host's request to gate a core
(R268), an error that arises in a storage place (one bit or more, R344), a wrong element of a row of a tile (R346), or a wear failure of
an MRAM place (R352) (log entry 1). -/
inductive Act where
  | issue (core : Nat)
  | reach (unit : Nat)
  | event (i : Instr)
  | hostStore (addr : Nat) (bytes : List Byte)
  | imageStore (addr : Nat) (bytes : List Byte)
  | packet (stack : Nat) (header : Word) (data : BitVec 2048)
  | hostGate (core : Nat) (level : PowerLevel)
  | upset (place : Nat) (more : Bool)
  | wrongElement (grid team tile row elem : Nat) (v : Nat)
  | wear (place : Nat)
  deriving DecidableEq, Repr

/-- An act and the cycles before it. -/
structure Due where
  delay : Nat
  act : Act
  deriving DecidableEq, Repr

/-- The machine. `agenda` and what follows it are the model's own (log entry 1): `background` holds the background accesses of this cycle,
which come after its other accesses (R272); `chunkWrites` gathers what the threads of a
replay-mode chunk store in a turn (R262, R327). -/
structure State where
  cycle : Word
  cur : Thread
  rest : List Thread
  teams : List Team
  grids : List Grid
  cores : List Core
  clusters : List Cluster
  banks : List Bank
  queues : List Queue
  copies : List Copy
  mem : List Host.Cell
  empty : List Nat
  poison : List Nat
  soft : List Nat
  keepDurable : List Host.Cell
  keepEmpty : List Nat
  keepPending : List KeepStore
  fabric : List Req
  tlb : List TlbEntry
  lines : List Line
  fs : List FsRec
  host : HostRegs
  corrected : List Corrected
  reach : List Reach
  nolend : List Response
  linksDown : List Nat
  linkErrors : List (Nat × Nat)
  sensors : List Sensor
  spares : List Nat
  keepSpares : List Nat
  mramBad : List Nat
  gateReq : List (Nat × PowerLevel)
  firmware : Option (BitVec 384)
  powered : Bool
  exchanges : List (Nat × Nat)
  agenda : List Due
  background : List Instr
  oracle : List Nat
  fresh : Nat
  issued : List Nat
  aborted : Bool
  chunkWrites : Option (List (Nat × Nat))
  deriving DecidableEq, Repr

/-- No instruction of this model stops the machine with a fault: a fault of the spec ends a grid and the machine goes on
(R309, R316). -/
inductive Fault where
  /-- raised by no step; it stands so that the type has a name for a stop (safe) -/
  | stopped
  deriving DecidableEq, Repr

/-- Why there is no meaning. -/
inductive Refusal where
  /-- an instruction that has no meaning in the model; only an arm of `exec` raises it (safe) -/
  | notModelled (mnemonic : String)
  deriving DecidableEq, Repr

/-- A thread that no grid has: the slot contents before a launch (log entry 3). -/
def Thread.vacant : Thread :=
  { id := ⟨0, 0, 0⟩, regs := Vector.replicate 16 0, pc := 0, fregs := Vector.replicate 8 FReg.empty,
    tstat := 0x340000, cntL := 0, cntS := 0, cntC := 0, cntM := 0, tvec := 0, tcause := 0, tpc := 0, tval := 0,
    phaseNo := 0, closed := [], far := false, epoch := 0, awaiting := [], streams := Vector.replicate 4 none, resq := [], log := [],
    vreplay := none, wait := .ended, core := 0, slot := 0, homeSlot := 0, launches := 0, promises := [], traps := [],
    taskAt := none, yieldUntil := 0, half := none, outer := none, got := [] }

/-- The global registers at reset (R286, R290, R291, R299, R322, R343); PKGNUM, STACKCFG: log entry 3. -/
def HostRegs.reset : HostRegs :=
  { pkgnum := 0, nstacks := 4, cap := 0, fsqbase := 0, fsqSize := 0, fsqHead := 0, fsqTail := 0, irqaddr := 0, wdog := 31,
    telbase := 0, telSize := 0, telHead := 0, telTail := 0, telDrop := 0, budget := 1, budgetInForce := 1, fast := false,
    attBusy := false, attDone := false, attErr := false, attaddr := 0, attnonce := [0, 0, 0, 0],
    attTaken := (0, [0, 0, 0, 0]), cpba := [0, 0, 0, 0], cpbc := [0, 0, 0, 0] }

/-- The machine right after reset: nothing placed, nothing queued, every register at the value INVENTORY.md gives. -/
def State.reset : State :=
  { cycle := 0, cur := Thread.vacant, rest := [], teams := [], grids := [], cores := [], clusters := [], banks := [],
    queues := [], copies := [], mem := [], empty := [], poison := [], soft := [], keepDurable := [], keepEmpty := [], keepPending := [],
    fabric := [], tlb := [], lines := [], fs := [], host := HostRegs.reset, corrected := [], reach := [], nolend := [],
    linksDown := [], linkErrors := [], sensors := [], spares := [256, 256, 256, 256], keepSpares := [256, 256, 256, 256], mramBad := [], gateReq := [], firmware := none,
    powered := true, exchanges := [], agenda := [], background := [], oracle := [], fresh := 0, issued := [], aborted := false,
    chunkWrites := none }

end Sys2Proof.Machine
end

