-- ==== Sys2Proof/Machine/Flags.lean ====
section
/-! DEFINITION. Number formats, rounding and flags (R88–R99, R135–R142): every value is read exactly, computed exactly and
narrowed once. -/

namespace Sys2Proof.Machine

/-! ### Exact values -/

/-- An exact value: NaN, ±∞, or ± m · 2^e; `m = 0` is ±0. -/
inductive FV where
  | nan
  | inf (neg : Bool)
  | fin (neg : Bool) (m : Nat) (e : Int)
  deriving DecidableEq, Repr

/-- A floating-point format (R89): exponent and fraction bits, and whether it has infinities (E4M3 has none, R90). -/
structure Fmt where
  eb : Nat
  fb : Nat
  hasInf : Bool
  deriving DecidableEq, Repr

/-- FP64 of R89. -/
def Fmt.fp64 : Fmt := ⟨11, 52, true⟩
/-- FP32 of R89. -/
def Fmt.fp32 : Fmt := ⟨8, 23, true⟩
/-- BF16 of R89. -/
def Fmt.bf16 : Fmt := ⟨8, 7, true⟩
/-- E4M3 of R89, R90. -/
def Fmt.e4m3 : Fmt := ⟨4, 3, false⟩

/-- 2^(eb − 1) − 1 (R89). -/
def Fmt.bias (f : Fmt) : Nat := 2 ^ (f.eb - 1) - 1
/-- The place of the sign bit. -/
def Fmt.signPos (f : Fmt) : Nat := f.eb + f.fb
/-- The exponent of the last place of subnormals. -/
def Fmt.ulpMin (f : Fmt) : Int := 1 - (f.bias : Int) - (f.fb : Int)
/-- The first magnitude pattern that is not finite: ∞ (R89), or the NaN of E4M3. -/
def Fmt.top (f : Fmt) : Nat := if f.hasInf then (2 ^ f.eb - 1) * 2 ^ f.fb else 2 ^ (f.eb + f.fb) - 1
/-- The canonical NaN (R89). -/
def Fmt.canonNaN (f : Fmt) : Nat := if f.hasInf then (2 ^ f.eb - 1) * 2 ^ f.fb + 2 ^ (f.fb - 1) else f.top

/-- The exact value of a pattern (R89, R90). -/
def Fmt.decode (f : Fmt) (bits : Nat) : FV :=
  let mag := bits % 2 ^ f.signPos
  let neg := bits / 2 ^ f.signPos % 2 == 1
  if f.hasInf && mag == f.top then .inf neg
  else if f.top ≤ mag then .nan
  else
    let ex := mag / 2 ^ f.fb
    let fr := mag % 2 ^ f.fb
    if ex = 0 then .fin neg fr f.ulpMin
    else .fin neg (2 ^ f.fb + fr) (f.ulpMin + ((ex : Int) - 1))

/-- Does the pattern stand for NaN? -/
def Fmt.isNaN (f : Fmt) (bits : Nat) : Bool := f.decode bits == .nan

/-- m · 2^k for k ≥ 0, m / 2^(−k) rounded down otherwise. -/
def shiftZ (m : Nat) (k : Int) : Nat := if 0 ≤ k then m * 2 ^ k.toNat else m / 2 ^ (-k).toNat

/-- The integer ± m · 2^(e − base), exact when `base ≤ e`. -/
def signedAt (neg : Bool) (m : Nat) (e base : Int) : Int :=
  let v : Int := (m * 2 ^ (e - base).toNat : Nat)
  if neg then -v else v

/-- Is the value ±0? -/
def FV.isZero : FV → Bool
  | .fin _ m _ => m == 0
  | _ => false

/-- The sign bit of a value that is not NaN. -/
def FV.neg? : FV → Bool
  | .nan => false
  | .inf n => n
  | .fin n _ _ => n

/-- The value with the other sign. -/
def FV.negate : FV → FV
  | .nan => .nan
  | .inf n => .inf !n
  | .fin n m e => .fin (!n) m e

/-- A finite value from an exact integer times a power of two; zero is +0. -/
def FV.ofInt (v : Int) (e : Int) : FV := .fin (decide (v < 0)) v.natAbs e

/-- The exact product (R135): 0 × ∞ is NaN. -/
def FV.mul : FV → FV → FV
  | .nan, _ => .nan
  | _, .nan => .nan
  | .inf a, .inf b => .inf (a != b)
  | .inf a, .fin b m _ => if m = 0 then .nan else .inf (a != b)
  | .fin a m _, .inf b => if m = 0 then .nan else .inf (a != b)
  | .fin a m e, .fin b n f => .fin (a != b) (m * n) (e + f)

/-- The least exponent among the finite values of a list. -/
def minExp : List FV → Int → Int
  | [], d => d
  | .fin _ m e :: r, d => minExp r (if m = 0 then d else if e < d then e else d)
  | _ :: r, d => minExp r d

/-- The sum of the finite values of a list, in units of 2^base. -/
def sumAt (base : Int) : List FV → Int
  | [] => 0
  | .fin n m e :: r => (if m = 0 then 0 else signedAt n m e base) + sumAt base r
  | _ :: r => sumAt base r

/-- The exact sum of a list (R94, R97): NaN for a NaN or infinities of both signs; an exact zero is −0 when every addend is
−0, or, rounding down, when the addends are not all +0. -/
def sumFV (down : Bool) (l : List FV) : FV :=
  if l.any (· == .nan) then .nan
  else if l.any (· == .inf false) then (if l.any (· == .inf true) then .nan else .inf false)
  else if l.any (· == .inf true) then .inf true
  else
    let base := minExp l 2000
    let s := sumAt base l
    if s = 0 then
      let allNeg := l.all fun v => v.isZero && v.neg?
      let allPos := l.all fun v => v.isZero && !v.neg?
      .fin (!l.isEmpty && (allNeg || (down && !allPos))) 0 0
    else .ofInt s base

/-- The sum of two values. -/
def FV.add (down : Bool) (x y : FV) : FV := sumFV down [x, y]

/-- Compare two finite values exactly. -/
def cmpFin (a : Bool) (m : Nat) (e : Int) (b : Bool) (n : Nat) (f : Int) : Ordering :=
  let base := if e < f then e else f
  compare (signedAt a m e base) (signedAt b n f base)

/-- Compare two values that are not NaN; −0 equals +0. -/
def FV.cmp : FV → FV → Ordering
  | .inf a, .inf b => if a = b then .eq else if a then .lt else .gt
  | .inf a, _ => if a then .lt else .gt
  | _, .inf b => if b then .gt else .lt
  | .fin a m e, .fin b n f => cmpFin a m e b n f
  | _, _ => .eq

/-! ### Rounding (R91, R94) -/

/-- The rounding functions of R94. -/
inductive RMode | ne | z | down | up
  deriving DecidableEq, Repr

/-- FRM selects the mode; 4–7 are taken as 0 (R94). -/
def RMode.ofFRM (frm : BitVec 3) : RMode :=
  match frm.toNat with
  | 1 => .z
  | 2 => .down
  | 3 => .up
  | _ => .ne

/-- A quotient and remainder rounded to an integer: `q` rounded by the mode when the remainder `r` of divisor `d` is not 0. -/
def roundStep (mode : RMode) (neg : Bool) (q r d : Nat) : Nat :=
  if r = 0 then q
  else
    match mode with
    | .z => q
    | .down => if neg then q + 1 else q
    | .up => if neg then q else q + 1
    | .ne => if 2 * r < d then q else if d < 2 * r then q + 1 else if q % 2 = 0 then q else q + 1

/-- n/d · 2^e in units of 2^u, rounded; and whether that was exact. -/
def roundUnits (mode : RMode) (neg : Bool) (n d : Nat) (e u : Int) : Nat × Bool :=
  let k := e - u
  let num := if 0 ≤ k then n * 2 ^ k.toNat else n
  let den := if 0 ≤ k then d else d * 2 ^ (-k).toNat
  (roundStep mode neg (num / den) (num % den) den, num % den == 0)

/-- Floor(log2(n/d)) for n, d > 0. -/
def log2Frac (n d : Nat) : Int :=
  let k : Int := (n.log2 : Int) - (d.log2 : Int)
  let below := if 0 ≤ k then decide (n < d * 2 ^ k.toNat) else decide (n * 2 ^ (-k).toNat < d)
  if below then k - 1 else k

/-- FFLAGS of R95: NX 1, UF 2, OF 4, DZ 8, NV 16. -/
abbrev Flags := BitVec 5

/-- NX of R95. -/
def flagNX : Flags := 1#5
/-- UF of R95. -/
def flagUF : Flags := 2#5
/-- OF of R95. -/
def flagOF : Flags := 4#5
/-- DZ of R95. -/
def flagDZ : Flags := 8#5
/-- NV of R95. -/
def flagNV : Flags := 16#5

/-- The pattern with a sign. -/
def Fmt.withSign (f : Fmt) (neg : Bool) (mag : Nat) : Nat := if neg then 2 ^ f.signPos + mag else mag

/-- Overflow (R91): ±∞ or the largest finite value by mode; E4M3 saturates. -/
def Fmt.overflow (f : Fmt) (mode : RMode) (neg : Bool) : Nat :=
  if !f.hasInf then f.withSign neg (f.top - 1)
  else
    match mode, neg with
    | .ne, _ => f.withSign neg f.top
    | .z, _ => f.withSign neg (f.top - 1)
    | .down, true => f.withSign true f.top
    | .down, false => f.top - 1
    | .up, true => f.withSign true (f.top - 1)
    | .up, false => f.top

/-- ± n/d · 2^e rounded into the format (R91, R94), with NX, UF, OF as R95 states; n, d > 0. -/
def Fmt.roundFrac (f : Fmt) (mode : RMode) (neg : Bool) (n d : Nat) (e : Int) : Nat × Flags :=
  let ex := log2Frac n d + e
  let uFree := ex - (f.fb : Int)
  let u := if uFree < f.ulpMin then f.ulpMin else uFree
  let r := roundUnits mode neg n d e u
  let bits := (u - f.ulpMin).toNat * 2 ^ f.fb + r.1
  if f.top ≤ bits then (f.overflow mode neg, flagOF ||| flagNX)
  else
    let free := (roundUnits mode neg n d e uFree).1
    let tiny := decide (uFree < f.ulpMin) && decide (free < 2 ^ (f.ulpMin - uFree).toNat * 2 ^ f.fb)
    (f.withSign neg bits, if r.2 then 0#5 else if tiny then flagNX ||| flagUF else flagNX)

/-- A value rounded into the format; NaN is the canonical NaN (R93). -/
def Fmt.round (f : Fmt) (mode : RMode) : FV → Nat × Flags
  | .nan => (f.canonNaN, 0)
  | .inf n => (if f.hasInf then f.withSign n f.top else f.withSign n (f.top - 1), 0)
  | .fin n m e => if m = 0 then (f.withSign n 0, 0) else f.roundFrac mode n m 1 e

/-- `RoundNE` of a value, as bits. -/
def Fmt.ne (f : Fmt) (v : FV) : Nat := (f.round .ne v).1

/-- An exact value rounded to an integer, and whether that was exact (R142). -/
def roundInt (mode : RMode) (neg : Bool) (m : Nat) (e : Int) : Int × Bool :=
  let r := roundUnits mode neg m 1 e 0
  (if neg then -(r.1 : Int) else (r.1 : Int), r.2)

/-- A value converted to an integer range (R91, R142): the nearest end outside it, 0 for NaN. -/
def toIntRange (mode : RMode) (lo hi : Int) : FV → Int × Flags
  | .nan => (0, flagNV)
  | .inf n => (if n then lo else hi, flagNV)
  | .fin n m e =>
    let r := roundInt mode n m e
    if r.1 < lo then (lo, flagNV) else if hi < r.1 then (hi, flagNV) else (r.1, if r.2 then 0#5 else flagNX)

/-! ### Scalar floating-point operations (R135–R142), on patterns -/

/-- x + y, rounded once (R135); NV for ∞ − ∞. -/
def Fmt.addOp (f : Fmt) (mode : RMode) (x y : FV) : Nat × Flags :=
  match x, y with
  | .inf a, .inf b => if a = b then (f.withSign a f.top, 0) else (f.canonNaN, flagNV)
  | _, _ => f.round mode (x.add (mode == .down) y)

/-- x × y, rounded once (R135); NV for 0 × ∞. -/
def Fmt.mulOp (f : Fmt) (mode : RMode) (x y : FV) : Nat × Flags :=
  match x.mul y with
  | .nan => (f.canonNaN, if x == .nan || y == .nan then 0#5 else flagNV)
  | v => f.round mode v

/-- x / y, rounded once (R135). -/
def Fmt.divOp (f : Fmt) (mode : RMode) (x y : FV) : Nat × Flags :=
  match x, y with
  | .nan, _ => (f.canonNaN, 0)
  | _, .nan => (f.canonNaN, 0)
  | .inf _, .inf _ => (f.canonNaN, flagNV)
  | .inf a, .fin b _ _ => (f.withSign (a != b) f.top, 0)
  | .fin a _ _, .inf b => (f.withSign (a != b) 0, 0)
  | .fin a m e, .fin b n g =>
    if n = 0 then (if m = 0 then (f.canonNaN, flagNV) else (f.withSign (a != b) f.top, flagDZ))
    else if m = 0 then (f.withSign (a != b) 0, 0)
    else f.roundFrac mode (a != b) m n (e - g)

/-- The integer square root, bit by bit. -/
def isqrtBits (n : Nat) : Nat → Nat → Nat
  | 0, r => r
  | i + 1, r => isqrtBits n i (if (r + 2 ^ i) * (r + 2 ^ i) ≤ n then r + 2 ^ i else r)

/-- Floor(√n). -/
def isqrt (n : Nat) : Nat := isqrtBits n (n.log2 / 2 + 1) 0

/-- √x, rounded once (R135); NV below zero, √−0 = −0. -/
def Fmt.sqrtOp (f : Fmt) (mode : RMode) : FV → Nat × Flags
  | .nan => (f.canonNaN, 0)
  | .inf n => if n then (f.canonNaN, flagNV) else (f.top, 0)
  | .fin n m e =>
    if m = 0 then (f.withSign n 0, 0)
    else if n then (f.canonNaN, flagNV)
    else
      let m' := if e % 2 = 0 then m else 2 * m
      let e' := if e % 2 = 0 then e else e - 1
      let k := f.fb + 4
      let big := m' * 2 ^ (2 * k)
      let r := isqrt big
      let sticky := if r * r = big then 0 else 1
      f.roundFrac mode false (2 * r + sticky) 1 (e' / 2 - (k : Int) - 1)

/-- a × b + c with one rounding (R136): NV for 0 × ∞ even when c is NaN. -/
def Fmt.fmaOp (f : Fmt) (mode : RMode) (x y z : FV) : Nat × Flags :=
  match x.mul y with
  | .nan => (f.canonNaN, if x == .nan || y == .nan then 0#5 else flagNV)
  | p => f.addOp mode p z

/-- `fmin` of R137 on patterns: −0 below +0; the other operand when exactly one is NaN. -/
def Fmt.minOp (f : Fmt) (x y : Nat) : Nat :=
  match f.decode x, f.decode y with
  | .nan, .nan => f.canonNaN
  | .nan, _ => y
  | _, .nan => x
  | a, b =>
    match a.cmp b with
    | .lt => x
    | .gt => y
    | .eq => if a.neg? then x else y

/-- `fmax` of R137 on patterns. -/
def Fmt.maxOp (f : Fmt) (x y : Nat) : Nat :=
  match f.decode x, f.decode y with
  | .nan, .nan => f.canonNaN
  | .nan, _ => y
  | _, .nan => x
  | a, b =>
    match a.cmp b with
    | .lt => y
    | .gt => x
    | .eq => if a.neg? then y else x

/-- `fcmp` of R138. -/
def Fmt.cmpOp (cc : FCond) (x y : FV) : Bool × Flags :=
  if x == .nan || y == .nan then
    match cc with
    | .eq => (false, 0)
    | .lt => (false, flagNV)
    | .le => (false, flagNV)
    | .un => (true, 0)
  else
    match cc with
    | .eq => (x.cmp y == .eq, 0)
    | .lt => (x.cmp y == .lt, 0)
    | .le => (x.cmp y != .gt, 0)
    | .un => (false, 0)

/-- The class bit of R139. -/
def Fmt.classOp (f : Fmt) (bits : Nat) : Nat :=
  match f.decode bits with
  | .nan => 2 ^ 8
  | .inf n => if n then 2 ^ 0 else 2 ^ 7
  | .fin n m _ =>
    if m = 0 then (if n then 2 ^ 3 else 2 ^ 4)
    else if m < 2 ^ f.fb then (if n then 2 ^ 2 else 2 ^ 5)
    else (if n then 2 ^ 1 else 2 ^ 6)

/-! ### `fcvt` (R141, R142) -/

/-- The floating format of a type code of R114. -/
def cvtFmt : Nat → Fmt
  | 0 => .fp64
  | 1 => .fp32
  | _ => .bf16

/-- The integer range of a type code of R114: `l`, `lu`, `w`, `wu`. -/
def cvtRange : Nat → Int × Int
  | 3 => (-(2 ^ 63), 2 ^ 63 - 1)
  | 4 => (0, 2 ^ 64 - 1)
  | 5 => (-(2 ^ 31), 2 ^ 31 - 1)
  | _ => (0, 2 ^ 32 - 1)

/-- The integer that a source of an integer type code holds (R141). -/
def cvtIntSource (t : Nat) (a : Word) : Int :=
  match t with
  | 3 => a.toInt
  | 4 => (a.toNat : Int)
  | 5 => (a.setWidth 32).toInt
  | _ => ((a.setWidth 32).toNat : Int)

/-- `fcvt` from type `st` to type `t`, by FRM: the value of `sD` and the flags. -/
def cvtOp (mode : RMode) (t st : Nat) (a : Word) : Word × Flags :=
  if 3 ≤ st then
    let f := cvtFmt t
    let r := f.round mode (FV.ofInt (cvtIntSource st a) 0)
    (BitVec.ofNat 64 r.1, r.2)
  else
    let sf := cvtFmt st
    let v := sf.decode (a.toNat % 2 ^ (sf.signPos + 1))
    if t ≤ 2 then
      let r := (cvtFmt t).round mode v
      (BitVec.ofNat 64 r.1, r.2)
    else
      let rg := cvtRange t
      let r := toIntRange mode rg.1 rg.2 v
      (BitVec.ofInt 64 r.1, r.2)

/-! ### Element types of tiles and views (R58, R169, R175) -/

/-- The element types: the TYPEs of R169, and E4M3 and INT8 of the views of R58. -/
inductive Elem | fp32 | bf16 | int32 | fp64 | e4m3 | int8
  deriving DecidableEq, Repr

/-- The element type of a TYPE code (R169). -/
def Elem.ofType (t : BitVec 2) : Elem :=
  match t.toNat with
  | 0 => .fp32
  | 1 => .bf16
  | 2 => .int32
  | _ => .fp64

/-- The element type of a view 1–5 (R58). -/
def Elem.ofView : Nat → Elem
  | 1 => .e4m3
  | 2 => .bf16
  | 3 => .fp32
  | 4 => .int8
  | _ => .fp64

/-- The size in bytes (R58, R169). -/
def Elem.size : Elem → Nat
  | .fp32 => 4
  | .bf16 => 2
  | .int32 => 4
  | .fp64 => 8
  | .e4m3 => 1
  | .int8 => 1

/-- n_T of R169. -/
def Elem.count (t : Elem) : Nat := 256 / t.size

/-- The floating format of an element type; `none` for integers. -/
def Elem.fmt : Elem → Option Fmt
  | .fp32 => some .fp32
  | .bf16 => some .bf16
  | .fp64 => some .fp64
  | .e4m3 => some .e4m3
  | _ => none

/-- The signed integer an element of an integer type stands for. -/
def Elem.toInt (t : Elem) (x : Nat) : Int :=
  match t with
  | .int8 => (BitVec.ofNat 8 x).toInt
  | _ => (BitVec.ofNat 32 x).toInt

/-- The range of an integer type. -/
def Elem.range : Elem → Int × Int
  | .int8 => (-128, 127)
  | _ => (-(2 ^ 31), 2 ^ 31 - 1)

/-- An integer saturated to a range. -/
def clampInt (lo hi v : Int) : Int := if v < lo then lo else if hi < v then hi else v

/-- The pattern of an integer in an integer type. -/
def Elem.ofIntBits (t : Elem) (v : Int) : Nat :=
  match t with
  | .int8 => (BitVec.ofInt 8 v).toNat
  | _ => (BitVec.ofInt 32 v).toNat

/-- `Convert` of R175: equal types copy bits (R93); floats round to nearest even, to integers by RZ with saturation, integers
to floats by RNE. -/
def Elem.convert (x : Nat) (src dst : Elem) : Nat :=
  if src = dst then x
  else
    match src.fmt, dst.fmt with
    | some f, some g => g.ne (f.decode x)
    | some f, none => dst.ofIntBits (toIntRange .z dst.range.1 dst.range.2 (f.decode x)).1
    | none, some g => g.ne (FV.ofInt (src.toInt x) 0)
    | none, none => dst.ofIntBits (clampInt dst.range.1 dst.range.2 (src.toInt x))

/-! ### Views of scalar accesses (R58, R59) -/

/-- `Decode` of R147: `v` holds the size bytes little-endian. -/
def viewDecode (view size : Nat) (uns : Bool) (v : Word) : Word :=
  match view with
  | 0 =>
    match size with
    | 1 => if uns then (v.setWidth 8).setWidth 64 else (v.setWidth 8).signExtend 64
    | 2 => if uns then (v.setWidth 16).setWidth 64 else (v.setWidth 16).signExtend 64
    | 4 => if uns then (v.setWidth 32).setWidth 64 else (v.setWidth 32).signExtend 64
    | _ => v
  | 1 => BitVec.ofNat 64 (Fmt.fp32.ne (Fmt.e4m3.decode (v.toNat % 2 ^ 8)))
  | 2 => BitVec.ofNat 64 (Fmt.fp32.ne (Fmt.bf16.decode (v.toNat % 2 ^ 16)))
  | 3 => (v.setWidth 32).setWidth 64
  | 4 => (v.setWidth 8).signExtend 64
  | _ => v

/-- `Encode` of R147: the bytes to store, little-endian in the low bytes. -/
def viewEncode (view : Nat) (v : Word) : Word :=
  match view with
  | 1 => BitVec.ofNat 64 (Fmt.e4m3.ne (Fmt.fp32.decode (v.toNat % 2 ^ 32)))
  | 2 => BitVec.ofNat 64 (Fmt.bf16.ne (Fmt.fp32.decode (v.toNat % 2 ^ 32)))
  | 4 => BitVec.ofInt 64 (clampInt (-128) 127 v.toInt)
  | _ => v

/-! ### The inner accumulator (R96) -/

/-- `RoundZE8M15`: the value kept, and whether OVF is set. -/
def roundE8M15 : FV → FV × Bool
  | .nan => (.nan, false)
  | .inf n => (.fin n (2 ^ 16 - 1) 112, true)
  | .fin n m e =>
    if m = 0 then (.fin false 0 0, false)
    else
      let ex := (m.log2 : Int) + e
      if ex < -126 then (.fin n 0 0, false)
      else if 128 ≤ ex then (.fin n (2 ^ 16 - 1) 112, true)
      else (.fin n (shiftZ m (e - (ex - 15))) (ex - 15), false)

end Sys2Proof.Machine
end

