-- ==== Sys2Proof/Machine/Ops.lean ====
section
/-! DEFINITION. The named operations over the state: sparse lists, memory and full/empty bits, the places of the package,
translation and checks, requests, faults, fault service, taking a trap and returning from one, interrupts and telemetry. -/

namespace Sys2Proof.Machine

/-! ### Bits and sparse lists -/

/-- x[hi:lo] of R3, as a number. -/
def bits (x : Word) (hi lo : Nat) : Nat := x.toNat / 2 ^ lo % 2 ^ (hi + 1 - lo)

/-- x with x[hi:lo] replaced by v. -/
def setBits (x : Word) (hi lo : Nat) (v : Nat) : Word :=
  let m := 2 ^ (hi + 1 - lo)
  BitVec.ofNat 64 (x.toNat - bits x hi lo * 2 ^ lo + v % m * 2 ^ lo)

/-- A record put into a sparse list under its number. -/
def upsert {α : Type} (num : α → Nat) (x : α) : List α → List α
  | [] => [x]
  | y :: r => if num y = num x then x :: r else y :: upsert num x r

/-- One to a count kept by key. -/
def bump (key n : Nat) : List (Nat × Nat) → List (Nat × Nat)
  | [] => [(key, n)]
  | (k, v) :: r => if k = key then (k, v + n) :: r else (k, v) :: bump key n r

/-- The count kept under a key; 0 when none is. -/
def countAt (key : Nat) : List (Nat × Nat) → Nat
  | [] => 0
  | (k, v) :: r => if k = key then v else countAt key r

/-! ### Memory (log entry 2) -/

/-- What a byte that no entry lists reads as: R27 and R65 for TCM and carve-outs; log entry 2 for the rest. -/
def Memory.unlisted : Byte := 0

/-- The byte at a key in a memory. -/
def Memory.get : List Host.Cell → Nat → Byte
  | [], _ => Memory.unlisted
  | (a, v) :: r, k => if a = k then v else Memory.get r k

/-- A byte put into a canonical memory. -/
def Memory.set : List Host.Cell → Nat → Byte → List Host.Cell
  | [], k, v => if v = Memory.unlisted then [] else [(k, v)]
  | (a, b) :: r, k, v =>
    if k < a then (if v = Memory.unlisted then (a, b) :: r else (k, v) :: (a, b) :: r)
    else if k = a then (if v = Memory.unlisted then r else (k, v) :: r)
    else (a, b) :: Memory.set r k v

/-- Keys above `lo`, strictly rising, and no entry equal to an unlisted byte. -/
def Memory.above : Option Nat → List Host.Cell → Bool
  | _, [] => true
  | lo, (a, v) :: r => (match lo with | none => true | some k => decide (k < a)) && v != Memory.unlisted && Memory.above (some a) r

/-- The canonical form of a memory. -/
def Memory.wf (m : List Host.Cell) : Bool := Memory.above none m

/-- The entries whose key a test keeps. -/
def Memory.keep (p : Nat → Bool) (m : List Host.Cell) : List Host.Cell := m.filter fun c => p c.1

/-- `n` bytes from a key, little-endian (R3). -/
def Memory.load (m : List Host.Cell) (k : Nat) : Nat → Nat
  | 0 => 0
  | n + 1 => (Memory.get m k).toNat + 256 * Memory.load m (k + 1) n

/-- `n` bytes at a key, little-endian (R3). -/
def Memory.store (m : List Host.Cell) (k : Nat) (v : Nat) : Nat → List Host.Cell
  | 0 => m
  | n + 1 => Memory.store (Memory.set m k (BitVec.ofNat 8 v)) (k + 1) (v / 256) n

/-- The byte of the machine's memory at a key. -/
def State.byte (s : State) (k : Nat) : Byte := Memory.get s.mem k

/-- Bytes of the machine's memory as a word. -/
def State.load (s : State) (k n : Nat) : Word := BitVec.ofNat 64 (Memory.load s.mem k n)

/-- Bytes of the machine's memory as a number of any width. -/
def State.loadNat (s : State) (k n : Nat) : Nat := Memory.load s.mem k n

/-- `n` bytes of memory as a list. -/
def State.loadBytes (s : State) (k : Nat) : Nat → List Byte
  | 0 => []
  | n + 1 => s.byte k :: State.loadBytes s (k + 1) n

/-- The full/empty bit of the word that holds a key (R66). -/
def State.isFull (s : State) (k : Nat) : Bool := !s.empty.contains (k / 8)

/-- The full/empty bit set or cleared (R66). -/
def State.setFull (s : State) (k : Nat) (v : Bool) : State :=
  { s with empty := if v then s.empty.filter (· != k / 8)
                    else if s.empty.contains (k / 8) then s.empty else (k / 8) :: s.empty }

/-! ### Errors in storage and copies of words (R17, R61, R344, R345)

The list of errors names a word of memory by its key / 8, and other places by numbers from 2^60 on. -/

/-- The number that stands for word `w` in a line of the data cache of core `c` (R345). -/
def lineErr (c w : Nat) : Nat := 2 ^ 80 + c * 2 ^ 52 + w

/-- Has a core's copy of the line changed data that its home lacks (R61)? -/
def LineState.dirty : LineState → Bool
  | .m => true
  | .o => true
  | _ => false

/-- The number that stands for word `w` in a clean line of its bank's cache (R345). -/
def bankClean (w : Nat) : Nat := 2 ^ 110 + w

/-- The number that stands for word `w` in a changed line of its bank's cache (R345). -/
def bankDirty (w : Nat) : Nat := 2 ^ 120 + w

/-- Does a place stand for a word of a clean line of a bank's cache? -/
def inBankClean (n : Nat) : Bool := decide (2 ^ 110 ≤ n) && decide (n < 2 ^ 120)

/-- The word of memory that a place stands for, itself or in a line of its bank. -/
def placeWord (n : Nat) : Nat := if 2 ^ 120 ≤ n then n - 2 ^ 120 else if 2 ^ 110 ≤ n then n - 2 ^ 110 else n

/-- A place of the list of errors free of them. -/
def State.clearError (s : State) (n : Nat) : State := { s with poison := s.poison.filter (· != n), soft := s.soft.filter (· != n) }

/-- The errors of all words that lie whole in `n` bytes from a key cleared, as by a write of them (R345). -/
def State.clearWords (s : State) (k n : Nat) : State :=
  let kept := fun w => !(decide (k ≤ 8 * placeWord w) && decide (8 * placeWord w + 8 ≤ k + n))
  { s with poison := s.poison.filter kept, soft := s.soft.filter kept }

/-- Bytes written; a write of all 8 bytes of a word clears the errors there (R345). -/
def State.store (s : State) (k n : Nat) (v : Nat) : State := ({ s with mem := Memory.store s.mem k v n } : State).clearWords k n

/-- Bytes from a list, at rising keys. -/
def Memory.put (m : List Host.Cell) (k : Nat) : List Byte → List Host.Cell
  | [] => m
  | b :: r => Memory.put (Memory.set m k b) (k + 1) r

/-- A list of errors as lines leave data caches: those in a changed line go with it to the words of its home. -/
def errorsAfter (gone : List Line) (l : List Nat) : List Nat :=
  let errs := gone.flatMap fun x => ([0, 1, 2, 3].filter fun i => l.contains (lineErr x.core (4 * x.num + i))).map fun i => (x, 4 * x.num + i)
  (errs.filter fun e => e.1.st.dirty).map (·.2) ++ l.filter fun n => !errs.any fun e => lineErr e.1.core e.2 == n

/-- Lines gone from data caches. A changed one is written back, and an error in it goes with it. -/
def State.dropLines (s : State) (p : Line → Bool) : State :=
  { s with lines := s.lines.filter fun l => !p l, poison := errorsAfter (s.lines.filter p) s.poison,
           soft := errorsAfter (s.lines.filter p) s.soft }

/-- The copies of the lines that `n` bytes from a key touch gone, but those of a core (R61, R154). -/
def State.invalidate (s : State) (k n : Nat) (but : Option Nat) : State :=
  s.dropLines fun l => decide (32 * l.num < k + n) && decide (k < 32 * l.num + 32) && some l.core != but

/-- Bytes that the device writes to memory for the host: no core keeps a copy of them (R61). -/
def State.deviceStore (s : State) (k n v : Nat) : State := (s.invalidate k n none).store k n v

/-- The same of a list of bytes. -/
def State.storeBytes (s : State) (k : Nat) (l : List Byte) : State :=
  let t := s.invalidate k l.length none
  ({ t with mem := Memory.put t.mem k l } : State).clearWords k l.length

/-! ### Keys of the address spaces -/

/-- The key of a byte of a TCM share (R51). -/
def tcmKey (grid team off : Nat) : Nat := 2 ^ 53 + (grid * 8192 + team) * 2 ^ 18 + off
/-- The key of a byte of a scratchpad partition (R51). -/
def spadKey (grid team off : Nat) : Nat := 2 ^ 54 + (grid * 8192 + team) * 2 ^ 21 + off
/-- The key of a byte of a carve-out (R51). -/
def carveKey (bank off : Nat) : Nat := 2 ^ 55 + bank * 2 ^ 24 + off

/-- The key of `BANKPART` of a bank of a package, one location homed at that bank (R356). -/
def bankKey (pkg bank : Nat) : Nat := 2 ^ 56 + pkg * 2 ^ 40 + bank * 2 ^ 24

/-- A home (R57). -/
inductive Home where
  | bank (pkg n : Nat)
  | tcm (grid team : Nat)
  | spad (grid team : Nat)
  | carve (bank : Nat)
  deriving DecidableEq, Repr

/-- The home of a key (R57). -/
def homeOf (k : Nat) : Home :=
  if k < 2 ^ 53 then .bank (k / 2 ^ 40) (k / 256 % 1024)
  else if k < 2 ^ 54 then .tcm ((k - 2 ^ 53) / 2 ^ 18 / 8192) ((k - 2 ^ 53) / 2 ^ 18 % 8192)
  else if k < 2 ^ 55 then .spad ((k - 2 ^ 54) / 2 ^ 21 / 8192) ((k - 2 ^ 54) / 2 ^ 21 % 8192)
  else if k < 2 ^ 56 then .carve ((k - 2 ^ 55) / 2 ^ 24)
  else .bank ((k - 2 ^ 56) / 2 ^ 40) ((k - 2 ^ 56) / 2 ^ 24 % 1024)

/-- Is the key a keep-region address (R56)? -/
def isKeep (k : Nat) : Bool := decide (k < 2 ^ 53) && decide (0x8000000000 ≤ k % 2 ^ 40) && decide (k % 2 ^ 40 < 0x8100000000)

/-! ### Geometry (R12–R15) -/

/-- The tower of a core (R14). -/
def towerOf (c : Nat) : Nat := c / 2048
/-- The core layer n of Cn (R14). -/
def layerOf (c : Nat) : Nat := c / 512 % 4
/-- The row of a core (R14). -/
def rowOf (c : Nat) : Nat := c / 32 % 16
/-- The column of a core (R14). -/
def colOf (c : Nat) : Nat := c % 32
/-- The cluster of a core, numbered as the debug blocks are (R14, R285); also its home bank, numbered as the home i of R57. -/
def clusterOf (c : Nat) : Nat := 256 * towerOf c + 64 * layerOf c + (8 * (rowOf c / 2) + colOf c / 4)
/-- The number k of a core within its cluster (R292). -/
def coreInCluster (c : Nat) : Nat := 4 * (rowOf c % 2) + colOf c % 4
/-- The core with number k of a cluster (R14, R292). -/
def coreAt (cl k : Nat) : Nat :=
  cl / 256 * 2048 + cl / 64 % 4 * 512 + (cl % 64 / 8 * 2 + k / 4) * 32 + (cl % 8 * 4 + k % 4)
/-- The eight cores of a cluster. -/
def clusterCores (cl : Nat) : List Nat := (List.range 8).map (coreAt cl)

/-- Does core `b` lie in the scope instance around core `a` (R74)? -/
def inScope (scope a b : Nat) : Bool :=
  match scope with
  | 0 => a == b
  | 1 => clusterOf a == clusterOf b
  | 2 => a / 512 == b / 512
  | 3 => towerOf a == towerOf b
  | _ => true

/-! ### Lookups -/

/-- A grid that no launch has made. -/
def Grid.vacant : Grid :=
  { num := 0, queue := 0, prio := 0, parent := none, callix := 0, depth := 0,
    desc := ⟨0, 0, 0, 0, 0, 0, 0, [], []⟩, regions := [], windows := [], readyAt := 0, consumed := 0, entry := none, held := [],
    state := .queued, start := 0, mreg := [], mregPend := [], hints := [], pushes := [], faults := [], nfault := 0,
    live := false, placedSince := 0, tasks := 0, qwait := 0, search := 0, run := 0, steals := 0, failed := 0,
    replay := ⟨0, 0, 0, [], none, false, 0, []⟩ }

/-- A team that no grid has. -/
def Team.vacant : Team :=
  { grid := 0, lteam := 0, core := none, tiles := [], pool := 0, tcm := 0, spad := 0, spill := 0, nthread := 1, deque := [],
    windows := [], sent := [], hist := [], placedAt := 0, mrotStep := 0, mrotWins := [], savedMq := [], savedFrom := 0 }

/-- The live grid with a number. -/
def State.grid? (s : State) (g : Nat) : Option Grid := s.grids.find? (·.num == g)
/-- The same, or the vacant grid. -/
def State.gridD (s : State) (g : Nat) : Grid := (s.grid? g).getD Grid.vacant
/-- A team of a live grid. -/
def State.team? (s : State) (g l : Nat) : Option Team := s.teams.find? fun t => t.grid == g && t.lteam == l
/-- The same, or the vacant team. -/
def State.teamD (s : State) (g l : Nat) : Team := (s.team? g l).getD Team.vacant
/-- A core. -/
def State.core (s : State) (c : Nat) : Core := (s.cores.find? (·.num == c)).getD (Core.reset c)
/-- A cluster. -/
def State.cluster (s : State) (c : Nat) : Cluster := (s.clusters.find? (·.num == c)).getD (Cluster.reset c)
/-- A bank. -/
def State.bank (s : State) (b : Nat) : Bank := (s.banks.find? (·.num == b)).getD (Bank.reset b)
/-- A queue. -/
def State.queue (s : State) (q : Nat) : Queue := (s.queues.find? (·.num == q)).getD (Queue.reset q)
/-- A reach block. -/
def State.reachOf (s : State) (n : Nat) : Reach := (s.reach.find? (·.num == n)).getD (Reach.reset n)

/-- The grid of the issuing thread. -/
def State.myGrid (s : State) : Grid := s.gridD s.cur.id.grid
/-- The team of the issuing thread. -/
def State.myTeam (s : State) : Team := s.teamD s.cur.id.grid s.cur.id.team

/-- A core changed. -/
def State.setCore (s : State) (c : Core) : State := { s with cores := upsert Core.num c s.cores }
/-- A cluster changed. -/
def State.setCluster (s : State) (c : Cluster) : State := { s with clusters := upsert Cluster.num c s.clusters }
/-- A bank changed. -/
def State.setBank (s : State) (b : Bank) : State := { s with banks := upsert Bank.num b s.banks }
/-- A queue changed. -/
def State.setQueue (s : State) (q : Queue) : State := { s with queues := upsert Queue.num q s.queues }
/-- A reach block changed. -/
def State.setReach (s : State) (r : Reach) : State := { s with reach := upsert Reach.num r s.reach }
/-- A live grid changed. -/
def State.modGrid (s : State) (g : Nat) (f : Grid → Grid) : State :=
  { s with grids := s.grids.map fun x => if x.num = g then f x else x }
/-- A team changed. -/
def State.modTeam (s : State) (g l : Nat) (f : Team → Team) : State :=
  { s with teams := s.teams.map fun x => if x.grid = g ∧ x.lteam = l then f x else x }
/-- A home as it now stands (R57, R73): the scratchpad of a cluster, whose partitions have one home, and the bank whose carve-out it is.
`share` and `away` are those of a team: its TCM share, and its partition while no core holds it; `core` is where a share's messages go. -/
inductive Site where
  | bank (pkg n : Nat)
  | pad (cluster : Nat)
  | share (grid team : Nat)
  | away (grid team : Nat)
  | core (c : Nat)
  deriving DecidableEq, Repr

/-- The home that an access to a key reaches (R57, R73): a bank and its carve-out are one (DEDUCED, log entry 78). -/
def State.siteOf (s : State) (k : Nat) : Site :=
  match homeOf k with
  | .bank pkg n => .bank pkg n
  | .carve b => .bank s.host.pkgnum.toNat b
  | .tcm g l => .share g l
  | .spad g l => match (s.teamD g l).core with | some c => .pad (clusterOf c) | none => .away g l

/-- Where the messages for a key go (R16, R69): for a TCM share, the core that holds it. -/
def State.destOf (s : State) (k : Nat) : Site :=
  match s.siteOf k with
  | .share g l => match (s.teamD g l).core with | some c => .core c | none => .share g l
  | x => x

/-- The issuing thread changed. -/
def State.modCur (s : State) (f : Thread → Thread) : State := { s with cur := f s.cur }
/-- Any thread changed. -/
def State.modThread (s : State) (t : Tid) (f : Thread → Thread) : State :=
  { s with cur := if s.cur.id = t then f s.cur else s.cur, rest := s.rest.map fun x => if x.id = t then f x else x }
/-- Every thread changed. -/
def State.mapThreads (s : State) (f : Thread → Thread) : State := { s with cur := f s.cur, rest := s.rest.map f }
/-- All threads. -/
def State.threads (s : State) : List Thread := s.cur :: s.rest
/-- A thread by its number. -/
def State.thread? (s : State) (t : Tid) : Option Thread := s.threads.find? fun x => x.id == t
/-- The threads of a grid. -/
def State.threadsOf (s : State) (g : Nat) : List Thread := s.threads.filter fun x => x.id.grid == g
/-- The threads of a team. -/
def State.teamThreads (s : State) (g l : Nat) : List Thread := s.threads.filter fun x => x.id.grid == g && x.id.team == l
/-- Another thread made the issuing one. -/
def State.focus (s : State) (t : Tid) : State :=
  if s.cur.id = t then s
  else
    match s.rest.find? fun x => x.id == t with
    | none => s
    | some x =>
      { s with cur := x, rest := (if s.cur.id.grid = 0 then [] else [s.cur]) ++ s.rest.filter fun y => !(y.id == t) }

/-! ### Launch geometry (R24, R237) -/

/-- NTEAM. -/
def Descriptor.nteam (d : Descriptor) : Nat := bits d.shape 12 0 + 1
/-- Threads per team. -/
def Descriptor.threads (d : Descriptor) : Nat := bits d.shape 15 13 + 1
/-- Tiles per team. -/
def Descriptor.tiles (d : Descriptor) : Nat := bits d.shape 20 16
/-- Function-pool share in bytes. -/
def Descriptor.pool (d : Descriptor) : Nat := bits d.shape 27 21 * 512
/-- TCM share in bytes. -/
def Descriptor.tcm (d : Descriptor) : Nat := bits d.shape 34 28 * 4096
/-- Scratchpad partition in bytes. -/
def Descriptor.spad (d : Descriptor) : Nat := bits d.shape 44 35 * 4096
/-- Deque spill depth. -/
def Descriptor.spill (d : Descriptor) : Nat := bits d.shape 57 45
/-- A bit of FLAGS. -/
def Descriptor.flag (d : Descriptor) (n : Nat) : Bool := bits d.flags n n == 1
/-- STEAL. -/
def Descriptor.steal (d : Descriptor) : Nat := bits d.flags 2 0
/-- COURT. -/
def Descriptor.court (d : Descriptor) : Nat := bits d.flags 12 10
/-- The court's side d; 0 for none (R15). -/
def Descriptor.side (d : Descriptor) : Nat := if d.court = 0 then 0 else 2 ^ d.court

/-- Replay on (R20). -/
def Grid.replayOn (g : Grid) : Bool := g.desc.flag 4
/-- Swap in force (R21). -/
def Grid.swapOn (g : Grid) : Bool := !g.desc.flag 5 && !g.replayOn
/-- Migration in force (R21). -/
def Grid.migrOn (g : Grid) : Bool := !g.desc.flag 6 && !g.replayOn

/-- The cycle that the issuing thread observes (R263). -/
def State.obs (s : State) : Word :=
  let g := s.myGrid
  if g.replayOn then g.start + BitVec.ofNat 64 (512 * g.replay.innings + g.replay.turn) else s.cycle

/-- A choice the spec leaves open (log entry 1). -/
def State.draw (s : State) : Nat × State :=
  match s.oracle with
  | n :: r => (n, { s with oracle := r })
  | [] => (Config.freeChoice s.fresh, { s with fresh := s.fresh + 1 })

/-! ### Translation (R50–R57) -/

/-- What a location leads to. -/
inductive Place where
  | mem (key : Nat) (w x : Bool)
  | matrixQueue (off : Nat)
  | bad (cause detail : Nat)
  | absent
  deriving DecidableEq, Repr

/-- The DRAM capacity of R1, R287, from STACKCFG. -/
def State.dramBytes (s : State) : Nat := s.host.nstacks * ([24, 36, 48, 64].getD s.host.cap 0) * 2 ^ 30

/-- Why a physical address cannot be accessed by a grid (R56, R330): the DETAIL of cause 0x14. For an address of another package the
spec does not say whose capacity decides, and the model takes this package's `STACKCFG` (log entry 36). -/
def State.paBad (s : State) (pa : Nat) : Option Nat :=
  let l := pa % 2 ^ 40
  if 6143 < pa / 2 ^ 40 then some 3
  else if l < s.dramBytes then none
  else if 0x8000000000 ≤ l ∧ l < 0x8100000000 then none
  else if 0xFF00000000 ≤ l then some 2
  else some 1

/-- The stack of a DRAM local address, and the address within it (R287). -/
def State.stackOf (s : State) (a : Nat) : Nat × Nat :=
  let n := max s.host.nstacks 1
  (a / 4096 % n, 4096 * (a / 4096 / n) + a % 4096)

/-- Is a key an address of this package's DRAM (R56)? -/
def State.inDram (s : State) (k : Nat) : Bool :=
  decide (k < 2 ^ 53) && decide (k / 2 ^ 40 = s.host.pkgnum.toNat) && decide (k % 2 ^ 40 < s.dramBytes)

/-- Does a key lie in a stack that is lost (R355)? Link 256 · p is the Nolend link of stack p. -/
def State.stackLost (s : State) (k : Nat) : Bool :=
  s.inDram k && s.linksDown.contains (256 * (s.stackOf (k % 2 ^ 40)).1)

/-- Does a key lie in a package that the span links do not reach (R296)? -/
def State.unreached (s : State) (k : Nat) : Bool :=
  decide (k < 2 ^ 53) && decide (k / 2 ^ 40 ≠ s.host.pkgnum.toNat) && !Config.spanReach (k / 2 ^ 40)

/-- Is a key without a home that can answer: its stack lost, or its package not reached? -/
def State.homeless (s : State) (k : Nat) : Bool := s.stackLost k || s.unreached k

/-- The bytes of the unit that one code covers, at word `w` of memory: 64 of DRAM, 32 of MRAM, 8 of SRAM (R344). -/
def codeBytes (w : Nat) : Nat := if 2 ^ 53 ≤ 8 * w then 8 else if isKeep (8 * w) then 32 else 64

/-- The words of that unit. -/
def codeWords (w : Nat) : List Nat := let n := codeBytes w / 8; (List.range n).map fun i => w / n * n + i

/-- Does the unit of a place of the list of errors touch `n` bytes from `k`? -/
def unitTouches (k n w : Nat) : Bool :=
  let z := codeBytes w
  let a := placeWord w * 8 / z * z
  decide (a < k + n) && decide (k < a + z)

/-- The number that stands for a register, pool, deque or result-queue word (R345): 0–15 `sn`, 16–23 `fn`, 32 the deque, 33
the result queue. -/
def regErr (id : Tid) (n : Nat) : Nat := 2 ^ 61 + ((id.grid * 8192 + id.team) * 8 + id.thread) * 64 + n

/-- The changed line of a data cache in which an uncorrectable error stands in the word of a key (R345). -/
def State.badLine (s : State) (k : Nat) : Option Line :=
  s.lines.find? fun l => l.num == k / 32 && l.st.dirty && s.poison.contains (lineErr l.core (k / 8))

/-- Does such an error stand in the word? -/
def State.lineBad (s : State) (k : Nat) : Bool := (s.badLine k).isSome

/-- Does an uncorrectable error stand in one of the words that `n` bytes from `k` touch (R345, R355), or is no home reached? -/
def State.poisoned (s : State) (k n : Nat) : Bool :=
  s.homeless k || s.lineBad k ||
    s.poison.any fun w => !inBankClean w && decide (placeWord w * 8 < k + n) && decide (k < placeWord w * 8 + 8)

/-- The storage kind of R345 that a key lies in. -/
def storageKind (k : Nat) : Nat :=
  match homeOf k with
  | .tcm _ _ => 1
  | .spad _ _ => 2
  | .carve _ => 3
  | .bank _ _ => if isKeep k then 8 else 9

/-- The first location of the window space (R51). -/
def windowBase : Nat := 0xF000000000000

/-- WHERE of a telemetry record for a key (R343): the bank, or the core that holds the share. -/
def State.whereOf (s : State) (k : Nat) : Nat :=
  match homeOf k with
  | .bank _ n => n
  | .carve b => b
  | .tcm g l => (s.teamD g l).core.getD 0
  | .spad g l => (s.teamD g l).core.getD 0

/-- The same for an uncorrectable error at the key: where it stands in a data cache, the core of that cache (R343). -/
def State.whereBad (s : State) (k : Nat) : Nat := match s.badLine k with | some l => l.core | none => s.whereOf k

/-! ### Interrupts and telemetry (R286, R343) -/

/-- An interrupt write (R286); with `IRQADDR` 0 too the value is written to that address. -/
def State.interrupt (s : State) (cause which : Nat) : State :=
  s.deviceStore (bits s.host.irqaddr 52 2 * 4) 4 (cause + which % 2048 * 256)

/-- Is a ring full (R362)? -/
def ringFull (size head tail : BitVec 12) : Bool := decide (size.toNat ≤ 1) || (tail.toNat + 1) % size.toNat == head.toNat

/-- The index after `i` in a ring. -/
def ringNext (size i : BitVec 12) : BitVec 12 := BitVec.ofNat 12 ((i.toNat + 1) % size.toNat)

/-- A telemetry record (R343): written, or dropped and counted. -/
def State.telemetry (s : State) (kind sub loc addr value : Nat) : State :=
  let h := s.host
  let s :=
    if ringFull h.telSize h.telHead h.telTail then
      { s with host := { h with telDrop := if h.telDrop = 0xFFFF#16 then h.telDrop else h.telDrop + 1 } }
    else
      let a := bits h.telbase 52 5 * 32 + 32 * h.telTail.toNat
      let s := s.deviceStore a 8 s.cycle.toNat
      let s := s.deviceStore (a + 8) 8 (kind + sub * 256 + loc % 8192 * 65536)
      let s := s.deviceStore (a + 16) 8 addr
      let s := s.deviceStore (a + 24) 8 value
      { s with host := { s.host with telTail := ringNext h.telSize h.telTail } }
  if 2 ≤ kind then s.interrupt 4 0 else s

/-- The location by which a grid reaches a key of its own windows (R51), or the physical address: what ADDR of a record and FVAL of a
fault that scrub finds name. For a carve-out: through the first team of the cluster, else the offset. -/
def State.addrOf (s : State) (k : Nat) : Nat :=
  match homeOf k with
  | .bank _ _ => k
  | .tcm _ l => windowBase + l * 2 ^ 18 + k % 2 ^ 18
  | .spad _ l => windowBase + 0x400000000 + l * 2 ^ 21 + k % 2 ^ 21
  | .carve b =>
    match s.teams.find? fun t => match t.core with | some c => clusterOf c == b | none => false with
    | some t => windowBase + 0x1000000000 + t.lteam * 2 ^ 24 + k % 2 ^ 24
    | none => k % 2 ^ 24

/-- An error of one bit corrected (R344); at most one report for a place in 2^24 cycles (R343). -/
def State.correct (s : State) (place sub loc addr : Nat) : State :=
  let s := { s with soft := s.soft.filter (· != place) }
  match s.corrected.find? fun c => c.key == place with
  | none => ({ s with corrected := ⟨place, 0, s.cycle⟩ :: s.corrected } : State).telemetry 1 sub loc addr 1
  | some c =>
    let due := decide (2 ^ 24 ≤ s.cycle.toNat - c.last.toNat)
    let c' : Corrected := if due then { c with count := 0, last := s.cycle } else { c with count := c.count + 1 }
    let t : State := { s with corrected := s.corrected.map fun x => if x.key = place then c' else x }
    if due then t.telemetry 1 sub loc addr (c.count + 1) else t

/-- An uncorrectable error of a clean copy, which is read again from its home: reported all the same (R345). -/
def State.recovered (s : State) (place sub loc addr : Nat) : State := (s.clearError place).telemetry 2 sub loc addr 0

/-- An error of one bit corrected in a place that is read, where it holds one. -/
def State.correctPlace (s : State) (place sub loc addr : Nat) : State :=
  if s.soft.contains place then s.correct place sub loc addr else s

/-- The storage kind of a word's place: its own, or that of a line of its bank (R345). -/
def wordKind (n : Nat) : Nat := if 2 ^ 110 ≤ n then 3 else storageKind (8 * n)

/-- Errors of one bit in some words, or lines of banks, corrected (R344). -/
def State.correctAll (s : State) (l : List Nat) : State :=
  l.foldl (fun t w => t.correct w (wordKind w) (t.whereOf (8 * placeWord w)) (t.addrOf (8 * placeWord w))) s

/-- The words that `n` bytes from a key touch as a read of them leaves them: errors of one bit corrected in their units (R344), clean lines
of their bank with an uncorrectable error read again (R345). -/
def State.correctWords (s : State) (a n : Nat) : State :=
  let t := s.correctAll (s.soft.filter (unitTouches a n))
  (t.poison.filter fun w => inBankClean w && unitTouches a n w).foldl
    (fun u w => u.recovered w 3 (u.whereOf (8 * placeWord w)) (u.addrOf (8 * placeWord w))) t

/-! ### Walks (R52–R55) -/

/-- The cause of an access that `poisoned` stops: 0x1B where no span link reaches the package (R296), else 0x1A (R345). -/
def State.errCause (s : State) (k : Nat) : Nat := if s.unreached k then 0x1B else 0x1A

/-- Its DETAIL: the storage kind (R345); 0 for cause 0x1B. -/
def State.errDetail (s : State) (k : Nat) : Nat := if s.unreached k then 0 else if s.lineBad k then 4 else if s.poison.contains (bankDirty (k / 8)) then 3 else storageKind k

/-- The condition of R54 that makes an entry with V = 1 malformed: where it meets several, the lowest-numbered, since the spec gives
no order (log entry 37). `size`: log2 of the page it maps or the table it points to. -/
def State.pteBad (s : State) (e : Word) (level size : Nat) : Option Nat :=
  let leaf := bits e 1 1 == 1
  let addr := bits e 52 8 * 256
  if leaf && level == 1 then some 1
  else if !leaf && level == 4 then some 2
  else if bits e 63 53 != 0 || bits e 7 6 != 0 || (!leaf && (bits e 3 2 != 0 || bits e 5 4 != 0)) then some 3
  else if addr % 2 ^ size != 0 then some 4
  else if (s.paBad addr).isSome then some 5
  else none

/-- log2 of the page that a leaf maps, or of the table that a pointer names, at a level (R52). -/
def pteSize (leaf : Bool) (level : Nat) : Nat :=
  match level, leaf with
  | 2, true => 30
  | 3, true => 21
  | 4, true => 16
  | 3, false => 8
  | _, _ => 12

/-- The index of a location at a level (R52). -/
def pteIndex (loc level : Nat) : Nat :=
  match level with
  | 1 => loc / 2 ^ 39 % 8192
  | 2 => loc / 2 ^ 30 % 512
  | 3 => loc / 2 ^ 21 % 512
  | _ => loc / 2 ^ 16 % 32

/-- The walk of R52–R54 from the table at `table`, over the remaining levels, with the entries that `rd` gives for a level and a key. -/
def State.walkVia (s : State) (rd : Nat → Nat → Word) (table loc : Nat) : List Nat → Place
  | [] => .absent
  | level :: r =>
    let key := table + 8 * pteIndex loc level
    if s.poisoned key 8 then .bad (s.errCause key) (s.errDetail key)
    else
      let e := rd level key
      let leaf := bits e 1 1 == 1
      if bits e 0 0 = 0 then .absent
      else
        match s.pteBad e level (pteSize leaf level) with
        | some c => .bad 0x27 (level + 16 * c)
        | none =>
          if leaf then
            let pa := bits e 52 8 * 256 + loc % 2 ^ pteSize true level
            match s.paBad pa with
            | some d => .bad 0x14 d
            | none => .mem pa (bits e 2 2 == 1) (bits e 3 3 == 1)
          else State.walkVia s rd (bits e 52 8 * 256) loc r

/-- The walk through the tables as memory holds them. -/
def State.walk (s : State) (table loc : Nat) (levels : List Nat) : Place := s.walkVia (fun _ k => s.load k 8) table loc levels

/-- The base of a queue's page table (R288). -/
def State.tableOf (s : State) (q : Nat) : Nat := bits (s.queue q).pt 52 16 * 2 ^ 16

/-- The page table of a queue walked for a location (R52, R288). -/
def State.walkQueue (s : State) (q loc : Nat) : Place := s.walk (s.tableOf q) loc [1, 2, 3, 4]

/-- The entries that a walk reads: level, key, value. -/
def State.trail (s : State) (table loc : Nat) : List Nat → List (Nat × Nat × Word)
  | [] => []
  | level :: r =>
    let key := table + 8 * pteIndex loc level
    let e := s.load key 8
    (level, key, e) ::
      (if s.poisoned key 8 || bits e 0 0 == 0 || bits e 1 1 == 1 then [] else State.trail s (bits e 52 8 * 256) loc r)

/-- The locations that one entry of a level leads to (R52). -/
def pteSpan : Nat → Nat
  | 1 => 2 ^ 39
  | 2 => 2 ^ 30
  | 3 => 2 ^ 21
  | _ => 2 ^ 16

/-- Does a held entry lie on the way to a location of a queue's address space? -/
def TlbEntry.leads (t : TlbEntry) (q loc : Nat) : Bool := t.queue == q && decide (t.base ≤ loc) && decide (loc < t.base + t.size)

/-- The values that an access may use of the page-table entry at a key: those held, and that of memory, the last (R55). -/
def State.pteValues (s : State) (q loc key : Nat) : List Word :=
  ((s.tlb.filter fun t => t.leads q loc && t.key == key && t.val != s.load key 8).map (·.val)) ++ [s.load key 8]

/-- The place that a choice `n` among those values leads to; the choices at the levels do not depend on each other. -/
def State.walkChosen (s : State) (q loc n : Nat) : Place :=
  s.walkVia (fun level k => let l := s.pteValues q loc k; l.getD (n / 64 ^ level % l.length) (s.load k 8)) (s.tableOf q) loc [1, 2, 3, 4]

/-- The entries of a walk that is complete, held from now on beside the values of them that are held already (R55). -/
def State.holdTrail (s : State) (q loc : Nat) (now : Place) : State :=
  match now with
  | .mem _ _ _ =>
    let new := (s.trail (s.tableOf q) loc [1, 2, 3, 4]).filter fun e => !s.tlb.any fun t => t.leads q loc && t.key == e.2.1 && t.val == e.2.2
    { s with tlb := s.tlb ++ new.map fun e => ⟨q, loc / pteSpan e.1 * pteSpan e.1, pteSpan e.1, e.2.1, e.2.2⟩ }
  | _ => s

/-- The entries that a walk reads, their errors of one bit corrected (R344). -/
def State.correctTrail (s : State) (q loc : Nat) : State :=
  if s.soft.isEmpty && s.poison.isEmpty then s
  else (s.trail (s.tableOf q) loc [1, 2, 3, 4]).foldl (fun t e => t.correctWords e.2.1 8) s

/-- Is a span link down (R355)? Links are numbered 256 · port and 0 Nolend, 1 UCIe, 2 span. -/
def State.spanDown (s : State) : Bool := s.linksDown.any fun l => l % 256 == 2

/-- Does a key lie in another package? -/
def State.farKey (s : State) (k : Nat) : Bool := decide (k < 2 ^ 53) && decide (k / 2 ^ 40 ≠ s.host.pkgnum.toNat)

/-- Does a read of some keys by the core itself find no route while a span link is down (R355)? Whether another route is found is drawn. -/
def State.noRoute (s : State) (keys : List Nat) : Bool × State :=
  if s.spanDown && keys.any s.farKey then (s.draw.1 % 2 == 1, s.draw.2) else (false, s)

/-- A location below the window space translated (R55): of a page-table entry that walks have read, each access may use any value that
one of them found, or that of memory, until an invalidation of its range completes. A value that was overwritten before a walk read it
stands in no TLB; the TLBs' sizes (R17) decide only which of these values an access finds (log entry 38). A walk may find no route to the
package of an entry (R355). -/
def State.translate (s : State) (q loc : Nat) : Place × State :=
  let now := s.walkQueue q loc
  let cut := s.noRoute ((s.trail (s.tableOf q) loc [1, 2, 3, 4]).map (·.2.1))
  let s := cut.2
  if cut.1 then (.bad 0x1B 0, s)
  else if s.tlb.all fun t => !t.leads q loc || t.val == s.load t.key 8 then (now, (s.holdTrail q loc now).correctTrail q loc)
  else
    let d := s.draw
    (s.walkChosen q loc d.1, (d.2.holdTrail q loc now).correctTrail q loc)

/-- The carve-out in force (R357): CUR, or the W of a shrinking write until its change ends. -/
def Bank.inForce (b : Bank) : Nat :=
  match b.busy with
  | some w => if w < b.cur then w else b.cur
  | none => b.cur

/-- The live ways of a bank (R347). -/
def Bank.liveWays (b : Bank) : Nat := 16 - 4 * b.retired.length

/-- How an access to offset `x` of a carve-out stands (R65, R357): held, or the fault's cause and DETAIL. -/
inductive CarveCheck | ok | hold | bad (cause detail : Nat)
  deriving DecidableEq, Repr

/-- The rule of R357. -/
def Bank.check (b : Bank) (x : Nat) : CarveCheck :=
  let m := x / 2 ^ 20
  let growing := match b.busy with | some w => decide (b.cur < w) && decide (b.cur ≤ m) && decide (m < w) | none => false
  if growing then .hold
  else if m < b.inForce then .ok
  else if 14 ≤ m then .bad 0x14 0
  else
    match b.withdrawn.find? fun p => p.1 == m with
    | some (_, .shrink) => .bad 0x19 b.cur
    | some (_, .cut) => .bad 0x1C b.cur
    | none => .bad 0x14 0

/-- A location of the window space, for a thread of grid `g` (R51). -/
def State.window (s : State) (g loc : Nat) : Place :=
  let o := loc - windowBase
  let n := (s.gridD g).desc.nteam
  if o < 2 ^ 31 then
    let l := o / 2 ^ 18
    if l < n ∧ o % 2 ^ 18 < (s.teamD g l).tcm then .mem (tcmKey g l (o % 2 ^ 18)) true true else .bad 0x14 0
  else if 0x400000000 ≤ o ∧ o < 0x800000000 then
    let p := o - 0x400000000
    let l := p / 2 ^ 21
    if l < n ∧ p % 2 ^ 21 < (s.teamD g l).spad then .mem (spadKey g l (p % 2 ^ 21)) true true else .bad 0x14 0
  else if 0x1000000000 ≤ o ∧ o < 0x3000000000 then
    let p := o - 0x1000000000
    let l := p / 2 ^ 24
    match (s.teamD g l).core with
    | some c =>
      if l < n then
        match (s.bank (clusterOf c)).check (p % 2 ^ 24) with
        | .bad cause d => .bad cause d
        | _ => .mem (carveKey (clusterOf c) (p % 2 ^ 24)) true true
      else .bad 0x14 0
    | none => .bad 0x14 0
  else if 0x100000000000 ≤ o ∧ o < 0x100000000000 + 512 then .matrixQueue (o - 0x100000000000)
  else .bad 0x14 0

/-- A location of a thread of grid `g` (R50, R51, R55). -/
def State.place (s : State) (g loc : Nat) : Place × State :=
  if windowBase ≤ loc then (s.window g loc, s) else s.translate (s.gridD g).queue loc

/-- The key of a location now, by the tables alone. -/
def State.keyNow (s : State) (g loc : Nat) : Option Nat :=
  match (if windowBase ≤ loc then s.window g loc else s.walkQueue (s.gridD g).queue loc) with
  | .mem k _ _ => some k
  | _ => none

/-- The key of a page-table entry with an uncorrectable error on the way to a location of a queue's address space (R345). -/
def State.walkErrorKey (s : State) (q loc : Nat) : Option Nat :=
  if windowBase ≤ loc then none
  else ((s.trail (s.tableOf q) loc [1, 2, 3, 4]).find? fun e => s.poisoned e.2.1 8).map (·.2.1)

/-- The key at which an access to a location meets an uncorrectable error: that of a page-table entry on the way, else its own. -/
def State.errorKey (s : State) (g loc : Nat) : Option Nat := (s.walkErrorKey (s.gridD g).queue loc).or (s.keyNow g loc)

/-! ### Double windows (R165) -/

/-- The window of a list whose area in a space holds an offset. -/
def windowAt (ws : List DWindow) (spad : Bool) (off : Nat) : Option DWindow :=
  ws.find? fun w => w.spad == spad && decide (w.off ≤ off) && decide (off < w.off + 2 * w.len)

/-- The offset of the physical byte that an offset of a window's area reaches now: the front part reaches the visible half. -/
def DWindow.physical (w : DWindow) (off : Nat) : Nat :=
  if !w.flipped then off else if off < w.off + w.len then off + w.len else off - w.len

/-- The key that an access to a key reaches at its place in the home's order (R165). -/
def State.mapKey (s : State) (k : Nat) : Nat :=
  match homeOf k with
  | .tcm g l =>
    match windowAt (s.teamD g l).windows false ((k - 2 ^ 53) % 2 ^ 18) with
    | some w => tcmKey g l (w.physical ((k - 2 ^ 53) % 2 ^ 18))
    | none => k
  | .spad g l =>
    match windowAt (s.teamD g l).windows true ((k - 2 ^ 54) % 2 ^ 21) with
    | some w => spadKey g l (w.physical ((k - 2 ^ 54) % 2 ^ 21))
    | none => k
  | _ => k

/-! ### Effective addresses and checks (R146, R329, R333, R334) -/

/-- The effective address of R146. -/
def effAddr (base : Word) (imm : Int) : Word :=
  BitVec.ofNat 64 (bits base 55 52 * 2 ^ 52 + ((((bits base 51 0 : Nat) : Int) + imm) % 2 ^ 52).toNat)

/-- The view of an effective address (R50). -/
def viewOf (ea : Word) : Nat := bits ea 55 52
/-- The location of an effective address (R50). -/
def locOf (ea : Word) : Nat := bits ea 51 0
/-- The same address, a number of bytes on, modulo 2^52 within the location. -/
def eaPlus (ea : Word) (n : Nat) : Word := BitVec.ofNat 64 (viewOf ea * 2 ^ 52 + (locOf ea + n) % 2 ^ 52)

/-- What stops an access (R329), or its keys, one for each unit asked for. -/
inductive Check where
  | ok (keys : List Nat)
  | queueWindow (off : Nat)
  | fault (cause detail : Nat) (fval : Word)
  | absent (va : Word)
  deriving DecidableEq, Repr

/-- The places of a list of addresses. -/
def State.places (s : State) (g : Nat) : List Word → List (Word × Place) × State
  | [] => ([], s)
  | ea :: r =>
    let p := s.place g (locOf ea)
    let q := State.places p.2 g r
    ((ea, p.1) :: q.1, q.2)

/-- R329 over places in rising address: unmapped or malformed, then permission, then presence. -/
def checkPlaces (needW : Bool) (l : List (Word × Place)) : Check :=
  match l.find? fun p => match p.2 with | .bad _ _ => true | _ => false with
  | some (ea, .bad c d) => .fault c d ea
  | _ =>
    match l.find? fun p => match p.2 with | .mem _ w _ => needW && !w | _ => false with
    | some (ea, _) => .fault 0x15 0 ea
    | none =>
      match l.find? fun p => p.2 == .absent with
      | some (ea, _) => .absent ea
      | none =>
        match l.find? fun p => match p.2 with | .matrixQueue _ => true | _ => false with
        | some (_, .matrixQueue off) => .queueWindow off
        | _ => .ok (l.filterMap fun p => match p.2 with | .mem k _ _ => some k | _ => none)

/-- The checks of one access of the issuing thread, in the order of R329: views, alignment, places of its units. `szLog` is
what DETAIL of cause 0x13 holds in [7:4] (R330). -/
def State.check (s : State) (ea : Word) (viewOk : Bool) (szLog alignLog : Nat) (needW : Bool) (units : List Nat) : Check × State :=
  if !viewOk || 6 ≤ viewOf ea then (.fault 0x13 (viewOf ea + 16 * szLog) ea, s)
  else if locOf ea % 2 ^ alignLog != 0 then (.fault 0x12 (16 * alignLog) ea, s)
  else
    let p := s.places s.cur.id.grid (units.map (eaPlus ea))
    (checkPlaces needW p.1, p.2)

/-! ### Fault-service records (R289, R362) -/

/-- The fault-service records that wait are written while the ring has room (R289, R362); those of a replay-mode chunk once it is
committed (R327). -/
def pumpList : List FsRec → State → List FsRec → State
  | [], s, done => { s with fs := done }
  | r :: rest, s, done =>
    let h := s.host
    if r.inRing || (s.gridD r.tid.grid).replay.apart.isSome then pumpList rest s (done ++ [r])
    else if ringFull h.fsqSize h.fsqHead h.fsqTail then pumpList rest s (done ++ [r])
    else
      let a := bits h.fsqbase 52 5 * 32 + 32 * h.fsqTail.toNat
      let s := s.deviceStore a 8 r.va.toNat
      let s := s.deviceStore (a + 8) 8 (r.tid.grid + r.tid.team * 2 ^ 15 + r.tid.thread * 2 ^ 28 + r.kind * 2 ^ 31)
      let s := s.deviceStore (a + 16) 8 (r.queue + r.token % 2 ^ 32 * 2 ^ 32)
      let s := s.deviceStore (a + 24) 8 r.cycle.toNat
      let s := { s with host := { s.host with fsqTail := ringNext h.fsqSize h.fsqTail } }
      pumpList rest (s.interrupt 2 r.queue) (done ++ [{ r with inRing := true }])

/-- `pumpList` over all records. -/
def State.pumpFs (s : State) : State := pumpList s.fs s []

/-- A fault-service record for an access that found a page not present (R289); answers its TOKEN. -/
def State.addFs (s : State) (va : Word) (t : Tid) (kind : Nat) (who : FsWho) : Nat × State :=
  let tok := s.fresh % 2 ^ 32
  let r : FsRec := ⟨tok, va, t, kind, (s.gridD t.grid).queue, s.cycle, who, false⟩
  (tok, State.pumpFs { s with fs := s.fs ++ [r], fresh := s.fresh + 1 })

/-! ### Faults, fault service, traps (R248, R309–R315) -/

/-- A fault detected in a grid (R315): it counts in NFAULT, saturating. One detected in a cycle after that of the first, in which the
grid's threads have stopped, is discarded. -/
def Grid.addFault (x : Grid) (r : FaultRec) : Grid :=
  if x.faults.any fun f => f.cycle != r.cycle then x
  else { x with faults := x.faults ++ [r], nfault := if x.nfault < 65535 then x.nfault + 1 else 65535 }

/-- A fault recorded in a grid; an uncorrectable error is reported too (R343, R345), with the place `loc` found at. -/
def State.recordAt (s : State) (g loc : Nat) (r : FaultRec) : State :=
  let s := s.modGrid g fun x => x.addFault r
  if r.cause = 0x1A then s.telemetry 2 r.detail loc r.fval.toNat g else s

/-- Where the error of a fault was found (R343): the home of the word at FVAL, or the core in whose data cache it stands, for the storage
kinds that an address names, else the core that holds the thread's team. -/
def State.errorWhere (s : State) (g : Nat) (r : FaultRec) : Nat :=
  match (if r.cause = 0x1A ∧ [1, 2, 3, 4, 8, 9].contains r.detail then s.errorKey g (bits r.fval 51 0) else none) with
  | some k => s.whereBad k
  | none => (s.teamD g r.team).core.getD 0

/-- The same, with the place found from the record. -/
def State.recordFault (s : State) (g : Nat) (r : FaultRec) : State := s.recordAt g (s.errorWhere g r) r

/-- A fault of the issuing thread, with the STATUS that its grid's record will hold: the bundle has no effect and the thread
stops (R309, R328). -/
def State.stopFault (s : State) (status cause detail : Nat) (fval : Word) : State :=
  let t := s.cur
  let s := s.recordFault t.id.grid ⟨s.cycle, true, t.id.team, t.id.thread, status, cause, detail, t.pc, fval⟩
  { s with cur := { s.cur with wait := .faulted }, aborted := true }

/-- A fault of STATUS FAULT. -/
def State.raiseFault (s : State) (cause detail : Nat) (fval : Word) : State := s.stopFault 1 cause detail fval

/-- A fault reported against any thread (R336). -/
def State.faultOf (s : State) (t : Tid) (fpc : Word) (cause detail : Nat) (fval : Word) : State :=
  let s := s.recordFault t.grid ⟨s.cycle, true, t.team, t.thread, 1, cause, detail, fpc, fval⟩
  s.modThread t fun x => { x with wait := .faulted }

/-- A fault that no thread raised (R315). -/
def State.faultGrid (s : State) (g status cause detail : Nat) (fval : Word) : State :=
  s.recordFault g ⟨s.cycle, false, 0, 0, status, cause, detail, 0, fval⟩

/-- A location not present (R311): the issuing thread parks with its PC at the bundle. -/
def State.service (s : State) (va : Word) (kind : Nat) : State :=
  let r := s.addFs va s.cur.id kind (.thread s.cur.id)
  { r.2 with cur := { r.2.cur with wait := .service r.1, got := [] }, aborted := true }

/-- HANDLER × 8 of `TVEC` (R246). -/
def handlerOf (tvec : Word) : Word := BitVec.ofNat 64 (bits tvec 55 3 * 8)

/-- HM of `TSTAT` (R242). -/
def Thread.hm (t : Thread) : Bool := bits t.tstat 9 9 == 1

/-- Entering the handler (R248): TPC, TCAUSE, TVAL, HM and PC. -/
def Thread.enterHandler (t : Thread) (code imm : Nat) (tval ret : Word) : Thread :=
  { t with tpc := ret, tcause := BitVec.ofNat 64 (code + imm * 256), tval := tval, tstat := setBits t.tstat 9 9 1,
           pc := handlerOf t.tvec, half := none, outer := t.half }

/-- Taking a recoverable trap (R248), or the fault it converts to (R313). -/
def State.takeTrap (s : State) (code imm : Nat) (tval ret : Word) : State :=
  if s.cur.hm then s.raiseFault 0x20 code tval
  else if bits s.cur.tvec 55 3 = 0 then s.raiseFault 0x21 code tval
  else { s with cur := s.cur.enterHandler code imm tval ret }

/-- A trap that the bundle did not complete: the bundle has no effect and TPC names it (R106, R248). -/
def State.trapBundle (s : State) (code : Nat) (tval : Word) : State :=
  { s.takeTrap code 0 tval s.cur.pc with aborted := true }

/-- Returning from the handler (R250): PC ← `TPC`, HM ← 0. Where the trap was that of a parked bundle's control slot, issued again
alone, that slot alone is issued once more: R106 does not say whether its arithmetic slot, which has taken effect, then takes effect
again (DESIGN CHOICE, log entry 65). -/
def Thread.leaveHandler (t : Thread) : Thread :=
  { t with pc := t.tpc, tstat := setBits t.tstat 9 9 0, half := t.outer.filter fun h => h.pc == t.tpc, outer := none }

/-- What stopped an access, carried out: a fault, or fault service of a kind of R289. -/
def State.stop (s : State) (kind : Nat) : Check → State
  | .fault c d v => s.raiseFault c d v
  | .absent va => s.service va kind
  | _ => s

/-- The class of a cause in the order of R329. -/
def causeClass (cause : Nat) : Nat :=
  match cause with
  | 0x10 => 1
  | 0x13 => 2
  | 0x12 => 3
  | 0x14 => 4
  | 0x27 => 4
  | 0x1A => 4
  | 0x1B => 4
  | 0x19 => 4
  | 0x1C => 4
  | 0x15 => 5
  | 0x18 => 7
  | 0x03 => 9
  | _ => 8

/-- Where what has stopped the issuing thread's bundle stands in the order of R329: its class, then its location. A bundle that is not
ready meets nothing yet, and comes first. -/
def State.stopRank (s : State) : Nat × Nat :=
  match s.cur.wait with
  | .faulted => match s.myGrid.faults.getLast? with | some f => (causeClass f.cause, locOf f.fval) | none => (0, 0)
  | .service _ => (6, match s.fs.getLast? with | some f => locOf f.va | none => 0)
  | _ => if s.cur.hm then (9, 0) else (0, 0)

/-- The first of several stops in the order of R329; of equals, the first of the list. -/
def firstStop : List State → Option State
  | [] => none
  | x :: r =>
    match firstStop r with
    | none => some x
    | some y =>
      let a := x.stopRank
      let b := y.stopRank
      some (if b.1 < a.1 ∨ (b.1 = a.1 ∧ b.2 < a.2) then y else x)

/-! ### Requests (R39, R72, R156) -/

/-- The PC moved to the next bundle. -/
def State.advance (s : State) : State := { s with cur := { s.cur with pc := s.cur.pc + 8 } }

/-- Does the parked bundle of `half` stand at the thread's PC? -/
def Thread.atHalf (t : Thread) : Bool := t.half.any fun h => h.pc == t.pc && h.hm == t.hm

/-- The bundle at the thread's PC complete: a parked one is no longer to be issued again (R43). -/
def Thread.endHalf (t : Thread) : Thread := if t.atHalf then { t with half := none } else t

/-- A wait over: the thread goes on with the next bundle (R43). -/
def Thread.goOn (t : Thread) : Thread := { t.endHalf with wait := .running, pc := t.pc + 8 }

/-- An effect of a replay-mode chunk of a grid kept for its commit (R264, R327). -/
def State.deferIn (s : State) (g : Nat) (d : Deferred) : State :=
  s.modGrid g fun x => { x with replay := { x.replay with deferred := x.replay.deferred ++ [d] } }

/-- The same for the issuing thread's grid. -/
def State.deferred (s : State) (d : Deferred) : State := s.deferIn s.cur.id.grid d

/-- A grid is live in this watchdog window (R236, R323); of a replay-mode chunk that counts once it is committed. -/
def State.liveIn (s : State) (g : Nat) : State :=
  if (s.gridD g).replayOn then s.deferIn g .live else s.modGrid g fun x => { x with live := true }

/-- The same for the issuing thread's grid. -/
def State.markLive (s : State) : State := s.liveIn s.cur.id.grid

/-- What a request message to a key counts for under R45: the cluster of its home as it now stands, and the TCM share. R45 gives no
cluster for a bank of another package, which counts here as the cluster of the same number (DESIGN CHOICE, log entry 53). -/
def State.sentTo (s : State) (k : Nat) : SentTo :=
  match homeOf k with
  | .bank _ n => ⟨n, 0, 1⟩
  | .carve b => ⟨b, 0, 1⟩
  | .spad g l => ⟨clusterOf ((s.teamD g l).core.getD 0), 0, 1⟩
  | .tcm g l => ⟨clusterOf ((s.teamD g l).core.getD 0), g * 8192 + l + 1, 1⟩

/-- Messages added to a team's counts. -/
def addSent (x : SentTo) : List SentTo → List SentTo
  | [] => [x]
  | y :: r => if y.cluster = x.cluster ∧ y.share = x.share then { y with n := y.n + x.n } :: r else y :: addSent x r

/-- Does a core's data cache serve an access to a key without a message to the home (R61): a load of a line that it holds, a store to one
that no other cache holds? -/
def State.cacheServes (s : State) (c : Nat) (op : ReqOp) (k : Nat) : Bool :=
  decide (k < 2 ^ 53) && s.lines.any fun l => l.core == c && l.num == k / 32 &&
    match op with
    | .read => true
    | .write => l.st == .m || l.st == .e
    | _ => false

/-- One key for each home that a request's pieces go to: each home gets one message. -/
def homeKeys : List Piece → List Nat
  | [] => []
  | p :: r => p.key :: (homeKeys r).filter fun k => homeOf k != homeOf p.key

/-- Do `n` bytes from a key hold the byte of another key, or the reverse, within one word? -/
def Ahead.within (f : Ahead) (p : Piece) : Bool := decide (f.key < p.key + p.len) && decide (p.key < f.key + 8)

/-- The elements that a read stream has fetched ahead, cut before one that a later load of the thread touches: the pop must not give
an older value than that load (R73, R160). `asked`: does the load touch what the request of a number fetches? -/
def Stream.cut (x : Stream) (pieces : List Piece) (asked : Nat → Bool) : Stream :=
  if x.fetched.any fun f => pieces.any f.within then
    { x with fetched := x.fetched.takeWhile fun f => !pieces.any f.within, pending := none }
  else { x with pending := x.pending.filter fun n => !asked n }

/-- The read streams of the issuing thread as it makes a load. -/
def State.cutStreams (s : State) (t : Thread) (pieces : List Piece) : Thread :=
  let asked := fun n => s.fabric.any fun r => r.id == n && r.pieces.any fun p => pieces.any (Ahead.within ⟨0, p.key, 0⟩)
  { t with streams := t.streams.map fun o => o.map fun x => if x.write then x else x.cut pieces asked }

/-- The registers that wait for a request's reply (R8, R149). -/
def Dest.regs : Dest → List Reg
  | .scalar d _ _ _ => [d]
  | .raw d => [d]
  | .sense d => [d]
  | .quad => [8, 9, 10, 11, 12, 13, 14, 15]
  | _ => []

/-- Is the payload the next element of a stream? -/
def Dest.isStream : Dest → Bool
  | .stream _ => true
  | _ => false

/-- A request of the issuing thread put into the fabric: its counter rises, its registers wait (R8, R156). -/
def State.send (s : State) (op : ReqOp) (pieces : List Piece) (dest : Dest) (isLoad isStore : Bool) (counter : Counter)
    (ea : Word) (tile : Option Nat := none) (dataFrom : Option Nat := none) : State :=
  let t := s.cur
  let r : Req := { id := s.fresh, tid := t.id, core := t.core, op := op, pieces := pieces, dest := dest, isLoad := isLoad,
                   isStore := isStore, counter := counter, phase := t.phaseNo, epoch := t.epoch, ea := ea, fpc := t.pc,
                   queue := (s.gridD t.id.grid).queue, dataFrom := dataFrom, tile := tile, parked := false, held := false, misrouted := false,
                   orphan := false }
  let t := if isLoad && !dest.isStream then s.cutStreams t pieces else t
  let t := { t with awaiting := t.awaiting ++ (dest.regs.filter (· != 0)).map fun d => (d, r.id),
                    cntL := if counter = .l then t.cntL + 1 else t.cntL,
                    cntS := if counter = .s then t.cntS + 1 else t.cntS,
                    far := t.far || (isStore && pieces.any fun p => s.farKey p.key) }
  let s := s.modTeam t.id.grid t.id.team fun x =>
    { x with sent := ((homeKeys (pieces.filter fun p => !s.cacheServes t.core op p.key)).map s.sentTo).foldl (fun l e => addSent e l) x.sent }
  { s with cur := t, fabric := s.fabric ++ [r], fresh := s.fresh + 1 }

/-- One piece not yet performed, of no access that has an effective address. -/
def piece (key len : Nat) (data : Word) : Piece := ⟨0, key, len, data, false, 0, 0⟩

/-- One piece of an access, not yet performed. -/
def pieceAt (ea : Word) (key len : Nat) (data : Word) : Piece := ⟨ea, key, len, data, false, 0, 0⟩

/-- A release closes the current phase (R78). -/
def State.release (s : State) (scope : Nat) : State :=
  let t := s.cur
  { s with cur := { t with phaseNo := t.phaseNo + 1, closed := t.closed ++ [⟨t.phaseNo, s.fresh, scope == 5, t.far⟩], far := false } }

/-- Would a release close a fourth phase (R78)? -/
def Thread.phaseFull (t : Thread) : Bool := decide (3 ≤ t.closed.length)

end Sys2Proof.Machine
end

