-- ==== Sys2Proof/WellFormed.lean ====
section
/-! DEFINITION. Which terms of `Instr` are instructions of the machine: the checks of R107, R111, R112, R114, R116–R118 that a
field's width does not make by itself, and the ranges of the other agents' numbers (R11–R14, R285, R292, R293). -/

namespace Sys2Proof

/-- Only `s4`–`s7` can be bound to a stream (R111). -/
def isStreamReg (r : Reg) : Bool := 4 ≤ r.toNat && r.toNat ≤ 7

/-- The system register numbers that R118 assigns. -/
def isSysReg (n : BitVec 12) : Bool :=
  n.toNat ≤ 0x006 || n == 0x008 || n == 0x009 || (0x010 ≤ n.toNat && n.toNat ≤ 0x013) || n == 0x020 || n == 0x021 ||
  (0x030 ≤ n.toNat && n.toNat ≤ 0x041) || n == 0x0F0

/-- `fsamp` and `ftrunc` take n from 1 to 128 (R117). -/
def countBad (n : BitVec 8) : Bool := n == 0 || 129 ≤ n.toNat

/-- A row named by a register names one of `s0`–`s15` (R116). -/
def RowOp.wf (r : RowOp) : Bool := !r.rs || r.idx.toNat ≤ 15

/-- The type codes of `fcvt` that R114 allows. -/
def fcvtWf (t st : BitVec 4) : Bool :=
  t.toNat ≤ 6 && st.toNat ≤ 6 && t != st && (t.toNat ≤ 2 || st.toNat ≤ 2)

/-- The well-formed instructions. -/
def Instr.wf : Instr → Bool
  | .fenceAcq sc | .fenceRel sc | .fenceFull sc => sc.toNat ≤ 5
  | .sbind d _ | .sfree d => isStreamReg d
  | .sstat _ a => isStreamReg a
  | .rdsr _ n | .wrsr n _ => isSysReg n
  | .fcvt t st _ _ => fcvtWf t st
  | .fsgn k _ _ _ _ => k != 3#2
  | .vld rd _ _ | .vbc rd _ => rd.wf
  | .vst _ _ rb => rb.wf
  | .vadd rd ra rb | .vsub rd ra rb | .vmul rd ra rb | .vfma rd ra rb | .vmin rd ra rb | .vmax rd ra rb => rd.wf && ra.wf && rb.wf
  | .vabs rd ra | .vneg rd ra | .vcvt rd ra => rd.wf && ra.wf
  | .vcmp cc rd ra rb => cc.toNat ≤ 5 && rd.wf && ra.wf && rb.wf
  | .vsel rd ra rb | .vperm rd ra rb => rd.wf && ra.wf && rb.wf
  | .vred op ra => op != 3#2 && ra.wf
  | .vscale rd ra _ => rd.wf && ra.wf
  | .vloop _ cnt => cnt != 0
  | .topk _ _ rd rb ra _ | .topkm _ _ rd rb ra _ => rd.wf && rb.wf && ra.wf
  | .vsort _ rd rb ra => rd.wf && rb.wf && ra.wf
  | .msense _ _ _ st => st.toNat ≤ 4
  | .fevalV rd _ rb => rd.wf && rb.wf
  | .fsamp _ rb n => rb.wf && !countBad n
  | .ftrunc _ _ n => !countBad n
  | .streamFetch _ r => isStreamReg r
  | .mma c | .mmaS c | .mmaSp c | .mrot c | .mrotSend c | .mfill c | .mdrain c | .mzero c => c < 8192
  | .mrotExchange _ _ win => win < 4
  | .reinAdmission cl | .reinStepDown cl | .reinTableChange cl => cl < 1024
  | .exchange p q => p < 8192 && q < 8192 && p != q
  | .forwardingWithdraw c | .wearLevelling c | .illegalRecord c | .stepDownComplete c => c < 8192
  | .bankpartChangeEnd b => b < 1024
  | .sweeperNormalise _ rg _ => rg < 8
  | .qtailDoorbell q _ | .queueEnable q _ | .queueDisable q _ | .qlatWrite q _ | .invalidationCommand q _ => q < 2048
  | .invalidationComplete q | .launchEntry q | .graphEntry q | .waitValueEntry q | .waitValuePoll q => q < 2048
  | .signalEntry q | .copyEntry q | .illegalKindEntry q | .entryComplete q _ => q < 2048
  | .cpbRelease k => k < 4
  | .debugHalt cl | .debugResume cl | .ddataRead cl | .ddataWrite cl _ => cl < 1024
  | .reachGo st | .reachStop st | .reachProgramStop st => st < 8
  | .rd64 st adr tag | .wr64 st adr tag _ | .metard st adr tag => st < 8 && adr < 2 ^ 30 && tag < 256
  | .rd256 st adr tag | .wr256 st adr tag _ => st < 8 && adr < 2 ^ 30 && adr % 4 == 0 && tag < 256
  | .feopRead st adr tag sb | .feopSet st adr tag sb _ => st < 8 && adr < 2 ^ 30 && tag < 256 && sb < 8
  | .nolendIllegalCommand st tag cmd => st < 8 && tag < 256 && (cmd == 0 || (7 ≤ cmd && cmd ≤ 15))
  | .powerGate c _ | .wake c | .continuousShadowCopy c | .corePowerLoss c => c < 8192
  | .temperatureSample col _ => col < 512
  | .verticalBusFailure b q => b < 1024 && q < 4
  | .illegalBundle sb _ => 1 ≤ sb && sb ≤ 7
  | _ => true

end Sys2Proof
end

