-- ==== Sys2Proof/Machine/Operands.lean ====
section
/-! DEFINITION. Operand forms: scalar registers (R108), function registers, rows of tiles (R170), elements of rows (R169),
pieces of memory accesses, and which registers a bundle reads and writes (R8, R124, R125). -/

namespace Sys2Proof.Machine

/-- What a meaning answers. -/
abbrev Out := Host.Outcome State Fault Refusal

/-! ### Scalar registers -/

/-- A scalar register of a thread: `s0` reads 0 (R108). -/
def Thread.reg (t : Thread) (r : Reg) : Word := if r = 0 then 0 else t.regs[r.toNat]'r.isLt

/-- A scalar register written: a write to `s0` is discarded (R108). -/
def Thread.setReg (t : Thread) (r : Reg) (v : Word) : Thread :=
  if r = 0 then t else { t with regs := t.regs.set r.toNat v r.isLt }

/-- A register of the issuing thread. -/
def State.reg (s : State) (r : Reg) : Word := s.cur.reg r

/-- A register of the issuing thread written. -/
def State.setReg (s : State) (r : Reg) (v : Word) : State := { s with cur := s.cur.setReg r v }

/-- Several registers written, from `r` on (R149). -/
def Thread.setRegs (t : Thread) (r : Nat) : List Word → Thread
  | [] => t
  | v :: vs => Thread.setRegs (t.setReg (BitVec.ofNat 4 r) v) (r + 1) vs

/-- `s8`–`s15` as read at issue (R149). -/
def State.block (s : State) : List Word := [s.reg 8, s.reg 9, s.reg 10, s.reg 11, s.reg 12, s.reg 13, s.reg 14, s.reg 15]

/-! ### Function registers -/

/-- A function register of a thread. -/
def Thread.freg (t : Thread) (f : FRegN) : FReg := t.fregs[f.toNat]'f.isLt

/-- A function register replaced. -/
def Thread.setFreg (t : Thread) (f : FRegN) (v : FReg) : Thread := { t with fregs := t.fregs.set f.toNat v f.isLt }

/-- The bytes of the pool that a thread's registers hold (R102). -/
def Thread.poolUsed (t : Thread) : Nat := (t.fregs.toList.map fun f => 8 * f.coef.length).sum

/-! ### Tiles (R168–R170, R173) -/

/-- A tile of the issuing thread's team; `none` when the team holds no such tile. -/
def State.tile? (s : State) (t : Nat) : Option Tile := s.myTeam.tiles[t]?

/-- A tile of the team of a thread. -/
def State.tileOf? (s : State) (id : Tid) (t : Nat) : Option Tile := (s.teamD id.grid id.team).tiles[t]?

/-- A tile of a team replaced. -/
def State.setTileOf (s : State) (id : Tid) (t : Nat) (v : Tile) : State :=
  s.modTeam id.grid id.team fun x => { x with tiles := x.tiles.set t v }

/-- A tile of the issuing thread's team replaced. -/
def State.setTile (s : State) (t : Nat) (v : Tile) : State := s.setTileOf s.cur.id t v

/-- A row of a tile; rows are numbered modulo 64 (R170). -/
def Tile.row (t : Tile) (r : Nat) : Row := t.rows[r % 64]'(Nat.mod_lt r (by decide))

/-- A row of a tile written, with nothing said of its checksum. -/
def Tile.putRow (t : Tile) (r : Nat) (v : Row) : Tile := { t with rows := t.rows.set (r % 64) v (Nat.mod_lt r (by decide)) }

/-- A row written by a vector instruction: the checksum becomes stale (R173). -/
def Tile.setRow (t : Tile) (r : Nat) (v : Row) : Tile := { t.putRow r v with valid := false, sumBad := false }

/-- The element type of a tile. -/
def Tile.elem (t : Tile) : Elem := Elem.ofType t.type

/-- The row that a row operand names (R170). -/
def State.rowNo (s : State) (r : RowOp) : Nat :=
  if r.rs then (s.reg (r.idx.setWidth 4)).toNat % 64 else r.idx.toNat

/-- Element `i` of a row, `z` bytes wide (R169). -/
def elemAt (v : Row) (z i : Nat) : Nat := v.toNat / 2 ^ (8 * z * i) % 2 ^ (8 * z)

/-- The elements of a row of a type. -/
def rowElems (v : Row) (t : Elem) : List Nat := (List.range t.count).map (elemAt v t.size)

/-- A number whose base-2^(8z) digits are the elements. -/
def packElems (z : Nat) : List Nat → Nat
  | [] => 0
  | x :: r => x % 2 ^ (8 * z) + 2 ^ (8 * z) * packElems z r

/-- A row whose first elements are those of the list; the rest are those of the old row. -/
def rowWith (old : Row) (z : Nat) (l : List Nat) : Row :=
  let w := 8 * z * l.length
  BitVec.ofNat 2048 (packElems z l + old.toNat / 2 ^ w * 2 ^ w)

/-! ### Pieces of accesses (R71, R176) -/

/-- The offsets at which the units of `n` bytes begin, in units of `z`. -/
def unitOffsets (n z : Nat) : List Nat := (List.range (n / z)).map (· * z)

/-- The aligned 8-byte units of `n` bytes from location `loc`: offset and length of each (R71). `fuel` bounds their number. -/
def unitsFrom (loc n : Nat) : Nat → List (Nat × Nat)
  | 0 => []
  | fuel + 1 =>
    if n = 0 then []
    else
      let first := min n (8 - loc % 8)
      (0, first) :: (unitsFrom (loc + first) (n - first) fuel).map fun p => (p.1 + first, p.2)

/-- The units of `n` bytes from a location. -/
def units8 (loc n : Nat) : List (Nat × Nat) := unitsFrom loc n (n / 8 + 2)

/-- Pieces for keys and lengths of an access at `ea`, with the bytes of `data` from offset 0 on. -/
def mkPieces (ea : Word) (data : Nat) : List (Nat × Nat × Nat) → List Piece
  | [] => []
  | (key, off, len) :: r =>
    pieceAt (eaPlus ea off) key len (BitVec.ofNat 64 (data / 2 ^ (8 * off) % 2 ^ (8 * len))) :: mkPieces ea data r

/-- Keys joined with their units. -/
def zipUnits : List Nat → List (Nat × Nat) → List (Nat × Nat × Nat)
  | k :: ks, (o, n) :: us => (k, o, n) :: zipUnits ks us
  | _, _ => []

/-- The bytes that the pieces of a request hold, joined in order. -/
def joinPieces : List Piece → Nat
  | [] => 0
  | p :: r => p.val.toNat % 2 ^ (8 * p.len) + 2 ^ (8 * p.len) * joinPieces r

/-! ### Replays and what is still to be performed (R73, R176, R187) -/

/-- B of R176: 256 under view 0, else n_T elements of the memory type. -/
def rowBytes (t : Elem) (view : Nat) : Nat := if view = 0 then 256 else t.count * (Elem.ofView view).size

/-- The effective address of an entry under replay c (R187 line 06). -/
def entryAddr (ea : Word) (c bytes : Nat) : Word := eaPlus ea (c * bytes)

/-- Request numbers set aside for one replayed entry. -/
def replayBlock : Nat := 64

/-- The replayed entries still to come, each with its replay number c. -/
def VReplay.left (v : VReplay) : List (Nat × Entry) :=
  ((v.entries.drop v.k).map fun e => (v.c, e)) ++
  (List.range (v.count - v.c)).flatMap fun i => v.entries.map fun e => (v.c + 1 + i, e)

/-- The row access of an entry in replay c: is it a store, its effective address, its bytes. -/
def State.replayAccess (s : State) (id : Tid) (c : Nat) (e : Entry) : Option (Bool × Word × Nat) :=
  let ea := e.scalars.getD 0 0
  let bytes := fun r : RowOp => rowBytes (match (s.teamD id.grid id.team).tiles[r.tile.toNat]? with | some t => Elem.ofType t.type | none => .fp32) (viewOf ea)
  match e.instr with
  | .vld rd _ _ => some (false, if rd.step then entryAddr ea c (bytes rd) else ea, bytes rd)
  | .vst _ _ rb => some (true, if rb.step then entryAddr ea c (bytes rb) else ea, bytes rb)
  | _ => none

/-- The stream slot of `s4`–`s7`. -/
def streamSlot (r : Reg) : Nat := (r.toNat - 4) % 4

/-- The stream bound to a register. -/
def Thread.stream? (t : Thread) (r : Reg) : Option Stream :=
  if isStreamReg r then t.streams[streamSlot r]'(Nat.mod_lt _ (by decide)) else none

/-- The stream to which a write of a register appends an element. -/
def Thread.appendsTo (t : Thread) (r : Reg) : Option Stream := (t.stream? r).filter fun x => x.write && decide (x.idx < x.count)

/-- The register that a selection writes. -/
def selectReg : Instr → Option Reg
  | .topk _ c _ _ _ _ | .topkm _ c _ _ _ _ => some c
  | _ => none

/-- The effective address of element `i` of a stream (R159). -/
def Stream.elemAddr (x : Stream) (i : Nat) : Word := effAddr x.base (x.stride.toInt * i)

/-- The element size in bytes. -/
def Stream.bytes (x : Stream) : Nat := 2 ^ x.size.toNat

/-- Is the register still awaiting this request (R124)? -/
def Thread.awaits (t : Thread) (r : Reg) (n : Nat) : Bool := t.awaiting.contains (r, n)

/-- The replayed entries still to come that count as issued before request number `upto`. -/
def VReplay.leftBefore (v : VReplay) (upto : Nat) : List (Nat × Entry) :=
  ((v.left.zipIdx ((v.c - 1) * v.entries.length + v.k)).filter fun p => decide (v.base + replayBlock * p.2 < upto)).map (·.1)

/-- The elements that the selections among some entries of a `vloop` will append, each with its stream (R125, R187). -/
def Thread.loopAppends (t : Thread) (v : VReplay) (l : List (Nat × Entry)) : List (Stream × Nat) :=
  ([4, 5, 6, 7] : List Reg).flatMap fun r =>
    match (t.appendsTo r).filter fun _ => t.awaits r (v.base - 1) with
    | some x => (List.range (min (l.countP fun p => selectReg p.2.instr == some r) (x.count - x.idx))).map fun j => (x, x.idx + j)
    | none => []

/-- The aligned units of `n` bytes at an effective address of a grid's thread, at the keys that they now have. -/
def State.unitsNow (s : State) (g : Nat) (ea : Word) (n : Nat) : List (Nat × Nat) :=
  (units8 (locOf ea) n).filterMap fun u => (s.keyNow g (locOf (eaPlus ea u.1))).map fun k => (k, u.2)

/-- The units of the accesses that a thread's `vloop` has still to make and that count as issued before request number `upto` (R73, R187):
is it a store, its key, its length. The append of a selection is a store (R161). -/
def State.replayUnits (s : State) (t : Thread) (upto : Nat) : List (Bool × Nat × Nat) :=
  match t.vreplay with
  | none => []
  | some v =>
    let l := v.leftBefore upto
    (l.flatMap fun p =>
      match s.replayAccess t.id p.1 p.2 with
      | none => []
      | some (st, ea, n) => (s.unitsNow t.id.grid ea n).map fun u => (st, u.1, u.2)) ++
    (t.loopAppends v l).flatMap fun a => (s.unitsNow t.id.grid (a.1.elemAddr a.2) a.1.bytes).map fun u => (true, u.1, u.2)

/-- Does the replay of an entry load, or where not only loads count, store: a row access, or a selection's append (R125, R187)? -/
def Thread.entryAccesses (t : Thread) (loads : Bool) (e : Entry) : Bool :=
  match e.instr with
  | .vld _ _ _ => true
  | .vst _ _ _ => !loads
  | i => !loads && (selectReg i).any fun r => (t.appendsTo r).isSome

/-- Has a thread's `vloop` from before `upto` still to make such an access? -/
def Thread.replaysBefore (t : Thread) (upto : Nat) (loads : Bool) : Bool :=
  match t.vreplay with
  | some v => decide (v.base < upto) && v.left.any fun p => t.entryAccesses loads p.2
  | none => false

/-- Are all requests of a thread with an id below `upto` performed, the accesses of replays included? `loads`: only its loads (R75). -/
def State.allPerformed (s : State) (t : Tid) (upto : Nat) (loads : Bool) : Bool :=
  (s.fabric.all fun r => !(r.tid == t && decide (r.id < upto) && (!loads || r.isLoad)) || r.pieces.all (·.done)) &&
  !(s.threads.any fun x => x.id == t && x.replaysBefore upto loads)

/-- Has the issuing thread a request that is not yet performed? -/
def State.earlierOpen (s : State) : Bool :=
  s.fabric.any fun r => r.tid == s.cur.id && decide (r.id < s.fresh) && r.pieces.any fun p => !p.done

/-- Is what has stopped the issuing thread in `u` an access beyond the carve-out in force? Such an access reads CUR in its own event at the
bank, so it stops its bundle only once the thread's earlier accesses, after which that event may have to come, are performed (R356). -/
def State.carveStop (u : State) : Bool :=
  u.cur.wait == .faulted &&
  match u.myGrid.faults.getLast? with
  | some f => [0x14, 0x19, 0x1C].contains f.cause && decide (windowBase + 0x1000000000 ≤ locOf f.fval) &&
      decide (locOf f.fval < windowBase + 0x3000000000)
  | none => false

/-- Must the bundle, or the replayed entry, that `u` stops wait instead? -/
def State.carveWaits (s u : State) (replay : Bool) : Bool :=
  u.carveStop && (s.earlierOpen || (!replay && s.cur.replaysBefore s.fresh false))

/-! ### Records of the matrix queue (R119, R120): what other files read of them -/

/-- Word n of a record: 0 is the header, `s8`. -/
def MRec.w (r : MRec) (n : Nat) : Word := r.words.getD n 0

/-- A field of the header. -/
def MRec.h (r : MRec) (hi lo : Nat) : Nat := bits (r.w 0) hi lo

/-- KIND (R119). -/
def MRec.kind (r : MRec) : Nat := r.h 7 0

/-- TC (R119). -/
def MRec.tc (r : MRec) : Nat := r.h 11 8

/-- M. -/
def MRec.m (r : MRec) : Nat := r.h 21 16 + 1

/-- A stride of the stride word (R120): 0 AST, 1 BST, 2 SAST, 3 SBST. -/
def MRec.stride (r : MRec) (j : Nat) : Word := BitVec.ofNat 64 (bits (r.w 3) (16 * j + 15) (16 * j))

/-- An address a number of strides on (R164). -/
def strideAddr (base stride : Word) (i : Nat) : Word := effAddr base ((stride.toNat : Int) * i)

/-- The address of row i of a fill or a drain. -/
def MRec.rowAddr (r : MRec) (i : Nat) : Word := strideAddr (r.w 1) (r.stride 0) i

/-- The fills of a thread queued before request number `upto` that have rows still to read (R200). -/
def State.fillsBefore (s : State) (t : Tid) (upto : Nat) : List MRec :=
  (s.cores.flatMap (·.mq) ++ s.teams.flatMap (·.savedMq)).filter fun r =>
    r.tid == t && r.kind == 5 && decide (r.id < upto) && decide (r.rows < r.m)

/-- The units that a fill has still to read. -/
def State.fillUnits (s : State) (r : MRec) : List (Nat × Nat) :=
  let elem := match (s.teamD r.tid.grid r.tid.team).tiles[r.tc]? with | some t => Elem.ofType t.type | none => .fp32
  ((List.range r.m).drop r.rows).flatMap fun i => s.unitsNow r.tid.grid (r.rowAddr i) (rowBytes elem (viewOf (r.w 1)))

/-- Is a store of the thread that overlaps `n` bytes from a key not yet performed (R73, R79)? -/
def State.storePending (s : State) (t : Tid) (upto k n : Nat) : Bool :=
  (s.fabric.any fun r => r.tid == t && decide (r.id < upto) && r.isStore &&
    r.pieces.any fun p => !p.done && decide (p.key < k + n) && decide (k < p.key + p.len)) ||
  s.threads.any fun x => x.id == t && (s.replayUnits x upto).any fun u => u.1 && decide (u.2.1 < k + n) && decide (k < u.2.1 + u.2.2)

/-! ### Which registers a bundle reads and writes (R8, R124, R125) -/

/-- The scalar register that a row operand reads. -/
def rowReads (r : RowOp) : List Reg := if r.rs then [r.idx.setWidth 4] else []

/-- `s8`–`s15`. -/
def blockRegs : List Reg := [8, 9, 10, 11, 12, 13, 14, 15]

/-- The function registers an instruction reads at issue (R344). -/
def fregReads : Instr → List FRegN
  | .fstF _ _ f | .fset f _ _ | .fdom f _ _ | .fsamp f _ _ => [f]
  | .faddF _ a b | .fsubF _ a b | .fmulF _ a b | .fcomp _ a b => [a, b]
  | .fscl _ a _ | .fint _ a | .fder _ a | .feval _ a _ | .fevalV _ a _ | .froot _ a _ _ | .flen _ a | .ftrunc _ a _ => [a]
  | _ => []

/-- The scalar registers an instruction reads at issue. -/
def readsOf : Instr → List Reg
  | .addiCm _ a _ | .ldB _ a _ | .ldBU _ a _ | .ldH _ a _ | .ldHU _ a _ | .ldW _ a _ | .ldWU _ a _ | .ldD _ a _ => [a]
  | .ldQ a _ => [a]
  | .stB a _ b | .stH a _ b | .stW a _ b | .stD a _ b | .stf a _ b | .stw a _ b => [a, b]
  | .stQ a _ => a :: blockRegs
  | .ldf _ a _ | .lde _ a _ | .feset _ a _ | .festat _ a _ => [a]
  | .aadd _ a b | .aaddf _ a b | .aand _ a b | .aor _ a b | .axor _ a b | .amin _ a b | .amax _ a b | .aminu _ a b
  | .amaxu _ a b | .aswap _ a b => [a, b]
  | .acas d a b => [d, a, b]
  | .hint _ a b => [a, b]
  | .sbind _ a => [a]
  | .bEq a b _ | .bNe a b _ | .bLt a b _ | .bGe a b _ | .bLtu a b _ | .bGeu a b _ => [a, b]
  | .jr _ a _ => [a]
  | .cpy _ | .cpyg _ | .cpys _ => [8, 9, 10, 11, 12, 13]
  | .publ a | .sleep a | .join a | .launch a | .migr a => [a]
  | .fork _ => [4, 5, 6, 7]
  | .wrsr _ a => [a]
  | .addi _ a _ | .andi _ a _ | .ori _ a _ | .xori _ a _ | .slti _ a _ => [a]
  | .add _ a b | .sub _ a b | .mul _ a b | .mulh _ a b | .mulhu _ a b | .div _ a b | .divu _ a b | .rem _ a b | .remu _ a b
  | .and _ a b | .or _ a b | .xor _ a b | .shl _ a b | .shr _ a b | .sra _ a b | .slt _ a b | .sltu _ a b | .seq _ a b
  | .min _ a b | .max _ a b | .minu _ a b | .maxu _ a b => [a, b]
  | .shli _ a _ | .shri _ a _ | .srai _ a _ | .clz _ a | .ctz _ a | .popc _ a | .bswap _ a => [a]
  | .bext _ a _ _ | .bextu _ a _ _ => [a]
  | .bins d a _ _ => [d, a]
  | .fadd _ _ a b | .fsub _ _ a b | .fmul _ _ a b | .fdiv _ _ a b | .fmin _ _ a b | .fmax _ _ a b | .fcmp _ _ _ a b
  | .fsgn _ _ _ a b => [a, b]
  | .fsqrt _ _ a | .fcvt _ _ _ a | .fclass _ _ a => [a]
  | .lih d _ => [d]
  | .sel _ a b c | .ffma _ _ a b c => [a, b, c]
  | .vld rd a _ => a :: rowReads rd
  | .vst a _ rb => a :: rowReads rb
  | .vbc rd a => a :: rowReads rd
  | .vadd rd ra rb | .vsub rd ra rb | .vmul rd ra rb | .vfma rd ra rb | .vmin rd ra rb | .vmax rd ra rb
  | .vcmp _ rd ra rb | .vsel rd ra rb | .vperm rd ra rb => rowReads rd ++ rowReads ra ++ rowReads rb
  | .vabs rd ra | .vneg rd ra | .vcvt rd ra => rowReads rd ++ rowReads ra
  | .vred _ ra => rowReads ra
  | .vscale rd ra b => b :: (rowReads rd ++ rowReads ra)
  | .topk _ _ rd rb ra _ => rowReads rd ++ rowReads rb ++ rowReads ra
  | .topkm _ c rd rb ra _ => c :: (rowReads rd ++ rowReads rb ++ rowReads ra)
  | .vsort _ rd rb ra => rowReads rd ++ rowReads rb ++ rowReads ra
  | .mdepAdd a _ b | .mdepMax a _ b => [a, b]
  | .msense _ a b _ => [a, b]
  | .mrd _ a _ | .mclr a _ => [a]
  | .fldF _ a _ | .fstF a _ _ | .fset _ a _ => [a]
  | .fdom _ a b => [a, b]
  | .fscl _ _ b | .feval _ _ b => [b]
  | .fevalV rd _ rb => rowReads rd ++ rowReads rb
  | .fsamp _ rb _ => rowReads rb
  | .froot _ _ b c => [b, c]
  | _ => []

/-- The scalar registers an instruction writes, at issue or later. -/
def writesOf : Instr → List Reg
  | .addiCm d _ _ | .ldB d _ _ | .ldBU d _ _ | .ldH d _ _ | .ldHU d _ _ | .ldW d _ _ | .ldWU d _ _ | .ldD d _ _ => [d]
  | .ldQ _ _ => blockRegs
  | .ldf d _ _ | .lde d _ _ | .festat d _ _ => [d]
  | .aadd d _ _ | .aaddf d _ _ | .aand d _ _ | .aor d _ _ | .axor d _ _ | .amin d _ _ | .amax d _ _ | .aminu d _ _
  | .amaxu d _ _ | .aswap d _ _ | .acas d _ _ => [d]
  | .sstat d _ => [d]
  | .jal d _ | .jr d _ _ => [d]
  | .cpy d | .cpyg d | .cpys d => [d]
  | .next | .join _ => [4, 5, 6, 7]
  | .rdsr d _ => [d]
  | .addi d _ _ | .andi d _ _ | .ori d _ _ | .xori d _ _ | .slti d _ _ => [d]
  | .add d _ _ | .sub d _ _ | .mul d _ _ | .mulh d _ _ | .mulhu d _ _ | .div d _ _ | .divu d _ _ | .rem d _ _ | .remu d _ _
  | .and d _ _ | .or d _ _ | .xor d _ _ | .shl d _ _ | .shr d _ _ | .sra d _ _ | .slt d _ _ | .sltu d _ _ | .seq d _ _
  | .min d _ _ | .max d _ _ | .minu d _ _ | .maxu d _ _ => [d]
  | .shli d _ _ | .shri d _ _ | .srai d _ _ | .clz d _ | .ctz d _ | .popc d _ | .bswap d _ => [d]
  | .bext d _ _ _ | .bextu d _ _ _ | .bins d _ _ _ => [d]
  | .fadd _ d _ _ | .fsub _ d _ _ | .fmul _ d _ _ | .fdiv _ d _ _ | .fmin _ d _ _ | .fmax _ d _ _ | .fcmp _ _ d _ _
  | .fsgn _ _ d _ _ => [d]
  | .fsqrt _ d _ | .fcvt _ _ d _ | .fclass _ d _ => [d]
  | .li d _ | .lih d _ | .sel d _ _ _ | .ffma _ d _ _ _ => [d]
  | .vpop d => [d]
  | .topk _ c _ _ _ _ | .topkm _ c _ _ _ _ => [c]
  | .msense d _ _ _ | .mrd d _ _ | .mtick d _ => [d]
  | .feval d _ _ | .froot d _ _ _ | .flen d _ => [d]
  | _ => []

/-- The registers whose stream an instruction binds or frees: a value still to come for one holds the bundle (R124, R162). -/
def bindsOf : Instr → List Reg
  | .sbind d _ => [d]
  | .sfree d => [d]
  | _ => []

/-- The row operands of an instruction, in the order rd, ra, rb of its form. -/
def rowsOf : Instr → List RowOp
  | .vld rd _ _ => [rd]
  | .vst _ _ rb => [rb]
  | .vbc rd _ => [rd]
  | .vadd rd ra rb | .vsub rd ra rb | .vmul rd ra rb | .vfma rd ra rb | .vmin rd ra rb | .vmax rd ra rb
  | .vcmp _ rd ra rb | .vsel rd ra rb | .vperm rd ra rb => [rd, ra, rb]
  | .vabs rd ra | .vneg rd ra | .vcvt rd ra | .vscale rd ra _ => [rd, ra]
  | .vred _ ra => [ra]
  | .topk _ _ rd rb ra _ | .topkm _ _ rd rb ra _ | .vsort _ rd rb ra => [rd, ra, rb]
  | .fevalV rd _ rb => [rd, rb]
  | .fsamp _ rb _ => [rb]
  | _ => []

/-- Is the instruction an entry of the loop sequencer (R186)? -/
def isEntry (i : Instr) : Bool := match i with | .fsamp _ _ _ => false | _ => !(rowsOf i).isEmpty

end Sys2Proof.Machine
end

