-- ==== Sys2Proof/Machine/Memory.lean ====
section
/-! DEFINITION. Loads, stores, the 64-byte forms, full/empty operations and atomics, as issued (R146–R154), with the migration
of R37. The home performs them in Sys2Proof/Machine/Home.lean. -/

namespace Sys2Proof.Machine

/-- The bundle is not ready: it stays unissued (R29). -/
def State.hold (s : State) : State := { s with aborted := true }

/-! ### Migration (R37, R38) -/

/-- Is the thread anchored (R38)? -/
def State.anchored (s : State) (t : Thread) : Bool :=
  !(s.teamD t.id.grid t.id.team).tiles.isEmpty || t.fregs.toList.any (fun f => !f.coef.isEmpty) ||
  t.streams.toList.any Option.isSome || t.cntC != 0 || t.cntM != 0 || (s.gridD t.id.grid).replayOn

/-- Does a thread occupy or reserve a slot of a core (R37)? -/
def State.slotTaken (s : State) (c slot : Nat) : Bool :=
  s.threads.any fun t => t.id.grid != 0 && t.wait != .ended &&
    ((t.core == c && t.slot == slot) || ((s.teamD t.id.grid t.id.team).core == some c && t.homeSlot == slot))

/-- The first free slot of a core; a thread coming home has its own. A core in an exchange takes none in (R46). -/
def State.freeSlot (s : State) (t : Thread) (c : Nat) : Option Nat :=
  if (s.core c).exchanging then none
  else if (s.teamD t.id.grid t.id.team).core = some c then some t.homeSlot
  else (List.range 8).find? fun n => !s.slotTaken c n

/-- Does a core hold a team of a grid (R37)? -/
def State.holdsTeam (s : State) (g c : Nat) : Bool := s.teams.any fun x => x.grid == g && x.core == some c

/-- The core and slot to which an access of the issuing thread to a key migrates it, when R37 allows one. -/
def State.migrationFor (s : State) (key : Nat) : Option (Nat × Nat) :=
  let t := s.cur
  if !(s.gridD t.id.grid).migrOn || s.anchored t then none
  else
    match homeOf key with
    | .tcm g l =>
      match (s.teamD g l).core with
      | some c => if g = t.id.grid ∧ l ≠ t.id.team ∧ c ≠ t.core then (s.freeSlot t c).map fun n => (c, n) else none
      | none => none
    | .spad g l =>
      match (s.teamD g l).core with
      | some c =>
        if clusterOf c = clusterOf t.core then none
        else
          match (clusterCores (clusterOf c)).find? fun k => s.holdsTeam t.id.grid k && (s.freeSlot t k).isSome with
          | some k => (s.freeSlot t k).map fun n => (k, n)
          | none => none
      | none => none
    | _ => none

/-- The thread leaves for another core, taking with it the request it will make there (R37, R106). -/
def State.depart (s : State) (c slot : Nat) (pend : Option Req) : State :=
  { s with cur := { s.cur with core := c, slot := slot, wait := .migrating pend } }

/-! ### One access (R146, R329) -/

/-- An access as its instruction asks for it. -/
structure Access where
  viewOk : Bool
  szLog : Nat
  alignLog : Nat
  needW : Bool
  kind : Nat
  units : List (Nat × Nat)
  op : ReqOp
  data : Nat
  dest : Dest
  isLoad : Bool
  isStore : Bool
  counter : Counter
  /-- does the thread wait at the bundle until the home serves it (R30)? -/
  parks : Bool
  migrates : Bool
  /-- the tile that a `vst` names (R174) -/
  tile : Option Nat := none

/-- The request sent from where the thread is. -/
def State.sendHere (s : State) (ea : Word) (keys : List Nat) (a : Access) : State :=
  let id := s.fresh
  let s := s.send a.op (mkPieces ea a.data (zipUnits keys a.units)) a.dest a.isLoad a.isStore a.counter ea a.tile
  if a.parks then { s with cur := { s.cur with wait := .word id } } else s.advance

/-- The request taken along by a thread that migrates: it enters the fabric on arrival. -/
def State.sendAway (s : State) (ea : Word) (keys : List Nat) (a : Access) (c slot : Nat) : State :=
  let r := s.sendHere ea keys a
  { (r.depart c slot r.fabric.getLast?) with fabric := s.fabric }

/-- A register that a load from the matrix queue window writes: zeros (R192). -/
def State.destZero (s : State) : Dest → State
  | .scalar d view size uns => s.setReg d (viewDecode view size uns 0)
  | .raw d => s.setReg d 0
  | .quad => { s with cur := s.cur.setRegs 8 [0, 0, 0, 0, 0, 0, 0, 0] }
  | .row t r _ => match s.tile? t with | some x => s.setTile t (x.setRow r 0) | none => s
  | _ => s

/-- One access of the issuing thread: its checks, then the migration of R37 or the request. -/
def State.access (s : State) (ea : Word) (a : Access) : State :=
  let r := s.check ea a.viewOk a.szLog a.alignLog a.needW (a.units.map (·.1))
  match r.1 with
  | .queueWindow _ => if a.isStore then r.2.raiseFault 0x16 8 ea else (r.2.destZero a.dest).advance
  | .ok keys =>
    let s := r.2
    match (if a.migrates then s.migrationFor (keys.headD 0) else none) with
    | some (c, slot) =>
      if s.cur.cntL = 0 ∧ s.cur.cntS = 0 ∧ s.cur.closed = [] then s.sendAway ea keys a c slot else s.hold
    | none => s.sendHere ea keys a
  | c => r.2.stop a.kind c

/-- log2 of 1, 2, 4 or 8. -/
def logSize (z : Nat) : Nat := z.log2

/-- The element size of a view (R58); 0 for raw. -/
def viewSize (v : Nat) : Nat := if v = 0 then 0 else (Elem.ofView v).size

/-- Does a scalar access of `z` bytes fit the view (R58)? -/
def scalarViewOk (v z : Nat) : Bool := v == 0 || (decide (v ≤ 5) && viewSize v == z)

/-- A scalar load of R147. -/
def State.loadScalar (s : State) (d a : Reg) (i : BitVec 13) (z : Nat) (uns : Bool) : State :=
  let ea := effAddr (s.reg a) i.toInt
  s.access ea { viewOk := scalarViewOk (viewOf ea) z, szLog := logSize z, alignLog := logSize z, needW := false, kind := 0,
                units := [(0, z)], op := .read, data := 0, dest := .scalar d (viewOf ea) z uns, isLoad := true,
                isStore := false, counter := .l, parks := false, migrates := true }

/-- A scalar store of R147. -/
def State.storeScalar (s : State) (a : Reg) (i : BitVec 13) (b : Reg) (z : Nat) : State :=
  let ea := effAddr (s.reg a) i.toInt
  s.access ea { viewOk := scalarViewOk (viewOf ea) z, szLog := logSize z, alignLog := logSize z, needW := true, kind := 1,
                units := [(0, z)], op := .write, data := (viewEncode (viewOf ea) (s.reg b)).toNat % 2 ^ (8 * z),
                dest := .none, isLoad := false, isStore := true, counter := .s, parks := false, migrates := true }

/-- `ld.b` of R147. -/
def execLdB (d a : Reg) (i : BitVec 13) (s : State) : Out := .next (s.loadScalar d a i 1 false)
/-- `ld.b.u` of R147. -/
def execLdBU (d a : Reg) (i : BitVec 13) (s : State) : Out := .next (s.loadScalar d a i 1 true)
/-- `ld.h` of R147. -/
def execLdH (d a : Reg) (i : BitVec 13) (s : State) : Out := .next (s.loadScalar d a i 2 false)
/-- `ld.h.u` of R147. -/
def execLdHU (d a : Reg) (i : BitVec 13) (s : State) : Out := .next (s.loadScalar d a i 2 true)
/-- `ld.w` of R147. -/
def execLdW (d a : Reg) (i : BitVec 13) (s : State) : Out := .next (s.loadScalar d a i 4 false)
/-- `ld.w.u` of R147. -/
def execLdWU (d a : Reg) (i : BitVec 13) (s : State) : Out := .next (s.loadScalar d a i 4 true)
/-- `ld.d` of R147. -/
def execLdD (d a : Reg) (i : BitVec 13) (s : State) : Out := .next (s.loadScalar d a i 8 false)
/-- `st.b` of R147. -/
def execStB (a : Reg) (i : BitVec 13) (b : Reg) (s : State) : Out := .next (s.storeScalar a i b 1)
/-- `st.h` of R147. -/
def execStH (a : Reg) (i : BitVec 13) (b : Reg) (s : State) : Out := .next (s.storeScalar a i b 2)
/-- `st.w` of R147. -/
def execStW (a : Reg) (i : BitVec 13) (b : Reg) (s : State) : Out := .next (s.storeScalar a i b 4)
/-- `st.d` of R147. -/
def execStD (a : Reg) (i : BitVec 13) (b : Reg) (s : State) : Out := .next (s.storeScalar a i b 8)

/-- The eight 8-byte units of `ld.q` and `st.q` (R149). -/
def quadUnits : List (Nat × Nat) := [(0, 8), (8, 8), (16, 8), (24, 8), (32, 8), (40, 8), (48, 8), (56, 8)]

/-- `ld.q` of R149. -/
def execLdQ (a : Reg) (i : BitVec 13) (s : State) : Out :=
  .next (s.access (effAddr (s.reg a) i.toInt)
    { viewOk := true, szLog := 6, alignLog := 6, needW := false, kind := 0, units := quadUnits, op := .read, data := 0,
      dest := .quad, isLoad := true, isStore := false, counter := .l, parks := false, migrates := true })

/-- The words of a block joined, the first lowest. -/
def joinWords : List Word → Nat
  | [] => 0
  | w :: r => w.toNat + 2 ^ 64 * joinWords r

/-- The core that holds the issuing thread's team (R192). -/
def State.teamCore (s : State) : Nat := (s.teamD s.cur.id.grid s.cur.id.team).core.getD s.cur.core

/-- A thread that queues a fill: of what its streams have fetched ahead nothing stays that the fill will load (R73, R200). -/
def State.cutForFill (s : State) (t : Tid) (r : MRec) : State :=
  let us := (s.fillUnits r).map fun u => piece u.1 u.2 0
  s.modThread t fun x => s.cutStreams x us

/-- A record put into the matrix queue of a core (R192, R203): it may make an inactive unit request admission. -/
def State.queueRecord (s : State) (c : Nat) (t : Tid) (fpc : Word) (words : List Word) : State :=
  let k := s.core c
  let r : MRec := { id := s.fresh, words := words, tid := t, fpc := fpc, upto := s.fresh, rows := 0, running := false,
                    multiplied := false, scalesA := [], scalesB := [], writes := [], sends := [], paused := none, untilTret := false }
  let u := if k.mq.isEmpty ∧ k.unit = .inactive then .requesting s.cycle else k.unit
  let s := if r.kind = 5 then s.cutForFill t r else s
  { (s.setCore { k with mq := k.mq ++ [r], unit := u }) with fresh := s.fresh + 1 }

/-- `st.q` into the matrix queue window (R119, R192): m rises; the record takes the next slot, at commit in replay mode
(R327). While all 8 slots are held the bundle is not ready. -/
def State.stqRecord (s : State) : State :=
  let up := fun t : Thread => { t with cntM := t.cntM + 1 }
  if s.myGrid.replayOn then
    let queued := (s.myGrid.replay.deferred.filter fun d => match d with | .record _ _ _ => true | _ => false).length
    if 8 ≤ (s.core s.teamCore).mq.length + queued then s.hold
    else
    ((s.deferred (.record s.cur.id s.cur.pc s.block)).modCur up).advance
  else if 8 ≤ (s.core s.teamCore).mq.length then s.hold
  else ((s.queueRecord s.teamCore s.cur.id s.cur.pc s.block).modCur up).advance

/-- `st.q` of R149, R192. -/
def execStQ (a : Reg) (i : BitVec 13) (s : State) : Out :=
  let ea := effAddr (s.reg a) i.toInt
  let r := s.check ea true 6 6 true [0]
  match r.1 with
  | .queueWindow _ => .next r.2.stqRecord
  | _ =>
    .next (s.access ea { viewOk := true, szLog := 6, alignLog := 6, needW := true, kind := 1, units := quadUnits, op := .write,
                         data := joinWords s.block, dest := .none, isLoad := false, isStore := true, counter := .s,
                         parks := false, migrates := true })

/-! ### Full/empty operations (R150, R151) -/

/-- A full/empty operation of R150 on the word at `[sA+imm]`. -/
def State.feAccess (s : State) (a : Reg) (i : BitVec 13) (op : ReqOp) (data : Nat) (dest : Dest) (needW isLoad isStore parks : Bool) :
    State :=
  let ea := effAddr (s.reg a) i.toInt
  s.access ea { viewOk := true, szLog := 3, alignLog := 3, needW := needW, kind := if isStore then 1 else 0, units := [(0, 8)],
                op := op, data := data, dest := dest, isLoad := isLoad, isStore := isStore,
                counter := if isLoad then .l else .s, parks := parks, migrates := true }

/-- The release of a fill at an address (R76): `package` scope, `domain` when the home lies in another package. -/
def State.fillRelease (s : State) (ea : Word) : State :=
  s.release (match s.keyNow s.cur.id.grid (locOf ea) with | some k => if s.farKey k then 5 else 4 | none => 4)

/-- A fill of R151: the release, then the store, which carries the next phase. When the access does not issue (a fault, fault
service, or a hold), nothing of the bundle takes effect. -/
def State.fill (s : State) (a : Reg) (i : BitVec 13) (b : Reg) (op : ReqOp) : State :=
  if s.cur.phaseFull then s.hold
  else
    let r := (s.fillRelease (effAddr (s.reg a) i.toInt)).feAccess a i op (s.reg b).toNat .none true false true true
    if r.aborted then s.feAccess a i op (s.reg b).toNat .none true false true true else r

/-- `ldf` of R150. -/
def execLdf (d a : Reg) (i : BitVec 13) (s : State) : Out := .next (s.feAccess a i .ldf 0 (.raw d) false true false true)
/-- `lde` of R150. -/
def execLde (d a : Reg) (i : BitVec 13) (s : State) : Out := .next (s.feAccess a i .lde 0 (.raw d) true true true true)
/-- `stf` of R150. -/
def execStf (a : Reg) (i : BitVec 13) (b : Reg) (s : State) : Out := .next (s.fill a i b .stf)
/-- `stw` of R150. -/
def execStw (a : Reg) (i : BitVec 13) (b : Reg) (s : State) : Out := .next (s.fill a i b .stw)
/-- `feset` of R150. -/
def execFeset (v : BitVec 1) (a : Reg) (i : BitVec 13) (s : State) : Out :=
  .next (s.feAccess a i (.feset (v == 1)) 0 .none true false true false)
/-- `festat` of R150. -/
def execFestat (d a : Reg) (i : BitVec 13) (s : State) : Out := .next (s.feAccess a i .festat 0 (.raw d) false true false false)

/-! ### Atomics (R152, R153) -/

/-- An integer atomic of R152. -/
def State.atomic (s : State) (d a b : Reg) (f : AtomicFn) (cmp : Word) : State :=
  s.access (effAddr (s.reg a) 0)
    { viewOk := true, szLog := 3, alignLog := 3, needW := true, kind := 1, units := [(0, 8)], op := .atomic f cmp,
      data := (s.reg b).toNat, dest := .raw d, isLoad := true, isStore := true, counter := .l, parks := false, migrates := true }

/-- `aadd` of R152. -/
def execAadd (d a b : Reg) (s : State) : Out := .next (s.atomic d a b .add 0)
/-- `aand` of R152. -/
def execAand (d a b : Reg) (s : State) : Out := .next (s.atomic d a b .and 0)
/-- `aor` of R152. -/
def execAor (d a b : Reg) (s : State) : Out := .next (s.atomic d a b .or 0)
/-- `axor` of R152. -/
def execAxor (d a b : Reg) (s : State) : Out := .next (s.atomic d a b .xor 0)
/-- `amin` of R152. -/
def execAmin (d a b : Reg) (s : State) : Out := .next (s.atomic d a b .min 0)
/-- `amax` of R152. -/
def execAmax (d a b : Reg) (s : State) : Out := .next (s.atomic d a b .max 0)
/-- `aminu` of R152. -/
def execAminu (d a b : Reg) (s : State) : Out := .next (s.atomic d a b .minu 0)
/-- `amaxu` of R152. -/
def execAmaxu (d a b : Reg) (s : State) : Out := .next (s.atomic d a b .maxu 0)
/-- `aswap` of R152. -/
def execAswap (d a b : Reg) (s : State) : Out := .next (s.atomic d a b .swap 0)
/-- `acas` of R152: `sD` is the compare value, read at issue. -/
def execAcas (d a b : Reg) (s : State) : Out := .next (s.atomic d a b .cas (s.reg d))

/-- `aaddf` of R153: FP64 under views 0 and 5, FP32 under view 3. -/
def execAaddf (d a b : Reg) (s : State) : Out :=
  let ea := effAddr (s.reg a) 0
  let v := viewOf ea
  let wide := v != 3
  .next (s.access ea
    { viewOk := v == 0 || v == 3 || v == 5, szLog := if wide then 3 else 2, alignLog := if wide then 3 else 2, needW := true,
      kind := 1, units := [(0, if wide then 8 else 4)], op := .atomic (if wide then .addf64 else .addf32) 0,
      data := if wide then (s.reg b).toNat else (s.reg b).toNat % 2 ^ 32, dest := .raw d, isLoad := true, isStore := true,
      counter := .l, parks := false, migrates := true })

end Sys2Proof.Machine
end

