-- ==== Sys2Proof/Machine/Copies.lean ====
section
/-! DEFINITION. The copies as issued (R163): their limits, the engine's slots, the promise. The engine moves the rows and
elements in Sys2Proof/Machine/Engines.lean. -/

namespace Sys2Proof.Machine

/-- The operands `s8`–`s13`, read at issue. -/
def State.copyOps (s : State) : List Word := [s.reg 8, s.reg 9, s.reg 10, s.reg 11, s.reg 12, s.reg 13]

/-- The first operand above its limit (R163, R332): kind 0 is `cpy`. -/
def copyOverLimit (kind : Nat) (ops : List Word) : Option Word :=
  let a := ops.getD 2 0
  let b := ops.getD 3 0
  if kind = 0 then
    if 2 ^ 20 < a.toNat then some a else if 2 ^ 16 < b.toNat then some b else none
  else if 4096 < a.toNat then some a else if 2 ^ 20 < b.toNat then some b else none

/-- Does the copy move nothing (R163)? -/
def copyEmpty (ops : List Word) : Bool := ops.getD 2 0 == 0 || ops.getD 3 0 == 0

/-- The lower of two effective addresses by location, as R329 chooses within one class. -/
def lowerEa (a b : Word) : Word := if locOf b < locOf a then b else a

/-- The address of a copy with a view of 6 to 15 (R146), the lowest where there are several (R329). -/
def copyBadView (kind : Nat) (ops : List Word) : Option Word :=
  match ([ops.getD 0 0, ops.getD 1 0] ++ if kind = 0 then [] else [ops.getD 4 0]).filter fun a => decide (6 ≤ viewOf a) with
  | [] => none
  | a :: r => some (r.foldl lowerEa a)

/-- Slots in use in a cluster's engine (R163). -/
def State.copySlots (s : State) (cl : Nat) : Nat := (s.copies.filter fun c => c.cluster == cl).length

/-- A copy accepted by the engine of a core's cluster. -/
def State.acceptCopy (s : State) (kind : Nat) (t : Tid) (core : Nat) (ops : List Word) (p : Word) (fpc : Word) : State :=
  let c : Copy := { id := s.fresh, kind := kind, tid := t, grid := t.grid, core := core, cluster := clusterOf core, ops := ops, next := 0, writes := [], promise := p,
                    missed := false, paused := none, untilTret := false, counted := true, fpc := fpc, upto := s.fresh, entry := none }
  { s with copies := s.copies ++ [c], fresh := s.fresh + 1 }

/-- The cycle after which a promise lies: the one that the thread observes; in replay mode the last of its innings, since the copy is over
before the team's next chunk, not sooner (R339). -/
def State.promiseFloor (s : State) : Word :=
  let g := s.myGrid
  if g.replayOn then g.start + BitVec.ofNat 64 (512 * g.replay.innings + 511) else s.obs

/-- The promise of R163: any cycle after that one, chosen by the engine (log entry 5). -/
def State.promise (s : State) : Word × State :=
  let r := s.draw
  (s.promiseFloor + 1 + BitVec.ofNat 64 (r.1 % (2 ^ 64 - 1 - s.promiseFloor.toNat)), r.2)

/-- A copy of the issuing thread (R163). In a replay-mode chunk it is accepted, and takes a slot, at the chunk's commit (R327). -/
def State.copy (s : State) (kind : Nat) (d : Reg) : State :=
  let ops := s.copyOps
  match copyBadView kind ops with
  | some a => s.raiseFault 0x13 (viewOf a + 16 * 15) (effAddr a 0)
  | none =>
    match copyOverLimit kind ops with
    | some v => s.raiseFault 0x16 9 v
    | none =>
      if copyEmpty ops then (s.setReg d (s.obs + 1)).advance
      else if !s.myGrid.replayOn && decide (32 ≤ s.copySlots (clusterOf s.cur.core)) then s.hold
      else
        let r := s.promise
        let p := r.1
        let s := r.2
        let id := s.fresh
        let s := if s.myGrid.replayOn then
            { s.deferred (.copy s.cur.id kind s.cur.pc ops id p) with fresh := s.fresh + 1 }
          else s.acceptCopy kind s.cur.id s.cur.core ops p s.cur.pc
        let s := { s with cur := { s.cur with cntC := s.cur.cntC + 1, promises := s.cur.promises ++ [(id, p)] } }
        (s.setReg d p).advance

/-- `cpy` of R163, R164. -/
def execCpy (d : Reg) (s : State) : Out := .next (s.copy 0 d)
/-- `cpyg` of R163, R164. -/
def execCpyg (d : Reg) (s : State) : Out := .next (s.copy 1 d)
/-- `cpys` of R163, R164. -/
def execCpys (d : Reg) (s : State) : Out := .next (s.copy 2 d)

end Sys2Proof.Machine
end

