-- ==== Sys2Proof/Decode.lean ====
section
/-! DEFINITION. Reading and writing bundles (R105–R117): the decoder, total on any 64 bits, which names why a bundle is
illegal by the subcode of R331; the encoder, written from the same tables. -/

namespace Sys2Proof

/-- What a bundle holds (R105, R107): nothing legal, with the subcode of R331; two slot instructions; one long instruction. -/
inductive Decoded where
  | illegal (sub : Nat)
  | pair (c a : Instr)
  | long (i : Instr)
  deriving DecidableEq, Repr

/-- The lowest subcode of R331 whose condition holds, else the instruction. The list stands in increasing subcode. -/
def firstBad : List (Nat × Bool) → Instr → Except Nat Instr
  | [], i => .ok i
  | (n, bad) :: rest, i => if bad then .error n else firstBad rest i

/-- The codes of `fcvt` (R114): 0–2 floating types, 3–6 integer types; equal types and two integer types are illegal. -/
def fcvtIllegal (t st : BitVec 4) : Bool :=
  7 ≤ t.toNat || 7 ≤ st.toNat || t == st || (3 ≤ t.toNat && 3 ≤ st.toNat)

/-- R110, R111, R112: the control/memory slot, word0 with bit 31 clear. -/
def decodeCtrl (w : BitVec 32) : Except Nat Instr :=
  let d : Reg := w.extractLsb' 21 4
  let a : Reg := w.extractLsb' 17 4
  let b : Reg := w.extractLsb' 13 4
  let i : BitVec 13 := w.extractLsb' 0 13
  let dnz := d != 0
  let anz := a != 0
  let bnz := b != 0
  let inz := i != 0
  match (w.extractLsb' 25 6).toNat with
  | 0x00 => firstBad [(5, dnz || anz || bnz || inz)] (.nop)
  | 0x01 => firstBad [(5, bnz)] (.addiCm d a i)
  | 0x02 => firstBad [(5, bnz)] (.ldB d a i)
  | 0x03 => firstBad [(5, bnz)] (.ldBU d a i)
  | 0x04 => firstBad [(5, bnz)] (.ldH d a i)
  | 0x05 => firstBad [(5, bnz)] (.ldHU d a i)
  | 0x06 => firstBad [(5, bnz)] (.ldW d a i)
  | 0x07 => firstBad [(5, bnz)] (.ldWU d a i)
  | 0x08 => firstBad [(5, bnz)] (.ldD d a i)
  | 0x09 => firstBad [(5, dnz || bnz)] (.ldQ a i)
  | 0x0A => firstBad [(5, dnz)] (.stB a i b)
  | 0x0B => firstBad [(5, dnz)] (.stH a i b)
  | 0x0C => firstBad [(5, dnz)] (.stW a i b)
  | 0x0D => firstBad [(5, dnz)] (.stD a i b)
  | 0x0E => firstBad [(5, dnz || bnz)] (.stQ a i)
  | 0x10 => firstBad [(5, bnz)] (.ldf d a i)
  | 0x11 => firstBad [(5, bnz)] (.lde d a i)
  | 0x12 => firstBad [(5, dnz)] (.stf a i b)
  | 0x13 => firstBad [(5, dnz)] (.stw a i b)
  | 0x14 => firstBad [(4, 2 ≤ d.toNat), (5, bnz)] (.feset (d.extractLsb' 0 1) a i)
  | 0x15 => firstBad [(5, bnz)] (.festat d a i)
  | 0x16 =>
    let z : List (Nat × Bool) := [(5, i.extractLsb' 4 9 != 0)]
    match (i.extractLsb' 0 4).toNat with
    | 0 => firstBad z (.aadd d a b)
    | 1 => firstBad z (.aaddf d a b)
    | 2 => firstBad z (.aand d a b)
    | 3 => firstBad z (.aor d a b)
    | 4 => firstBad z (.axor d a b)
    | 5 => firstBad z (.amin d a b)
    | 6 => firstBad z (.amax d a b)
    | 7 => firstBad z (.aminu d a b)
    | 8 => firstBad z (.amaxu d a b)
    | 9 => firstBad z (.aswap d a b)
    | 10 => firstBad z (.acas d a b)
    | _ => .error 4
  | 0x18 =>
    let z : List (Nat × Bool) := [(4, 6 ≤ (i.extractLsb' 0 3).toNat), (5, dnz || anz || bnz || i.extractLsb' 5 8 != 0)]
    match (i.extractLsb' 3 2).toNat with
    | 0 => firstBad z (.fenceAcq (i.extractLsb' 0 3))
    | 1 => firstBad z (.fenceRel (i.extractLsb' 0 3))
    | 2 => firstBad z (.fenceFull (i.extractLsb' 0 3))
    | _ => .error 4
  | 0x19 => firstBad [(5, dnz || anz || bnz || i.extractLsb' 1 12 != 0)] (if i.extractLsb' 0 1 = 1#1 then .pfenceKeep else .pfenceTile)
  | 0x1A => firstBad [(5, w.extractLsb' 0 1 != 0)]
      (.waitc (w.extractLsb' 19 6) (w.extractLsb' 13 6) (w.extractLsb' 7 6) (w.extractLsb' 1 6))
  | 0x1B => firstBad [(5, dnz || i.extractLsb' 2 11 != 0)] (.hint (i.extractLsb' 0 2) a b)
  | 0x1C => firstBad [(5, bnz || inz), (6, !isStreamReg d)] (.sbind d a)
  | 0x1D => firstBad [(5, anz || bnz || inz), (6, !isStreamReg d)] (.sfree d)
  | 0x1E => firstBad [(5, bnz || inz), (6, !isStreamReg a)] (.sstat d a)
  | 0x20 => firstBad [] (.bEq a b (d ++ i))
  | 0x21 => firstBad [] (.bNe a b (d ++ i))
  | 0x22 => firstBad [] (.bLt a b (d ++ i))
  | 0x23 => firstBad [] (.bGe a b (d ++ i))
  | 0x24 => firstBad [] (.bLtu a b (d ++ i))
  | 0x25 => firstBad [] (.bGeu a b (d ++ i))
  | 0x26 => firstBad [] (.jal d (w.extractLsb' 0 21))
  | 0x27 => firstBad [(5, bnz)] (.jr d a i)
  | 0x28 => firstBad [(5, anz || bnz || inz)] (.cpy d)
  | 0x29 => firstBad [(5, anz || bnz || inz)] (.cpyg d)
  | 0x2A => firstBad [(5, anz || bnz || inz)] (.cpys d)
  | 0x2B => firstBad [(5, dnz || bnz || inz)] (.publ a)
  | 0x2C => firstBad [(5, dnz || bnz || inz)] (.sleep a)
  | 0x30 => firstBad [(5, dnz)] (.fork (w.extractLsb' 0 21))
  | 0x31 => firstBad [(5, dnz || bnz || inz)] (.join a)
  | 0x32 => firstBad [(5, dnz || anz || bnz || inz)] (.next)
  | 0x33 => firstBad [(5, dnz || anz || bnz || inz)] (.yield)
  | 0x34 => firstBad [(5, dnz || anz || bnz || inz)] (.exit)
  | 0x35 => firstBad [(5, dnz || bnz || inz)] (.launch a)
  | 0x36 => firstBad [(5, dnz || bnz || inz)] (.migr a)
  | 0x37 => firstBad [(5, dnz || anz || bnz || inz)] (.prog)
  | 0x38 => firstBad [(5, anz || bnz || i.extractLsb' 12 1 != 0), (7, !isSysReg (i.extractLsb' 0 12))] (.rdsr d (i.extractLsb' 0 12))
  | 0x39 => firstBad [(5, dnz || bnz || i.extractLsb' 12 1 != 0), (7, !isSysReg (i.extractLsb' 0 12))] (.wrsr (i.extractLsb' 0 12) a)
  | 0x3A => firstBad [(5, dnz || anz || bnz)] (.trap i)
  | 0x3B => firstBad [(5, dnz || anz || bnz || inz)] (.tret)
  | 0x3C => firstBad [(5, dnz || anz || bnz)] (.brk i)
  | 0x3D => firstBad [(5, dnz || anz || bnz || inz)] (.halt)
  | _ => .error 1

/-- The precision bit P of R114. -/
def precOf (b : BitVec 1) : Prec := if b = 1#1 then .d else .s

/-- The condition codes of `fcmp` (R114). -/
def fcondOf (n : Nat) : FCond :=
  match n with
  | 0 => .eq
  | 1 => .lt
  | 2 => .le
  | _ => .un

/-- R113, R114: the arithmetic slot, word1. -/
def decodeArith (w : BitVec 32) : Except Nat Instr :=
  let d : Reg := w.extractLsb' 22 4
  let a : Reg := w.extractLsb' 18 4
  let b : Reg := w.extractLsb' 14 4
  let i : BitVec 14 := w.extractLsb' 0 14
  let bnz := b != 0
  let inz := i != 0
  let pr := precOf (i.extractLsb' 0 1)
  let i1 := i.extractLsb' 1 13 != 0
  match (w.extractLsb' 26 6).toNat with
  | 0x00 => firstBad [(5, d != 0 || a != 0 || bnz || inz)] (.nopArithmetic)
  | 0x01 => firstBad [(5, bnz)] (.addi d a i)
  | 0x02 => firstBad [(5, inz)] (.add d a b)
  | 0x03 => firstBad [(5, inz)] (.sub d a b)
  | 0x04 => firstBad [(5, inz)] (.mul d a b)
  | 0x05 => firstBad [(5, inz)] (.mulh d a b)
  | 0x06 => firstBad [(5, inz)] (.mulhu d a b)
  | 0x07 => firstBad [(5, inz)] (.div d a b)
  | 0x08 => firstBad [(5, inz)] (.divu d a b)
  | 0x09 => firstBad [(5, inz)] (.rem d a b)
  | 0x0A => firstBad [(5, inz)] (.remu d a b)
  | 0x0B => firstBad [(5, inz)] (.and d a b)
  | 0x0C => firstBad [(5, inz)] (.or d a b)
  | 0x0D => firstBad [(5, inz)] (.xor d a b)
  | 0x0E => firstBad [(5, bnz)] (.andi d a i)
  | 0x0F => firstBad [(5, bnz)] (.ori d a i)
  | 0x10 => firstBad [(5, bnz)] (.xori d a i)
  | 0x11 => firstBad [(5, inz)] (.shl d a b)
  | 0x12 => firstBad [(5, inz)] (.shr d a b)
  | 0x13 => firstBad [(5, inz)] (.sra d a b)
  | 0x14 => firstBad [(5, bnz || i.extractLsb' 6 8 != 0)] (.shli d a (i.extractLsb' 0 6))
  | 0x15 => firstBad [(5, bnz || i.extractLsb' 6 8 != 0)] (.shri d a (i.extractLsb' 0 6))
  | 0x16 => firstBad [(5, bnz || i.extractLsb' 6 8 != 0)] (.srai d a (i.extractLsb' 0 6))
  | 0x17 => firstBad [(5, inz)] (.slt d a b)
  | 0x18 => firstBad [(5, inz)] (.sltu d a b)
  | 0x19 => firstBad [(5, bnz)] (.slti d a i)
  | 0x1A => firstBad [(5, inz)] (.seq d a b)
  | 0x1B => firstBad [(5, inz)] (.min d a b)
  | 0x1C => firstBad [(5, inz)] (.max d a b)
  | 0x1D => firstBad [(5, inz)] (.minu d a b)
  | 0x1E => firstBad [(5, inz)] (.maxu d a b)
  | 0x1F => firstBad [(5, bnz || inz)] (.clz d a)
  | 0x20 => firstBad [(5, bnz || inz)] (.ctz d a)
  | 0x21 => firstBad [(5, bnz || inz)] (.popc d a)
  | 0x22 => firstBad [(5, bnz)] (.bext d a (i.extractLsb' 7 7) (i.extractLsb' 0 7))
  | 0x23 => firstBad [(5, bnz)] (.bextu d a (i.extractLsb' 7 7) (i.extractLsb' 0 7))
  | 0x24 => firstBad [(5, bnz)] (.bins d a (i.extractLsb' 7 7) (i.extractLsb' 0 7))
  | 0x25 => firstBad [(5, bnz || inz)] (.bswap d a)
  | 0x28 => firstBad [(5, i1)] (.fadd pr d a b)
  | 0x29 => firstBad [(5, i1)] (.fsub pr d a b)
  | 0x2A => firstBad [(5, i1)] (.fmul pr d a b)
  | 0x2B => firstBad [(5, i1)] (.fdiv pr d a b)
  | 0x2C => firstBad [(5, bnz || i1)] (.fsqrt pr d a)
  | 0x2D => firstBad [(5, i1)] (.fmin pr d a b)
  | 0x2E => firstBad [(5, i1)] (.fmax pr d a b)
  | 0x2F => firstBad [(4, 4 ≤ (i.extractLsb' 1 3).toNat), (5, i.extractLsb' 4 10 != 0)] (.fcmp pr (fcondOf (i.extractLsb' 1 3).toNat) d a b)
  | 0x30 => firstBad [(4, fcvtIllegal (i.extractLsb' 0 4) (i.extractLsb' 4 4)), (5, bnz || i.extractLsb' 8 6 != 0)] (.fcvt (i.extractLsb' 0 4) (i.extractLsb' 4 4) d a)
  | 0x31 => firstBad [(5, bnz || i1)] (.fclass pr d a)
  | 0x32 => firstBad [(4, i.extractLsb' 1 2 == 3#2), (5, i.extractLsb' 3 11 != 0)] (.fsgn (i.extractLsb' 1 2) pr d a b)
  | _ => .error 2

/-- A row operand field (R116). -/
def rowOf (x : BitVec 12) : RowOp :=
  ⟨x.extractLsb' 8 4, x.extractLsb' 7 1 == 1#1, x.extractLsb' 6 1 == 1#1, x.extractLsb' 0 6⟩

/-- With RS = 1, X[5:4] of a row operand must be 0 (R116). -/
def rowBad (x : BitVec 12) : Bool := x.extractLsb' 7 1 == 1#1 && x.extractLsb' 4 2 != 0

/-- A scalar register in an X field has X[11:4] = 0 (R116). -/
def sBad (x : BitVec 12) : Bool := x.extractLsb' 4 8 != 0

/-- A function register in an X field has X[11:3] = 0 (R108, R116). -/
def fBad (x : BitVec 12) : Bool := x.extractLsb' 3 9 != 0

/-- A tile operand has X[7:0] = 0 (R116). -/
def tBad (x : BitVec 12) : Bool := x.extractLsb' 0 8 != 0

/-- R116, R117: a long instruction. -/
def decodeLong (bd : BitVec 64) : Except Nat Instr :=
  let xd : BitVec 12 := bd.extractLsb' 11 12
  let fn : BitVec 11 := bd.extractLsb' 0 11
  let xa : BitVec 12 := bd.extractLsb' 52 12
  let xb : BitVec 12 := bd.extractLsb' 40 12
  let sx : Reg := bd.extractLsb' 36 4
  let sxnz := sx != 0
  let synz := bd.extractLsb' 32 4 != 0
  let xdnz := xd != 0
  let xanz := xa != 0
  let xbnz := xb != 0
  let fnnz := fn != 0
  let sD : Reg := xd.extractLsb' 0 4
  let sA : Reg := xa.extractLsb' 0 4
  let sB : Reg := xb.extractLsb' 0 4
  let fD : FRegN := xd.extractLsb' 0 3
  let fA : FRegN := xa.extractLsb' 0 3
  let fB : FRegN := xb.extractLsb' 0 3
  match (bd.extractLsb' 23 8).toNat with
  | 0x01 => .ok (.li (bd.extractLsb' 19 4) (bd.extractLsb' 0 19 ++ bd.extractLsb' 32 32))
  | 0x02 => firstBad [(5, bd.extractLsb' 0 19 != 0)] (.lih (bd.extractLsb' 19 4) (bd.extractLsb' 32 32))
  | 0x03 => firstBad [(5, sBad xd || sBad xa || sBad xb || synz || fnnz)] (.sel sD sA sB sx)
  | 0x04 => firstBad [(5, sBad xd || sBad xa || sBad xb || synz || fn.extractLsb' 1 10 != 0)] (.ffma (precOf (fn.extractLsb' 0 1)) sD sA sB sx)
  | 0x10 => firstBad [(5, tBad xd || xanz || xbnz || sxnz || synz || fn.extractLsb' 2 9 != 0)] (.tcfg (xd.extractLsb' 8 4) (fn.extractLsb' 0 2))
  | 0x11 => firstBad [(5, tBad xd || xanz || xbnz || sxnz || synz || fnnz)] (.tzero (xd.extractLsb' 8 4))
  | 0x12 => firstBad [(5, rowBad xd || sBad xa || xbnz || sxnz || synz)] (.vld (rowOf xd) sA fn)
  | 0x13 => firstBad [(5, xdnz || sBad xa || rowBad xb || sxnz || synz)] (.vst sA fn (rowOf xb))
  | 0x14 => firstBad [(5, rowBad xd || sBad xa || xbnz || sxnz || synz || fnnz)] (.vbc (rowOf xd) sA)
  | 0x15 => firstBad [(5, rowBad xd || rowBad xa || rowBad xb || sxnz || synz || fnnz)] (.vadd (rowOf xd) (rowOf xa) (rowOf xb))
  | 0x16 => firstBad [(5, rowBad xd || rowBad xa || rowBad xb || sxnz || synz || fnnz)] (.vsub (rowOf xd) (rowOf xa) (rowOf xb))
  | 0x17 => firstBad [(5, rowBad xd || rowBad xa || rowBad xb || sxnz || synz || fnnz)] (.vmul (rowOf xd) (rowOf xa) (rowOf xb))
  | 0x18 => firstBad [(5, rowBad xd || rowBad xa || rowBad xb || sxnz || synz || fnnz)] (.vfma (rowOf xd) (rowOf xa) (rowOf xb))
  | 0x19 => firstBad [(5, rowBad xd || rowBad xa || rowBad xb || sxnz || synz || fnnz)] (.vmin (rowOf xd) (rowOf xa) (rowOf xb))
  | 0x1A => firstBad [(5, rowBad xd || rowBad xa || rowBad xb || sxnz || synz || fnnz)] (.vmax (rowOf xd) (rowOf xa) (rowOf xb))
  | 0x1B => firstBad [(5, rowBad xd || rowBad xa || xbnz || sxnz || synz || fnnz)] (.vabs (rowOf xd) (rowOf xa))
  | 0x1C => firstBad [(5, rowBad xd || rowBad xa || xbnz || sxnz || synz || fnnz)] (.vneg (rowOf xd) (rowOf xa))
  | 0x1D => firstBad [(5, rowBad xd || rowBad xa || xbnz || sxnz || synz || fnnz)] (.vcvt (rowOf xd) (rowOf xa))
  | 0x1E => firstBad [(4, 6 ≤ (fn.extractLsb' 0 3).toNat), (5, rowBad xd || rowBad xa || rowBad xb || sxnz || synz || fn.extractLsb' 3 8 != 0)] (.vcmp (fn.extractLsb' 0 3) (rowOf xd) (rowOf xa) (rowOf xb))
  | 0x1F => firstBad [(5, rowBad xd || rowBad xa || rowBad xb || sxnz || synz || fnnz)] (.vsel (rowOf xd) (rowOf xa) (rowOf xb))
  | 0x20 => firstBad [(5, rowBad xd || rowBad xa || rowBad xb || sxnz || synz || fnnz)] (.vperm (rowOf xd) (rowOf xa) (rowOf xb))
  | 0x21 => firstBad [(4, (fn.extractLsb' 0 2) == 3#2), (5, xdnz || rowBad xa || xbnz || sxnz || synz || fn.extractLsb' 2 9 != 0)] (.vred (fn.extractLsb' 0 2) (rowOf xa))
  | 0x22 => firstBad [(5, rowBad xd || rowBad xa || sBad xb || sxnz || synz || fnnz)] (.vscale (rowOf xd) (rowOf xa) sB)
  | 0x23 => firstBad [(4, xb == 0), (5, xdnz || xanz || sxnz || synz || fn.extractLsb' 4 7 != 0)] (.vloop (fn.extractLsb' 0 4) xb)
  | 0x24 => firstBad [(5, sBad xd || xanz || xbnz || sxnz || synz || fnnz)] (.vpop sD)
  | 0x25 => firstBad [(5, rowBad xd || rowBad xa || rowBad xb || synz || fn.extractLsb' 8 3 != 0)] (.topk (fn.extractLsb' 7 1 == 1#1) sx (rowOf xd) (rowOf xb) (rowOf xa) (fn.extractLsb' 0 7))
  | 0x26 => firstBad [(5, rowBad xd || rowBad xa || rowBad xb || synz || fn.extractLsb' 8 3 != 0)] (.topkm (fn.extractLsb' 7 1 == 1#1) sx (rowOf xd) (rowOf xb) (rowOf xa) (fn.extractLsb' 0 7))
  | 0x27 => firstBad [(5, rowBad xd || rowBad xa || rowBad xb || sxnz || synz || fn.extractLsb' 1 10 != 0)] (.vsort (fn.extractLsb' 0 1 == 1#1) (rowOf xd) (rowOf xb) (rowOf xa))
  | 0x30 => firstBad [(5, xdnz || sBad xa || sBad xb || sxnz || synz)] (.mdepAdd sA fn sB)
  | 0x31 => firstBad [(5, xdnz || sBad xa || sBad xb || sxnz || synz)] (.mdepMax sA fn sB)
  | 0x32 => firstBad [(4, 5 ≤ (fn.extractLsb' 0 3).toNat), (5, sBad xd || sBad xa || sBad xb || sxnz || synz || fn.extractLsb' 3 8 != 0)] (.msense sD sA sB (fn.extractLsb' 0 3))
  | 0x33 => firstBad [(5, sBad xd || sBad xa || xbnz || sxnz || synz)] (.mrd sD sA fn)
  | 0x34 => firstBad [(5, xdnz || sBad xa || xbnz || sxnz || synz)] (.mclr sA fn)
  | 0x35 => firstBad [(5, sBad xd || xanz || xbnz || sxnz || synz || fn.extractLsb' 3 8 != 0)] (.mtick sD (fn.extractLsb' 0 3))
  | 0x40 => firstBad [(5, fBad xd || sBad xa || xbnz || sxnz || synz)] (.fldF fD sA fn)
  | 0x41 => firstBad [(5, xdnz || sBad xa || fBad xb || sxnz || synz)] (.fstF sA fn fB)
  | 0x42 => firstBad [(5, fBad xd || sBad xa || xbnz || sxnz || synz || fn.extractLsb' 7 4 != 0)] (.fset fD sA (fn.extractLsb' 0 7))
  | 0x43 => firstBad [(5, fBad xd || sBad xa || sBad xb || sxnz || synz || fnnz)] (.fdom fD sA sB)
  | 0x44 => firstBad [(5, fBad xd || fBad xa || fBad xb || sxnz || synz || fnnz)] (.faddF fD fA fB)
  | 0x45 => firstBad [(5, fBad xd || fBad xa || fBad xb || sxnz || synz || fnnz)] (.fsubF fD fA fB)
  | 0x46 => firstBad [(5, fBad xd || fBad xa || fBad xb || sxnz || synz || fnnz)] (.fmulF fD fA fB)
  | 0x47 => firstBad [(5, fBad xd || fBad xa || sBad xb || sxnz || synz || fnnz)] (.fscl fD fA sB)
  | 0x48 => firstBad [(5, fBad xd || fBad xa || fBad xb || sxnz || synz || fnnz)] (.fcomp fD fA fB)
  | 0x49 => firstBad [(5, fBad xd || fBad xa || xbnz || sxnz || synz || fnnz)] (.fint fD fA)
  | 0x4A => firstBad [(5, fBad xd || fBad xa || xbnz || sxnz || synz || fnnz)] (.fder fD fA)
  | 0x4B => firstBad [(5, sBad xd || fBad xa || sBad xb || sxnz || synz || fnnz)] (.feval sD fA sB)
  | 0x4C => firstBad [(5, rowBad xd || fBad xa || rowBad xb || sxnz || synz || fnnz)] (.fevalV (rowOf xd) fA (rowOf xb))
  | 0x4D => firstBad [(4, countBad (fn.extractLsb' 0 8)), (5, fBad xd || xanz || rowBad xb || sxnz || synz || fn.extractLsb' 8 3 != 0)] (.fsamp fD (rowOf xb) (fn.extractLsb' 0 8))
  | 0x4E => firstBad [(5, sBad xd || fBad xa || sBad xb || synz || fnnz)] (.froot sD fA sB sx)
  | 0x4F => firstBad [(5, sBad xd || fBad xa || xbnz || sxnz || synz || fnnz)] (.flen sD fA)
  | 0x50 => firstBad [(4, countBad (fn.extractLsb' 0 8)), (5, fBad xd || fBad xa || xbnz || sxnz || synz || fn.extractLsb' 8 3 != 0)] (.ftrunc fD fA (fn.extractLsb' 0 8))
  | _ => .error 3

/-- R105, R107: a bundle. Where both slots are illegal the lower subcode is reported (R331). -/
def decodeBundle (bd : BitVec 64) : Decoded :=
  if bd.extractLsb' 31 1 = 1#1 then
    match decodeLong bd with
    | .ok i => .long i
    | .error n => .illegal n
  else
    match decodeCtrl (bd.extractLsb' 0 32), decodeArith (bd.extractLsb' 32 32) with
    | .ok c, .ok a => .pair c a
    | .error n, .ok _ => .illegal n
    | .ok _, .error n => .illegal n
    | .error m, .error n => .illegal (min m n)

/-- The one instruction a bundle stands for: a long instruction, or a slot instruction paired with `nop` (R115). -/
def Decoded.single : Decoded → Option Instr
  | .illegal _ => none
  | .long i => some i
  | .pair c .nopArithmetic => some c
  | .pair .nop a => some a
  | .pair _ _ => none

/-- The bytes of a bundle, lowest address first (R3, R105). -/
def bundleOfBytes : List Byte → BitVec 64
  | [] => 0
  | x :: xs => (bundleOfBytes xs <<< 8) ||| x.setWidth 64

/-- P of R114. -/
def Prec.bit : Prec → BitVec 1
  | .s => 0#1
  | .d => 1#1

/-- The code of a condition (R114). -/
def FCond.code : FCond → BitVec 3
  | .eq => 0#3
  | .lt => 1#3
  | .le => 2#3
  | .un => 3#3

/-- One bit for a flag. -/
def bit1 (b : Bool) : BitVec 1 := if b then 1#1 else 0#1

/-- A row operand's field (R116). -/
def RowOp.enc (r : RowOp) : BitVec 12 := r.tile ++ bit1 r.rs ++ bit1 r.step ++ r.idx

/-- The layout of R110: L = 0, opcode, d, a, b, imm13. -/
def ctrlWord (op : BitVec 6) (d a b : BitVec 4) (i : BitVec 13) : BitVec 32 :=
  (0#1 ++ op ++ d ++ a ++ b ++ i : BitVec (1 + 6 + 4 + 4 + 4 + 13))

/-- The layout of R113: opcode, d, a, b, imm14. -/
def arithWord (op : BitVec 6) (d a b : BitVec 4) (i : BitVec 14) : BitVec 32 :=
  (op ++ d ++ a ++ b ++ i : BitVec (6 + 4 + 4 + 4 + 14))

/-- The layout LX of R116, with SY = 0. -/
def longWord (op : BitVec 8) (xd : BitVec 12) (fn : BitVec 11) (xa xb : BitVec 12) (sx : BitVec 4) : BitVec 64 :=
  (xa ++ xb ++ sx ++ 0#4 ++ 1#1 ++ op ++ xd ++ fn : BitVec (12 + 12 + 4 + 4 + 1 + 8 + 12 + 11))

/-- A scalar register in an X field. -/
def xs (r : Reg) : BitVec 12 := (0#8 ++ r : BitVec (8 + 4))

/-- A function register in an X field. -/
def xf (r : FRegN) : BitVec 12 := (0#9 ++ r : BitVec (9 + 3))

/-- A tile in an X field. -/
def xt (t : BitVec 4) : BitVec 12 := (t ++ 0#8 : BitVec (4 + 8))

/-- Word0 of a control/memory-slot instruction (R111, R112). -/
def encodeCtrl : Instr → Option (BitVec 32)
  | .nop => some (ctrlWord 0x00 0 0 0 0)
  | .addiCm d a i => some (ctrlWord 0x01 d a 0 i)
  | .ldB d a i => some (ctrlWord 0x02 d a 0 i)
  | .ldBU d a i => some (ctrlWord 0x03 d a 0 i)
  | .ldH d a i => some (ctrlWord 0x04 d a 0 i)
  | .ldHU d a i => some (ctrlWord 0x05 d a 0 i)
  | .ldW d a i => some (ctrlWord 0x06 d a 0 i)
  | .ldWU d a i => some (ctrlWord 0x07 d a 0 i)
  | .ldD d a i => some (ctrlWord 0x08 d a 0 i)
  | .ldQ a i => some (ctrlWord 0x09 0 a 0 i)
  | .stB a i b => some (ctrlWord 0x0A 0 a b i)
  | .stH a i b => some (ctrlWord 0x0B 0 a b i)
  | .stW a i b => some (ctrlWord 0x0C 0 a b i)
  | .stD a i b => some (ctrlWord 0x0D 0 a b i)
  | .stQ a i => some (ctrlWord 0x0E 0 a 0 i)
  | .ldf d a i => some (ctrlWord 0x10 d a 0 i)
  | .lde d a i => some (ctrlWord 0x11 d a 0 i)
  | .stf a i b => some (ctrlWord 0x12 0 a b i)
  | .stw a i b => some (ctrlWord 0x13 0 a b i)
  | .feset v a i => some (ctrlWord 0x14 (v.setWidth 4) a 0 i)
  | .festat d a i => some (ctrlWord 0x15 d a 0 i)
  | .aadd d a b => some (ctrlWord 0x16 d a b 0)
  | .aaddf d a b => some (ctrlWord 0x16 d a b 1)
  | .aand d a b => some (ctrlWord 0x16 d a b 2)
  | .aor d a b => some (ctrlWord 0x16 d a b 3)
  | .axor d a b => some (ctrlWord 0x16 d a b 4)
  | .amin d a b => some (ctrlWord 0x16 d a b 5)
  | .amax d a b => some (ctrlWord 0x16 d a b 6)
  | .aminu d a b => some (ctrlWord 0x16 d a b 7)
  | .amaxu d a b => some (ctrlWord 0x16 d a b 8)
  | .aswap d a b => some (ctrlWord 0x16 d a b 9)
  | .acas d a b => some (ctrlWord 0x16 d a b 10)
  | .fenceAcq sc => some (ctrlWord 0x18 0 0 0 (0#8 ++ 0#2 ++ sc : BitVec (8 + 2 + 3)))
  | .fenceRel sc => some (ctrlWord 0x18 0 0 0 (0#8 ++ 1#2 ++ sc : BitVec (8 + 2 + 3)))
  | .fenceFull sc => some (ctrlWord 0x18 0 0 0 (0#8 ++ 2#2 ++ sc : BitVec (8 + 2 + 3)))
  | .pfenceTile => some (ctrlWord 0x19 0 0 0 0)
  | .pfenceKeep => some (ctrlWord 0x19 0 0 0 1)
  | .waitc l s c m => some (0#1 ++ 0x1A#6 ++ l ++ s ++ c ++ m ++ 0#1 : BitVec (1 + 6 + 6 + 6 + 6 + 6 + 1))
  | .hint k a b => some (ctrlWord 0x1B 0 a b (0#11 ++ k : BitVec (11 + 2)))
  | .sbind d a => some (ctrlWord 0x1C d a 0 0)
  | .sfree d => some (ctrlWord 0x1D d 0 0 0)
  | .sstat d a => some (ctrlWord 0x1E d a 0 0)
  | .bEq a b o => some (ctrlWord 0x20 (o.extractLsb' 13 4) a b (o.extractLsb' 0 13))
  | .bNe a b o => some (ctrlWord 0x21 (o.extractLsb' 13 4) a b (o.extractLsb' 0 13))
  | .bLt a b o => some (ctrlWord 0x22 (o.extractLsb' 13 4) a b (o.extractLsb' 0 13))
  | .bGe a b o => some (ctrlWord 0x23 (o.extractLsb' 13 4) a b (o.extractLsb' 0 13))
  | .bLtu a b o => some (ctrlWord 0x24 (o.extractLsb' 13 4) a b (o.extractLsb' 0 13))
  | .bGeu a b o => some (ctrlWord 0x25 (o.extractLsb' 13 4) a b (o.extractLsb' 0 13))
  | .jal d o => some (ctrlWord 0x26 d (o.extractLsb' 17 4) (o.extractLsb' 13 4) (o.extractLsb' 0 13))
  | .jr d a i => some (ctrlWord 0x27 d a 0 i)
  | .cpy d => some (ctrlWord 0x28 d 0 0 0)
  | .cpyg d => some (ctrlWord 0x29 d 0 0 0)
  | .cpys d => some (ctrlWord 0x2A d 0 0 0)
  | .publ a => some (ctrlWord 0x2B 0 a 0 0)
  | .sleep a => some (ctrlWord 0x2C 0 a 0 0)
  | .fork o => some (ctrlWord 0x30 0 (o.extractLsb' 17 4) (o.extractLsb' 13 4) (o.extractLsb' 0 13))
  | .join a => some (ctrlWord 0x31 0 a 0 0)
  | .next => some (ctrlWord 0x32 0 0 0 0)
  | .yield => some (ctrlWord 0x33 0 0 0 0)
  | .exit => some (ctrlWord 0x34 0 0 0 0)
  | .launch a => some (ctrlWord 0x35 0 a 0 0)
  | .migr a => some (ctrlWord 0x36 0 a 0 0)
  | .prog => some (ctrlWord 0x37 0 0 0 0)
  | .rdsr d n => some (ctrlWord 0x38 d 0 0 (0#1 ++ n : BitVec (1 + 12)))
  | .wrsr n a => some (ctrlWord 0x39 0 a 0 (0#1 ++ n : BitVec (1 + 12)))
  | .trap i => some (ctrlWord 0x3A 0 0 0 i)
  | .tret => some (ctrlWord 0x3B 0 0 0 0)
  | .brk i => some (ctrlWord 0x3C 0 0 0 i)
  | .halt => some (ctrlWord 0x3D 0 0 0 0)
  | _ => none

/-- Word1 of an arithmetic-slot instruction (R113, R114). -/
def encodeArith : Instr → Option (BitVec 32)
  | .nopArithmetic => some (arithWord 0x00 0 0 0 0)
  | .addi d a i => some (arithWord 0x01 d a 0 i)
  | .add d a b => some (arithWord 0x02 d a b 0)
  | .sub d a b => some (arithWord 0x03 d a b 0)
  | .mul d a b => some (arithWord 0x04 d a b 0)
  | .mulh d a b => some (arithWord 0x05 d a b 0)
  | .mulhu d a b => some (arithWord 0x06 d a b 0)
  | .div d a b => some (arithWord 0x07 d a b 0)
  | .divu d a b => some (arithWord 0x08 d a b 0)
  | .rem d a b => some (arithWord 0x09 d a b 0)
  | .remu d a b => some (arithWord 0x0A d a b 0)
  | .and d a b => some (arithWord 0x0B d a b 0)
  | .or d a b => some (arithWord 0x0C d a b 0)
  | .xor d a b => some (arithWord 0x0D d a b 0)
  | .andi d a i => some (arithWord 0x0E d a 0 i)
  | .ori d a i => some (arithWord 0x0F d a 0 i)
  | .xori d a i => some (arithWord 0x10 d a 0 i)
  | .shl d a b => some (arithWord 0x11 d a b 0)
  | .shr d a b => some (arithWord 0x12 d a b 0)
  | .sra d a b => some (arithWord 0x13 d a b 0)
  | .shli d a h => some (arithWord 0x14 d a 0 (0#8 ++ h : BitVec (8 + 6)))
  | .shri d a h => some (arithWord 0x15 d a 0 (0#8 ++ h : BitVec (8 + 6)))
  | .srai d a h => some (arithWord 0x16 d a 0 (0#8 ++ h : BitVec (8 + 6)))
  | .slt d a b => some (arithWord 0x17 d a b 0)
  | .sltu d a b => some (arithWord 0x18 d a b 0)
  | .slti d a i => some (arithWord 0x19 d a 0 i)
  | .seq d a b => some (arithWord 0x1A d a b 0)
  | .min d a b => some (arithWord 0x1B d a b 0)
  | .max d a b => some (arithWord 0x1C d a b 0)
  | .minu d a b => some (arithWord 0x1D d a b 0)
  | .maxu d a b => some (arithWord 0x1E d a b 0)
  | .clz d a => some (arithWord 0x1F d a 0 0)
  | .ctz d a => some (arithWord 0x20 d a 0 0)
  | .popc d a => some (arithWord 0x21 d a 0 0)
  | .bext d a o w => some (arithWord 0x22 d a 0 (o ++ w : BitVec (7 + 7)))
  | .bextu d a o w => some (arithWord 0x23 d a 0 (o ++ w : BitVec (7 + 7)))
  | .bins d a o w => some (arithWord 0x24 d a 0 (o ++ w : BitVec (7 + 7)))
  | .bswap d a => some (arithWord 0x25 d a 0 0)
  | .fadd p d a b => some (arithWord 0x28 d a b (0#13 ++ p.bit : BitVec (13 + 1)))
  | .fsub p d a b => some (arithWord 0x29 d a b (0#13 ++ p.bit : BitVec (13 + 1)))
  | .fmul p d a b => some (arithWord 0x2A d a b (0#13 ++ p.bit : BitVec (13 + 1)))
  | .fdiv p d a b => some (arithWord 0x2B d a b (0#13 ++ p.bit : BitVec (13 + 1)))
  | .fsqrt p d a => some (arithWord 0x2C d a 0 (0#13 ++ p.bit : BitVec (13 + 1)))
  | .fmin p d a b => some (arithWord 0x2D d a b (0#13 ++ p.bit : BitVec (13 + 1)))
  | .fmax p d a b => some (arithWord 0x2E d a b (0#13 ++ p.bit : BitVec (13 + 1)))
  | .fcmp p cc d a b => some (arithWord 0x2F d a b (0#10 ++ cc.code ++ p.bit : BitVec (10 + 3 + 1)))
  | .fcvt t st d a => some (arithWord 0x30 d a 0 (0#6 ++ st ++ t : BitVec (6 + 4 + 4)))
  | .fclass p d a => some (arithWord 0x31 d a 0 (0#13 ++ p.bit : BitVec (13 + 1)))
  | .fsgn k p d a b => some (arithWord 0x32 d a b (0#11 ++ k ++ p.bit : BitVec (11 + 2 + 1)))
  | _ => none

/-- A long instruction's bundle (R116, R117). -/
def encodeLong : Instr → Option (BitVec 64)
  | .li d imm => some (imm.extractLsb' 0 32 ++ 1#1 ++ 0x01#8 ++ d ++ imm.extractLsb' 32 19 : BitVec (32 + 1 + 8 + 4 + 19))
  | .lih d imm => some (imm ++ 1#1 ++ 0x02#8 ++ d ++ 0#19 : BitVec (32 + 1 + 8 + 4 + 19))
  | .sel d a b c => some (longWord 0x03 (xs d) 0 (xs a) (xs b) c)
  | .ffma p d a b c => some (longWord 0x04 (xs d) (0#10 ++ p.bit : BitVec (10 + 1)) (xs a) (xs b) c)
  | .tcfg t ty => some (longWord 0x10 (xt t) (0#9 ++ ty : BitVec (9 + 2)) 0 0 0)
  | .tzero t => some (longWord 0x11 (xt t) 0 0 0 0)
  | .vld rd a off => some (longWord 0x12 rd.enc off (xs a) 0 0)
  | .vst a off rb => some (longWord 0x13 0 off (xs a) rb.enc 0)
  | .vbc rd a => some (longWord 0x14 rd.enc 0 (xs a) 0 0)
  | .vadd rd ra rb => some (longWord 0x15 rd.enc 0 ra.enc rb.enc 0)
  | .vsub rd ra rb => some (longWord 0x16 rd.enc 0 ra.enc rb.enc 0)
  | .vmul rd ra rb => some (longWord 0x17 rd.enc 0 ra.enc rb.enc 0)
  | .vfma rd ra rb => some (longWord 0x18 rd.enc 0 ra.enc rb.enc 0)
  | .vmin rd ra rb => some (longWord 0x19 rd.enc 0 ra.enc rb.enc 0)
  | .vmax rd ra rb => some (longWord 0x1A rd.enc 0 ra.enc rb.enc 0)
  | .vabs rd ra => some (longWord 0x1B rd.enc 0 ra.enc 0 0)
  | .vneg rd ra => some (longWord 0x1C rd.enc 0 ra.enc 0 0)
  | .vcvt rd ra => some (longWord 0x1D rd.enc 0 ra.enc 0 0)
  | .vcmp cc rd ra rb => some (longWord 0x1E rd.enc (0#8 ++ cc : BitVec (8 + 3)) ra.enc rb.enc 0)
  | .vsel rd ra rb => some (longWord 0x1F rd.enc 0 ra.enc rb.enc 0)
  | .vperm rd ra rb => some (longWord 0x20 rd.enc 0 ra.enc rb.enc 0)
  | .vred op ra => some (longWord 0x21 0 (0#9 ++ op : BitVec (9 + 2)) ra.enc 0 0)
  | .vscale rd ra b => some (longWord 0x22 rd.enc 0 ra.enc (xs b) 0)
  | .vloop n1 cnt => some (longWord 0x23 0 (0#7 ++ n1 : BitVec (7 + 4)) 0 cnt 0)
  | .vpop d => some (longWord 0x24 (xs d) 0 0 0 0)
  | .topk mn c rd rb ra k1 => some (longWord 0x25 rd.enc (0#3 ++ bit1 mn ++ k1 : BitVec (3 + 1 + 7)) ra.enc rb.enc c)
  | .topkm mn c rd rb ra k1 => some (longWord 0x26 rd.enc (0#3 ++ bit1 mn ++ k1 : BitVec (3 + 1 + 7)) ra.enc rb.enc c)
  | .vsort ds rd rb ra => some (longWord 0x27 rd.enc (0#10 ++ bit1 ds : BitVec (10 + 1)) ra.enc rb.enc 0)
  | .mdepAdd a off b => some (longWord 0x30 0 off (xs a) (xs b) 0)
  | .mdepMax a off b => some (longWord 0x31 0 off (xs a) (xs b) 0)
  | .msense d a b st => some (longWord 0x32 (xs d) (0#8 ++ st : BitVec (8 + 3)) (xs a) (xs b) 0)
  | .mrd d a off => some (longWord 0x33 (xs d) off (xs a) 0 0)
  | .mclr a off => some (longWord 0x34 0 off (xs a) 0 0)
  | .mtick d rg => some (longWord 0x35 (xs d) (0#8 ++ rg : BitVec (8 + 3)) 0 0 0)
  | .fldF fd a off => some (longWord 0x40 (xf fd) off (xs a) 0 0)
  | .fstF a off fb => some (longWord 0x41 0 off (xs a) (xf fb) 0)
  | .fset fd a j => some (longWord 0x42 (xf fd) (0#4 ++ j : BitVec (4 + 7)) (xs a) 0 0)
  | .fdom fd a b => some (longWord 0x43 (xf fd) 0 (xs a) (xs b) 0)
  | .faddF fd fa fb => some (longWord 0x44 (xf fd) 0 (xf fa) (xf fb) 0)
  | .fsubF fd fa fb => some (longWord 0x45 (xf fd) 0 (xf fa) (xf fb) 0)
  | .fmulF fd fa fb => some (longWord 0x46 (xf fd) 0 (xf fa) (xf fb) 0)
  | .fscl fd fa b => some (longWord 0x47 (xf fd) 0 (xf fa) (xs b) 0)
  | .fcomp fd fa fb => some (longWord 0x48 (xf fd) 0 (xf fa) (xf fb) 0)
  | .fint fd fa => some (longWord 0x49 (xf fd) 0 (xf fa) 0 0)
  | .fder fd fa => some (longWord 0x4A (xf fd) 0 (xf fa) 0 0)
  | .feval d fa b => some (longWord 0x4B (xs d) 0 (xf fa) (xs b) 0)
  | .fevalV rd fa rb => some (longWord 0x4C rd.enc 0 (xf fa) rb.enc 0)
  | .fsamp fd rb n => some (longWord 0x4D (xf fd) (0#3 ++ n : BitVec (3 + 8)) 0 rb.enc 0)
  | .froot d fa b c => some (longWord 0x4E (xs d) 0 (xf fa) (xs b) c)
  | .flen d fa => some (longWord 0x4F (xs d) 0 (xf fa) 0 0)
  | .ftrunc fd fa n => some (longWord 0x50 (xf fd) (0#3 ++ n : BitVec (3 + 8)) (xf fa) 0 0)
  | _ => none

/-- The bundle of two slot words (R105). -/
def bundleWord (w0 w1 : BitVec 32) : BitVec 64 := (w1 ++ w0 : BitVec (32 + 32))

/-- The bundle of one instruction: a slot instruction is paired with `nop` (R115). `none` for a step no bundle encodes. -/
def encode (i : Instr) : Option (BitVec 64) :=
  match encodeCtrl i with
  | some w => some (bundleWord w 0)
  | none =>
    match encodeArith i with
    | some w => some (bundleWord 0 w)
    | none => encodeLong i

/-- The bundle of a word numbered as spec/opcode_table.json numbers it. The table gives its 32 bits to one slot: a word
with bit 31 set can only be an arithmetic-slot word, and one that the control/memory slot refuses is read as one. -/
def tableBundle (nbits w : Nat) : BitVec 64 :=
  let w0 : BitVec 32 := BitVec.ofNat 32 w
  if nbits ≤ 32 then
    if w0.extractLsb' 31 1 = 1#1 then bundleWord 0 w0
    else
      match decodeCtrl w0 with
      | .ok _ => bundleWord w0 0
      | .error _ => bundleWord 0 w0
  else BitVec.ofNat 64 w

/-- The instruction the decoder reads from a word of the opcode table. -/
def decodeTableWord (nbits w : Nat) : Option Instr := (decodeBundle (tableBundle nbits w)).single

end Sys2Proof
end

