-- ==== Sys2Proof/Machine/Streams.lean ====
section
/-! DEFINITION. Streams (R159–R162): binding, freeing, status, and the pops and appends of a bundle (R125, R161). -/

namespace Sys2Proof.Machine

/-- A stream bound, changed or freed. -/
def Thread.setStream (t : Thread) (r : Reg) (x : Option Stream) : Thread :=
  { t with streams := t.streams.set (streamSlot r) x (Nat.mod_lt _ (by decide)) }

/-- Words that a bundle must read before any part of it takes effect (R160, R211, R217, R237): at hand, or the machine in which the
bundle waits for them or is stopped. -/
inductive SyncRead where
  | words (l : List Word)
  | stopped (s : State)
  deriving DecidableEq, Repr

/-- The words that a thread has read at an address for the bundle at which it stands. -/
def Thread.words? (t : Thread) (ea : Word) (n : Nat) : Option (List Word) :=
  (t.got.find? fun g => g.1 == ea && g.2.length == n).map (·.2)

/-- The load of such words sent (R39, R72): single-copy atomic 8-byte units with no order among them. The thread waits at its bundle,
which issues again once they have come (log entry 39). -/
def State.fetchWords (s : State) (ea : Word) (keys : List Nat) (counter : Counter) : State :=
  if counter = .l ∧ s.cur.cntL = 63 then s.hold
  else
    let r := s.send .read (mkPieces ea 0 (zipUnits keys ((unitOffsets (8 * keys.length) 8).map fun o => (o, 8)))) .sync true false counter ea
    { r with cur := { r.cur with wait := .fetching s.fresh }, aborted := true }

/-- Words that a bundle reads before it takes effect. Where R37 migrates the thread, it leaves with its PC at the bundle, which
issues where it arrives. -/
def State.readSync (s : State) (ea : Word) (szLog alignLog n : Nat) (counter : Counter) : SyncRead × State :=
  match s.cur.words? ea n with
  | some l => (.words l, s)
  | none =>
    let r := s.check ea true szLog alignLog false (unitOffsets (8 * n) 8)
    match r.1 with
    | .ok keys =>
      match r.2.migrationFor (keys.headD 0) with
      | some (c, slot) =>
        (.stopped (if s.cur.cntL = 0 ∧ s.cur.cntS = 0 ∧ s.cur.closed = [] then { r.2.depart c slot none with aborted := true }
                   else r.2.hold), r.2)
      | none => (.stopped (r.2.fetchWords ea keys counter), r.2)
    | .queueWindow _ => (.words (List.replicate n 0), r.2)
    | c => (.stopped (r.2.stop 0 c), r.2)

/-- A descriptor that R159 and R332 refuse. -/
def streamBad (base count sctl : Word) : Bool :=
  bits base 63 56 != 0 || count == 0 || decide (2 ^ 32 < count.toNat) || bits sctl 63 4 != 0

/-- `sbind` of R160; a stream already bound is freed first. -/
def execSbind (d a : Reg) (s : State) : Out :=
  let ea := effAddr (s.reg a) 0
  let r := s.readSync ea 5 3 4 .l
  .next (match r.1 with
    | .stopped t => t
    | .words l =>
      let base := l.getD 0 0
      let count := l.getD 2 0
      let sctl := l.getD 3 0
      if streamBad base count sctl then r.2.raiseFault 0x16 0x0A ea
      else
        let x : Stream := { base := base, stride := l.getD 1 0, count := count.toNat, size := sctl.setWidth 2,
                            write := sctl.getLsbD 2, uns := sctl.getLsbD 3, idx := 0, last := 0, exh := false, fetched := [], pending := none }
        { r.2 with cur := { (r.2.cur.setReg d 0).setStream d (some x) with pc := r.2.cur.pc + 8 } })

/-- A stream freed (R162): the register keeps the value last popped or appended. -/
def Thread.freeStream (t : Thread) (d : Reg) : Thread :=
  match t.stream? d with
  | some x => (t.setReg d x.last).setStream d none
  | none => t

/-- `sfree` of R162. Appends issue with their bundles, also that of a value still to come (R161), which holds the bundle
(`bindsOf`); so none is left to wait for. -/
def execSfree (d : Reg) (s : State) : Out := .next ({ s with cur := s.cur.freeStream d } : State).advance

/-- The status word of R162. -/
def streamStatus : Option Stream → Word
  | none => 0
  | some x => BitVec.ofNat 64 (x.count - x.idx + (if x.write then 2 ^ 33 else 0) + (if x.exh then 2 ^ 34 else 0) + 2 ^ 35)

/-- `sstat` of R162. -/
def execSstat (d a : Reg) (s : State) : Out := .next (s.setReg d (streamStatus (s.cur.stream? a))).advance

/-! ### Elements -/

/-- The checks of an element access, as a scalar access of that size (R159, R333). -/
def State.checkElem (s : State) (x : Stream) (i : Nat) : Check × State :=
  let ea := x.elemAddr i
  s.check ea (scalarViewOk (viewOf ea) x.bytes) x.size.toNat x.size.toNat x.write [0]

/-- The request that fetches a read stream's next element (R160), where its checks pass. It counts in no counter: R156 names appends
under s and says nothing of the reads of streams (DESIGN CHOICE, log entry 57). -/
def State.sendElem (s : State) (r : Reg) (x : Stream) (k : Nat) : State :=
  let ea := x.elemAddr (x.idx + x.fetched.length)
  let t := s.send .read [pieceAt ea k x.bytes 0] (.stream r) true false .none ea
  { t with cur := t.cur.setStream r (some { x with pending := some s.fresh }) }

/-- A read stream's next element fetched ahead of its pop; nothing where the access meets a condition, which is left to the pop
(R339). -/
def State.fetchElem (s : State) (r : Reg) (x : Stream) : Option State :=
  if x.write || x.pending.isSome || decide (x.count ≤ x.idx + x.fetched.length) then none
  else
    let c := s.checkElem x (x.idx + x.fetched.length)
    match c.1 with
    | .ok (k :: _) => some (c.2.sendElem r x k)
    | _ => none

/-- Is the stream bound to a register to be popped from memory: a read stream, not at its end, with nothing fetched? -/
def Thread.popWaits (t : Thread) (r : Reg) : Option Stream :=
  (t.stream? r).filter fun x => !x.write && decide (x.idx < x.count) && x.fetched.isEmpty

/-- What stops a bundle at the pop of a register (R125, R335, R339): its access meets a condition. -/
def State.popStop (s : State) (r : Reg) : Option State :=
  match s.cur.popWaits r with
  | none => none
  | some x =>
    let c := s.checkElem x x.idx
    match c.1 with
    | .fault a b v => some (c.2.raiseFault a b v)
    | .absent va => some (c.2.service va 0)
    | _ => none

/-- The wait of a bundle for the element that a register's pop needs, whose fetch it makes where none is under way. -/
def State.popFetch (s : State) (r : Reg) : Option State :=
  match s.cur.popWaits r with
  | none => none
  | some x =>
    let wait := fun (t : State) (n : Nat) => ({ t with cur := { t.cur with wait := .fetching n }, aborted := true } : State)
    match x.pending with
    | some n => some (wait s n)
    | none =>
      let c := s.checkElem x x.idx
      match c.1 with
      | .ok (k :: _) => some (wait (c.2.sendElem r x k) c.2.fresh)
      | _ => none

/-- The elements fetched before a popped one, and from bytes that it touches, are fetched again, with those behind them: a later pop does
not give an older value (R73, R160). -/
def Thread.cutOlder (t : Thread) (f : Ahead) (n : Nat) : Thread :=
  let older := fun g : Ahead => decide (g.no < f.no) && decide (g.key < f.key + n) && decide (f.key < g.key + 8)
  { t with streams := t.streams.map fun o => o.map fun y =>
      if y.write || !y.fetched.any older then y else { y with fetched := y.fetched.takeWhile fun g => !older g, pending := none } }

/-- The pop of a bundle that names a bound register as a source (R125, R161). A read stream whose element lies in the matrix queue
window, where nothing is fetched, reads 0 (R192). -/
def State.pop (s : State) (r : Reg) : State :=
  match s.cur.stream? r with
  | none => s
  | some x =>
    if x.write then s
    else if x.count ≤ x.idx then
      { s with cur := (s.cur.setReg r 0).setStream r (some { x with exh := true }) }
    else
      let v := (x.fetched.head?.map (·.val)).getD 0
      let t := match x.fetched with | f :: _ => s.cur.cutOlder f x.bytes | [] => s.cur
      { s with cur := (t.setReg r v).setStream r (some { x with idx := x.idx + 1, last := v, fetched := x.fetched.drop 1 }) }

/-- The streams of a bundle's pops as the pops before them in the bundle cut them: what is then missing is fetched anew before the
bundle issues. `u` is the machine after those pops. -/
def State.cutFor (s u : State) : List Reg → State
  | [] => s
  | r :: rs => State.cutFor { s with cur := s.cur.setStream r (u.cur.stream? r) } (u.pop r) rs

/-! ### Appends -/

/-- The appends of a bundle, checked before any part of it takes effect (R106, R125): the keys that each store goes to, what stops
those that meet a condition, and the machine after the translations. -/
structure Appends where
  keys : List (Reg × List Nat)
  stops : List State
  after : State

/-- No append. -/
def Appends.empty (s : State) : Appends := ⟨[], [], s⟩

/-- The keys of the append to a register. -/
def Appends.at_ (p : Appends) (r : Reg) : List Nat := ((p.keys.find? fun k => k.1 == r).map (·.2)).getD []

/-- One append more: the store of a stream's next element, translated once, or what stops it (R335, R339). -/
def Appends.add (p : Appends) (r : Reg) (x : Stream) : Appends :=
  let c := p.after.checkElem x x.idx
  let stop := fun t : State => { p with stops := p.stops ++ [t], after := c.2 }
  match c.1 with
  | .ok keys => { p with keys := p.keys ++ [(r, keys)], after := c.2 }
  | .fault a b va => stop (c.2.raiseFault a b va)
  | .absent va => stop (c.2.service va 1)
  | .queueWindow _ => stop (c.2.raiseFault 0x16 8 (x.elemAddr x.idx))

/-- The appends to the streams that `t` binds to some registers. -/
def State.planAppends (s : State) (t : Thread) (rs : List Reg) : Appends :=
  rs.foldl (fun p r => match t.appendsTo r with | some x => p.add r x | none => p) (.empty s)

/-- What stops the next append to the stream bound to a register. -/
def State.appendStop (s : State) (r : Reg) : Option State := (s.planAppends s.cur [r]).stops.head?

/-- The machine with the translations and choices that `t` has made. -/
def State.drawnAs (s t : State) : State := { s with oracle := t.oracle, fresh := t.fresh, tlb := t.tlb }

/-- The append of a bundle that writes a bound register (R125, R161): a store in program order to the keys that its check has found, of
the value `v`, or of the value that the load of a number will bring. -/
def State.append (s : State) (p : Appends) (r : Reg) (v : Word) (from_ : Option Nat := none) : State :=
  match s.cur.stream? r with
  | none => s
  | some x =>
    if !x.write then s
    else if x.count ≤ x.idx then { s with cur := s.cur.setStream r (some { x with exh := true }) }
    else
      let ea := x.elemAddr x.idx
      let s := s.send .write (mkPieces ea ((viewEncode (viewOf ea) v).toNat % 2 ^ (8 * x.bytes)) (zipUnits (p.at_ r) [(0, x.bytes)]))
                 .none false true .s ea none from_
      match from_ with
      | none => { s with cur := (s.cur.setReg r v).setStream r (some { x with idx := x.idx + 1, last := v }) }
      | some _ => { s with cur := s.cur.setStream r (some { x with idx := x.idx + 1 }) }

/-- The value that a reply brings put into the append that its load's bundle issued (R161), and into the register. -/
def State.fillAppend (s : State) (r : Reg) (n : Nat) (v : Word) : State :=
  let data := fun p : Piece => { p with data := BitVec.ofNat 64 ((viewEncode (viewOf p.ea) v).toNat % 2 ^ (8 * p.len)) }
  let mine := fun q : Req => q.tid == s.cur.id && q.dataFrom == some n
  let last := fun x : Stream => if s.fabric.any mine then { x with last := v } else x
  { s with
    fabric := s.fabric.map fun q => if mine q then { q with dataFrom := none, pieces := q.pieces.map data } else q
    cur := match s.cur.stream? r with
      | some x => (if s.fabric.any mine then s.cur.setReg r v else s.cur).setStream r (some (last x))
      | none => s.cur }

end Sys2Proof.Machine
end

