-- ==== Sys2Proof/Machine/Tiles.lean ====
section
/-! DEFINITION. Tiles and vector instructions (R168–R191). The body of an entry is written once, over the rows its operands
resolved to and the scalars it read, so that an issue and a replay under `vloop` perform the same thing (R187). -/

namespace Sys2Proof.Machine

/-! ### Ordering and checks (R168, R174, R175, R184, R345) -/

/-- Is a tile the TC of a queued or running command of the team (R174)? In replay mode also of one that a commit will queue (R327). -/
def State.tileQueued (s : State) (id : Tid) (t : Nat) : Bool :=
  (match (s.teamD id.grid id.team).core with
   | some c => (s.core c).mq.any fun r => r.tid.grid == id.grid && r.tid.team == id.team && bits (r.words.getD 0 0) 11 8 == t
   | none => false) ||
  (s.gridD id.grid).replay.deferred.any fun d =>
    match d with | .record who _ words => who.team == id.team && bits (words.getD 0 0) 11 8 == t | _ => false

/-- Does a `vld` into the tile still bring a row (R174)? -/
def State.tileInFlight (s : State) (id : Tid) (t : Nat) : Bool :=
  s.fabric.any fun r => r.tid.grid == id.grid && r.tid.team == id.team &&
    (match r.dest with | .row tile _ _ => tile == t | _ => false)

/-- The number that stands for a tile row in the list of uncorrectable errors (R345). -/
def tileErr (id : Tid) (tile row : Nat) : Nat := 2 ^ 60 + ((id.grid * 8192 + id.team) * 16 + tile) * 64 + row

/-- A wrong element in a row of a team's tile (R346): a valid checksum then disagrees with the data. -/
def State.wrongElement (s : State) (id : Tid) (tile row elem v : Nat) : State :=
  match s.tileOf? id tile with
  | some t =>
    let l := rowElems (t.row row) t.elem
    let w := v % 2 ^ (8 * t.elem.size)
    if l.getD elem w = w then s
    else s.setTileOf id tile { t.putRow row (rowWith (t.row row) t.elem.size (l.set elem w)) with sumBad := t.sumBad || t.valid }
  | none => s

/-- A row of a team's tile written by a vector instruction (R173); fresh check bits clear an error there (R345). -/
def State.writeRow (s : State) (id : Tid) (tile row : Nat) (v : Row) : State :=
  match s.tileOf? id tile with
  | some t => (s.setTileOf id tile (t.setRow row v)).clearError (tileErr id tile (row % 64))
  | none => s

/-- Errors in all rows of a tile cleared, when all are written (R345). -/
def State.clearTileErrors (s : State) (id : Tid) (tile : Nat) : State :=
  let old := fun p => !(decide (tileErr id tile 0 ≤ p) && decide (p < tileErr id tile 0 + 64))
  { s with poison := s.poison.filter old, soft := s.soft.filter old }

/-- Rows of a team's tiles read: errors of one bit corrected (R344). -/
def State.correctRows (s : State) (id : Tid) (reads : List (Nat × Nat)) : State :=
  reads.foldl (fun t p => t.correctPlace (tileErr id p.1 p.2) 6 ((t.teamD id.grid id.team).core.getD 0) (64 * p.1 + p.2)) s

/-- A row of a team's tile; a tile the team lacks has been refused before. -/
def State.readRow (s : State) (id : Tid) (tile row : Nat) : Row := match s.tileOf? id tile with | some t => t.row row | none => 0

/-- The element type of a team's tile. -/
def State.tileElem (s : State) (id : Tid) (tile : Nat) : Elem := match s.tileOf? id tile with | some t => t.elem | none => .fp32

/-- The TYPE code of a team's tile. -/
def State.tileType (s : State) (id : Tid) (tile : Nat) : Nat := match s.tileOf? id tile with | some t => t.type.toNat | none => 0

/-- A vector instruction not ready (R29): replays of the thread still run (R187), a tile it names is a TC or awaits a `vld`
(R174), or its posts exceed the free entries of the result queue (R184). -/
def State.vecHeld (s : State) (tiles : List Nat) (posts : Nat) : Bool :=
  s.cur.vreplay.isSome || tiles.any (fun t => s.tileQueued s.cur.id t || s.tileInFlight s.cur.id t) ||
  (decide (0 < posts) && decide (8 < s.cur.resq.length + posts))

/-- The tile of a row operand. -/
def tileNo (r : RowOp) : Nat := r.tile.toNat

/-- The row operands that an entry reads. -/
def rowsRead : Instr → List Bool
  | .vld _ _ _ => [false]
  | .vst _ _ _ => [true]
  | .vbc _ _ => [false]
  | .vfma _ _ _ | .vsel _ _ _ => [true, true, true]
  | .vabs _ _ | .vneg _ _ | .vcvt _ _ | .vscale _ _ _ => [false, true]
  | .vred _ _ => [true]
  | .topkm _ _ _ _ _ _ => [false, true, true]
  | .topk _ _ _ _ _ _ | .vsort _ _ _ _ => [false, true, false]
  | .fevalV _ _ _ => [false, true]
  | _ => [false, true, true]

/-- Posts of an entry (R184). -/
def postsOf : Instr → Nat
  | .vred _ _ => 1
  | .topk _ _ _ _ _ _ => 2
  | .topkm _ _ _ _ _ _ => 2
  | _ => 0

/-- The tiles of an entry that must have one TYPE (R175). `feval.v` is not named among the exceptions, but R226 takes the smaller n_T of
its two tiles, so they may differ (DESIGN CHOICE, log entry 54). -/
def sameTiles : Instr → List Nat
  | .vld _ _ _ | .vst _ _ _ | .vbc _ _ | .vcvt _ _ | .vred _ _ | .fevalV _ _ _ => []
  | .topk _ _ rd _ ra _ | .topkm _ _ rd _ ra _ | .vsort _ rd _ ra => [tileNo rd, tileNo ra]
  | i => (rowsOf i).map tileNo

/-- The index tile of an entry, which must be INT32 (R189–R191). -/
def indexTile : Instr → Option Nat
  | .topk _ _ _ rb _ _ | .topkm _ _ _ rb _ _ | .vsort _ _ rb _ => some (tileNo rb)
  | _ => none

/-- tD and k of a selection (R189, R190). -/
def selectK : Instr → Option (Nat × Nat)
  | .topk _ _ rd _ _ k1 | .topkm _ _ rd _ _ k1 => some (tileNo rd, k1.toNat + 1)
  | _ => none

/-- An operand condition: cause, DETAIL, FVAL. -/
abbrev OperandError := Nat × Nat × Word

/-- A tile that the team does not hold (R168). -/
def State.tileError (s : State) (id : Tid) (tiles : List Nat) : Option OperandError :=
  (tiles.find? fun t => decide ((s.teamD id.grid id.team).tiles.length ≤ t)).map fun t => (0x16, 1, BitVec.ofNat 64 t)

/-- A tile whose TYPE differs from the first one's (R175), or an index tile that is not INT32. -/
def State.typeError (s : State) (id : Tid) (i : Instr) : Option OperandError :=
  ((match sameTiles i with
    | [] => none
    | t :: r => r.find? fun u => s.tileType id u != s.tileType id t).orElse
    fun _ => (indexTile i).filter fun t => s.tileType id t != 2).map fun t => (0x16, 2, BitVec.ofNat 64 (s.tileType id t))

/-- k of R189 and R190 above Min(n_T of tD, 64) (R332). -/
def State.kError (s : State) (id : Tid) (i : Instr) : Option OperandError :=
  ((selectK i).filter fun p => decide (min (s.tileElem id p.1).count 64 < p.2)).map fun p => (0x16, 7, BitVec.ofNat 64 p.2)

/-- An uncorrectable error in a row that is read (R345): tile and row of each. -/
def State.rowError (s : State) (id : Tid) (reads : List (Nat × Nat)) : Option OperandError :=
  (reads.find? fun p => s.poison.contains (tileErr id p.1 p.2)).map fun p => (0x1A, 6, BitVec.ofNat 64 (64 * p.1 + p.2))

/-- The rows that an entry reads, given those its operands resolved to. -/
def entryReads (i : Instr) (rows : List Nat) : List (Nat × Nat) :=
  (((rowsOf i).zip (rows.zip (rowsRead i))).filter fun p => p.2.2).map fun p => (tileNo p.1, p.2.1)

/-- What the operands of an entry violate, at its issue or a replay (R168, R175, R189, R345). -/
def State.entryError (s : State) (id : Tid) (i : Instr) (rows : List Nat) : Option OperandError :=
  (((s.tileError id ((rowsOf i).map tileNo)).orElse fun _ => s.typeError id i).orElse fun _ => s.kError id i).orElse
    fun _ => s.rowError id (entryReads i rows)

/-- An operand condition raised. -/
def State.raiseOf (s : State) (e : OperandError) : State := s.raiseFault e.1 e.2.1 e.2.2

/-- What stops `tcfg`, `tzero` or `fsamp`, which is no entry: the order of R174, the tile it names, the rows it reads. -/
def State.vecStop (s : State) (tile : Nat) (reads : List (Nat × Nat)) : Option State :=
  if s.vecHeld [tile] 0 then some s.hold
  else ((s.tileError s.cur.id [tile]).orElse fun _ => s.rowError s.cur.id reads).map s.raiseOf

/-- An entry put into the thread's log, which keeps the last 16 (R186). -/
def Thread.logEntry (t : Thread) (e : Entry) : Thread :=
  let l := t.log ++ [e]
  { t with log := l.drop (l.length - 16) }

/-- A result posted to the thread's result queue (R185). -/
def Thread.post (t : Thread) (v : Word) : Thread := { t with resq := t.resq ++ [v] }

/-! ### Element functions -/

/-- A float or INT32 element function: `f` on exact values, rounded by RoundNE; `g` on integers, modulo 2^32 (R175, R178). -/
def elemOp (f : FV → FV → FV → FV) (g : Int → Int → Int → Int) (t : Elem) (a b d : Nat) : Nat :=
  match t.fmt with
  | some m => m.ne (f (m.decode a) (m.decode b) (m.decode d))
  | none => t.ofIntBits (g (t.toInt a) (t.toInt b) (t.toInt d))

/-- `vmin` or `vmax` of an element (R178). -/
def elemMinMax (isMin : Bool) (t : Elem) (a b _d : Nat) : Nat :=
  match t.fmt with
  | some m => if isMin then m.minOp a b else m.maxOp a b
  | none => if decide (t.toInt a ≤ t.toInt b) == isMin then a else b

/-- `vcmp` of an element (R180); the condition codes are those of R117. -/
def elemCmp (cc : Nat) (t : Elem) (a b : Nat) : Bool :=
  match t.fmt with
  | some m =>
    let x := m.decode a
    let y := m.decode b
    if x == .nan || y == .nan then cc == 1
    else
      match cc with
      | 0 => x.cmp y == .eq
      | 1 => x.cmp y != .eq
      | 2 => x.cmp y == .lt
      | 3 => x.cmp y != .gt
      | 4 => x.cmp y == .gt
      | _ => x.cmp y != .lt
  | none =>
    let x := t.toInt a
    let y := t.toInt b
    match cc with
    | 0 => x == y
    | 1 => x != y
    | 2 => decide (x < y)
    | 3 => decide (x ≤ y)
    | 4 => decide (y < x)
    | _ => decide (y ≤ x)

/-- All ones of an element (R180). -/
def allOnes (t : Elem) : Nat := 2 ^ (8 * t.size) - 1

/-- The sign bit cleared or inverted; for INT32 the absolute value or the negation (R179). -/
def elemSign (isAbs : Bool) (t : Elem) (a : Nat) : Nat :=
  match t.fmt with
  | some m => if isAbs then a % 2 ^ m.signPos else if a / 2 ^ m.signPos % 2 = 0 then a + 2 ^ m.signPos else a - 2 ^ m.signPos
  | none => t.ofIntBits (if isAbs then (t.toInt a).natAbs else -(t.toInt a))

/-- Three lists zipped by an element function. -/
def zip3 (f : Nat → Nat → Nat → Nat) : List Nat → List Nat → List Nat → List Nat
  | a :: as, b :: bs, d :: ds => f a b d :: zip3 f as bs ds
  | _, _, _ => []

/-- An element-wise instruction over rows of one TYPE (R178, R180, R181): rows rd, ra, rb. -/
def elementwise (f : Elem → Nat → Nat → Nat → Nat) (td ta tb : Nat) (e : Entry) (id : Tid) (s : State) : State :=
  let t := s.tileElem id td
  let d := s.readRow id td (e.rows.getD 0 0)
  let a := s.readRow id ta (e.rows.getD 1 0)
  let b := s.readRow id tb (e.rows.getD 2 0)
  s.writeRow id td (e.rows.getD 0 0) (rowWith d t.size (zip3 (f t) (rowElems a t) (rowElems b t) (rowElems d t)))

/-- An instruction with one source row of the same TYPE (R179, R182). -/
def elementwise1 (f : Elem → Nat → Nat) (td ta : Nat) (e : Entry) (id : Tid) (s : State) : State :=
  let t := s.tileElem id td
  let d := s.readRow id td (e.rows.getD 0 0)
  s.writeRow id td (e.rows.getD 0 0) (rowWith d t.size ((rowElems (s.readRow id ta (e.rows.getD 1 0)) t).map (f t)))

/-- The body of `vadd` (R178). -/
def vaddBody (td ta tb : Nat) (e : Entry) (id : Tid) (s : State) : State := elementwise (elemOp (fun a b _ => a.add false b) (fun a b _ => a + b)) td ta tb e id s

/-- The body of `vsub` (R178). -/
def vsubBody (td ta tb : Nat) (e : Entry) (id : Tid) (s : State) : State := elementwise (elemOp (fun a b _ => a.add false b.negate) (fun a b _ => a - b)) td ta tb e id s

/-- The body of `vmul` (R178). -/
def vmulBody (td ta tb : Nat) (e : Entry) (id : Tid) (s : State) : State := elementwise (elemOp (fun a b _ => a.mul b) (fun a b _ => a * b)) td ta tb e id s

/-- The body of `vfma` (R178), one rounding. -/
def vfmaBody (td ta tb : Nat) (e : Entry) (id : Tid) (s : State) : State := elementwise (elemOp (fun a b d => (a.mul b).add false d) (fun a b d => a * b + d)) td ta tb e id s

/-- The body of `vmin` (R178). -/
def vminBody (td ta tb : Nat) (e : Entry) (id : Tid) (s : State) : State := elementwise (elemMinMax true) td ta tb e id s

/-- The body of `vmax` (R178). -/
def vmaxBody (td ta tb : Nat) (e : Entry) (id : Tid) (s : State) : State := elementwise (elemMinMax false) td ta tb e id s

/-- The body of `vsel` (R181): the old destination is the mask. -/
def vselBody (td ta tb : Nat) (e : Entry) (id : Tid) (s : State) : State := elementwise (fun _ a b d => if d = 0 then b else a) td ta tb e id s

/-- The body of `vcmp` (R180). -/
def vcmpBody (cc td ta tb : Nat) (e : Entry) (id : Tid) (s : State) : State :=
  elementwise (fun t a b _ => if elemCmp cc t a b then allOnes t else 0) td ta tb e id s

/-- The body of `vperm` (R181). -/
def vpermBody (td ta tb : Nat) (e : Entry) (id : Tid) (s : State) : State :=
  let t := s.tileElem id td
  let a := rowElems (s.readRow id ta (e.rows.getD 1 0)) t
  let b := rowElems (s.readRow id tb (e.rows.getD 2 0)) t
  s.writeRow id td (e.rows.getD 0 0) (rowWith (s.readRow id td (e.rows.getD 0 0)) t.size (b.map fun p => a.getD (p % t.count) 0))

/-- The body of `vabs` (R179). -/
def vabsBody (td ta : Nat) (e : Entry) (id : Tid) (s : State) : State := elementwise1 (elemSign true) td ta e id s

/-- The body of `vneg` (R179). -/
def vnegBody (td ta : Nat) (e : Entry) (id : Tid) (s : State) : State := elementwise1 (elemSign false) td ta e id s

/-- The body of `vcvt` (R179): the first Min(n_A, n_D) elements. -/
def vcvtBody (td ta : Nat) (e : Entry) (id : Tid) (s : State) : State :=
  let t := s.tileElem id td
  let u := s.tileElem id ta
  let l := ((rowElems (s.readRow id ta (e.rows.getD 1 0)) u).take (min u.count t.count)).map fun x => Elem.convert x u t
  s.writeRow id td (e.rows.getD 0 0) (rowWith (s.readRow id td (e.rows.getD 0 0)) t.size l)

/-- The product of `vscale` (R182): for FP32 and BF16 the scalar is FP32. -/
def scaleElem (v : Word) (t : Elem) (a : Nat) : Nat :=
  match t with
  | .fp64 => Fmt.fp64.ne ((Fmt.fp64.decode a).mul (Fmt.fp64.decode v.toNat))
  | .fp32 => Fmt.fp32.ne ((Fmt.fp32.decode a).mul (Fmt.fp32.decode (v.toNat % 2 ^ 32)))
  | .bf16 => Fmt.bf16.ne ((Fmt.bf16.decode a).mul (Fmt.fp32.decode (v.toNat % 2 ^ 32)))
  | _ => t.ofIntBits (t.toInt a * (v.setWidth 32).toInt)

/-- The body of `vscale` (R182). -/
def vscaleBody (td ta : Nat) (e : Entry) (id : Tid) (s : State) : State := elementwise1 (scaleElem (e.scalars.getD 0 0)) td ta e id s

/-- The body of `vbc` (R177). -/
def vbcBody (td : Nat) (e : Entry) (id : Tid) (s : State) : State :=
  let t := s.tileElem id td
  s.writeRow id td (e.rows.getD 0 0) (rowWith 0 t.size (List.replicate t.count ((e.scalars.getD 0 0).toNat % 2 ^ (8 * t.size))))

/-! ### Reductions (R183) -/

/-- The format in which sums of a TYPE are posted (R183, R188): FP32 for FP32 and BF16, FP64 for FP64. -/
def sumFmt : Elem → Fmt
  | .fp64 => .fp64
  | _ => .fp32

/-- The exact value of an element. -/
def elemVal (t : Elem) (x : Nat) : FV := match t.fmt with | some m => m.decode x | none => FV.ofInt (t.toInt x) 0

/-- The exact integer that a finite value with a non-negative exponent is. -/
def fvInt : FV → Int
  | .fin n m e => signedAt n m e 0
  | _ => 0

/-- A sum posted (R183): rounded once, or the exact signed 64-bit integer. -/
def postSum (t : Elem) (l : List FV) : Word :=
  match t.fmt with
  | some _ => BitVec.ofNat 64 ((sumFmt t).ne (sumFV false l))
  | none => BitVec.ofInt 64 (fvInt (sumFV false l))

/-- `max` or `min` over elements (R183), posted as FP32, FP64 or a signed integer. -/
def postMinMax (isMin : Bool) (t : Elem) : List Nat → Word
  | [] => 0
  | x :: r =>
    let v := r.foldl (fun acc y => elemMinMax isMin t acc y 0) x
    match t with
    | .fp32 => BitVec.ofNat 64 v
    | .bf16 => BitVec.ofNat 64 (Fmt.fp32.ne (Fmt.bf16.decode v))
    | .fp64 => BitVec.ofNat 64 v
    | _ => BitVec.ofInt 64 (t.toInt v)

/-- A post to a thread (R185). -/
def State.postTo (s : State) (id : Tid) (v : Word) : State := s.modThread id fun t => t.post v

/-- The body of `vred` (R183): 0 `sum`, 1 `max`, 2 `min`. -/
def vredBody (op ta : Nat) (e : Entry) (id : Tid) (s : State) : State :=
  let t := s.tileElem id ta
  let l := rowElems (s.readRow id ta (e.rows.getD 0 0)) t
  s.postTo id (if op = 0 then postSum t (l.map (elemVal t)) else postMinMax (op == 2) t l)

/-! ### Selection and sorting (R188–R191) -/

/-- An entry of a selection: its bits, its exact value, its position, its index. -/
structure SelEntry where
  raw : Nat
  val : FV
  pos : Nat
  idx : Nat
  deriving DecidableEq, Repr

/-- Does one value precede another (R188)? -/
def precedes (greater : Bool) (x y : SelEntry) : Bool := x.val.cmp y.val == (if greater then .gt else .lt)

/-- An entry put behind every entry it does not precede. -/
def insertSel (greater : Bool) (x : SelEntry) : List SelEntry → List SelEntry
  | [] => [x]
  | y :: r => if precedes greater x y then x :: y :: r else y :: insertSel greater x r

/-- Key order (R188): equal values keep input order. -/
def sortSel (greater : Bool) (l : List SelEntry) : List SelEntry := l.foldl (fun acc x => insertSel greater x acc) []

/-- Elements with their positions. -/
def selEntries (t : Elem) (l idx : List Nat) : Nat → List SelEntry
  | 0 => []
  | n + 1 => selEntries t l idx n ++ [⟨l.getD n 0, elemVal t (l.getD n 0), n, idx.getD n n⟩]

/-- The fill value of an unused slot (R188). -/
def selFill (isMin : Bool) : Elem → Nat
  | .fp32 => if isMin then 0x7F800000 else 0xFF800000
  | .bf16 => if isMin then 0x7F80 else 0xFF80
  | .fp64 => if isMin then 0x7FF0000000000000 else 0xFFF0000000000000
  | _ => if isMin then 0x7FFFFFFF else 0x80000000

/-- The k values and indices written (R189 lines 03–06). -/
def selWrite (isMin : Bool) (t : Elem) (sel : List SelEntry) (k : Nat) : List Nat × List Nat :=
  ((List.range k).map fun j => match sel[j]? with | some x => x.raw | none => selFill isMin t,
   (List.range k).map fun j => match sel[j]? with | some x => x.idx | none => 0xFFFFFFFF)

/-- Values and indices put into the rows of tD and then tB, whose value stands where the two rows coincide: R189 says so of `topk`,
and R191 says nothing of `vsort`, for which the model takes the same order (log entry 40). -/
def State.writeSel (s : State) (id : Tid) (td rd tb rb : Nat) (vals idxs : List Nat) : State :=
  let t := s.tileElem id td
  let s' := s.writeRow id td rd (rowWith (s.readRow id td rd) t.size vals)
  s'.writeRow id tb rb (rowWith (s'.readRow id tb rb) 4 idxs)

/-- The body of `topk` (R189). `sC` is written by the thread's issue or replay. -/
def topkBody (isMin : Bool) (c : Reg) (td tb ta k : Nat) (e : Entry) (id : Tid) (s : State) : State :=
  let t := s.tileElem id ta
  let all := selEntries t (rowElems (s.readRow id ta (e.rows.getD 1 0)) t) [] t.count
  let valid := all.filter fun x => x.val != .nan
  let sorted := sortSel (!isMin) valid
  let sel := sorted.take k
  let w := selWrite isMin t sel k
  let s := s.writeSel id td (e.rows.getD 0 0) tb (e.rows.getD 2 0) w.1 w.2
  let s := s.modThread id fun x => x.setReg c (BitVec.ofNat 64 (sel.length + 2 ^ 16 * (all.length - valid.length)))
  let s := s.postTo id (postSum t (sel.map (·.val)))
  s.postTo id (postSum t ((sorted.drop k).map (·.val)))

/-- `Keep`, `Drop` and CONF of R190, over the valid entries in order. -/
def mergeSel : List SelEntry → List SelEntry → List SelEntry → Bool → List SelEntry × List SelEntry × Bool
  | [], keep, drop, conf => (keep, drop, conf)
  | x :: r, keep, drop, conf =>
    match keep.find? fun y => y.idx == x.idx with
    | some y => mergeSel r keep (drop ++ [x]) (conf || x.val.cmp y.val != .eq)
    | none => mergeSel r (keep ++ [x]) drop conf

/-- T of R190, in Fmt. -/
def mergeTotal (t : Elem) (v : Word) : FV :=
  match t with
  | .fp64 => Fmt.fp64.decode v.toNat
  | .int32 => FV.ofInt v.toInt 0
  | _ => Fmt.fp32.decode (v.toNat % 2 ^ 32)

/-- The body of `topkm` (R190). -/
def topkmBody (isMin : Bool) (c : Reg) (td tb ta k : Nat) (e : Entry) (id : Tid) (s : State) : State :=
  let t := s.tileElem id ta
  let all := selEntries t (rowElems (s.readRow id ta (e.rows.getD 1 0)) t) (rowElems (s.readRow id tb (e.rows.getD 2 0)) .int32)
    (min t.count 64)
  let named := all.filter fun x => x.idx != 0xFFFFFFFF
  let m := mergeSel (named.filter fun x => x.val != .nan) [] [] false
  let sel := (sortSel (!isMin) m.1).take k
  let nans := (named.filter fun x => x.val == .nan).length
  let w := selWrite isMin t sel k
  let s := s.writeSel id td (e.rows.getD 0 0) tb (e.rows.getD 2 0) w.1 w.2
  let s := s.modThread id fun x =>
    x.setReg c (BitVec.ofNat 64 (sel.length + 2 ^ 16 * nans + (if m.2.2 then 2 ^ 32 else 0)))
  let s := s.postTo id (postSum t (sel.map (·.val)))
  s.postTo id (postSum t (mergeTotal t (e.scalars.getD 0 0) :: (sel ++ m.2.1).map fun x => x.val.negate))

/-- The body of `vsort` (R191): the NaN entries follow in input order. -/
def vsortBody (desc : Bool) (td tb ta : Nat) (e : Entry) (id : Tid) (s : State) : State :=
  let t := s.tileElem id ta
  let all := selEntries t (rowElems (s.readRow id ta (e.rows.getD 1 0)) t) [] t.count
  let l := sortSel desc (all.filter fun x => x.val != .nan) ++ all.filter fun x => x.val == .nan
  s.writeSel id td (e.rows.getD 0 0) tb (e.rows.getD 2 0) (l.map (·.raw)) ((l.take 64).map (·.pos))

/-! ### Row loads and stores (R176) -/

/-- log2 of the alignment of R176. -/
def rowAlign (view : Nat) : Nat := if view = 0 then 3 else (Elem.ofView view).size.log2

/-- The bytes that `vst` stores for a row. -/
def rowToMem (v : Row) (t : Elem) (view : Nat) : Nat :=
  if view = 0 then v.toNat
  else
    let m := Elem.ofView view
    packElems m.size ((rowElems v t).map fun x => Elem.convert x t m)

/-- The row that `vld` makes of the bytes loaded. -/
def memToRow (old : Row) (data : Nat) (t : Elem) (view : Nat) : Row :=
  if view = 0 then BitVec.ofNat 2048 data
  else
    let m := Elem.ofView view
    rowWith old t.size ((List.range t.count).map fun i => Elem.convert (data / 2 ^ (8 * m.size * i) % 2 ^ (8 * m.size)) m t)

/-- The access of a row, but for its data. -/
def State.rowForm (s : State) (id : Tid) (ea : Word) (tile : Nat) (store : Bool) : Access :=
  let v := viewOf ea
  { viewOk := true, szLog := 15, alignLog := rowAlign v, needW := store, kind := if store then 1 else 0,
    units := units8 (locOf ea) (rowBytes (s.tileElem id tile) v), op := if store then .write else .read, data := 0, dest := .none,
    isLoad := !store, isStore := store, counter := if store then .s else .l, parks := false, migrates := false,
    tile := if store then some tile else none }

/-- The access of a row made by the issuing thread, at an issue or in a replay. -/
def State.rowAccess (s : State) (id : Tid) (ea : Word) (tile row : Nat) (store : Bool) : State :=
  let t := s.tileElem id tile
  let v := viewOf ea
  let r := s.access ea
    { s.rowForm id ea tile store with
      data := if store then rowToMem (s.readRow id tile row) t v else 0, dest := if store then .none else .row tile row v }
  { r with cur := { r.cur with pc := s.cur.pc } }

/-- What the memory access of a `vld` or `vst` meets, which comes before its operand conditions (R329). -/
def State.rowStop (s : State) (e : Entry) : Option State :=
  let stop := fun (tile : Nat) (store : Bool) =>
    let ea := e.scalars.getD 0 0
    let a := s.rowForm s.cur.id ea tile store
    let r := s.check ea a.viewOk a.szLog a.alignLog a.needW (a.units.map (·.1))
    match r.1 with
    | .fault _ _ _ => some (r.2.stop a.kind r.1)
    | .absent _ => some (r.2.stop a.kind r.1)
    | _ => none
  match e.instr with
  | .vld rd _ _ => stop (tileNo rd) false
  | .vst _ _ rb => stop (tileNo rb) true
  | _ => none

/-- What stops an entry of the issuing thread, at its issue or in a replay. -/
def State.entryStop (s : State) (e : Entry) : Option State :=
  (s.rowStop e).orElse fun _ => (s.entryError s.cur.id e.instr e.rows).map s.raiseOf

/-- The body of `vld` (R176); the scalar is the effective address. -/
def vldBody (td : Nat) (e : Entry) (id : Tid) (s : State) : State := s.rowAccess id (e.scalars.getD 0 0) td (e.rows.getD 0 0) false

/-- The body of `vst` (R176). -/
def vstBody (tb : Nat) (e : Entry) (id : Tid) (s : State) : State := s.rowAccess id (e.scalars.getD 0 0) tb (e.rows.getD 0 0) true

/-! ### The instructions -/

/-- An entry of the issuing thread issued: the order of R174 and R184, its checks, its body, its log entry, the next bundle. -/
def State.entry (s : State) (i : Instr) (scalars : List Word) (body : Entry → Tid → State → State) : State :=
  let e : Entry := ⟨i, (rowsOf i).map s.rowNo, scalars⟩
  if s.vecHeld ((rowsOf i).map tileNo) (postsOf i) then s.hold
  else
    match s.entryStop e with
    | some t => t
    | none =>
      let r := body e s.cur.id (s.correctRows s.cur.id (entryReads i e.rows))
      if r.aborted then r else { r with cur := { r.cur.logEntry e with pc := s.cur.pc + 8 } }

/-- `tcfg` of R171. -/
def execTcfg (t : BitVec 4) (ty : BitVec 2) (s : State) : Out :=
  .next (match s.vecStop t.toNat [] with
    | some r => r
    | none =>
      match s.tile? t.toNat with
      | some x => (s.setTile t.toNat { x with type := ty, valid := x.valid && x.type == ty, ovf := false,
                                              sumBad := x.sumBad && x.type == ty }).advance
      | none => s)

/-- The tile of R172: zeros, a valid checksum, OVF clear, TYPE kept. -/
def Tile.cleared (t : Tile) : Tile := { Tile.zero with type := t.type }

/-- `tzero` of R172. -/
def execTzero (t : BitVec 4) (s : State) : Out :=
  .next (match s.vecStop t.toNat [] with
    | some r => r
    | none =>
      match s.tile? t.toNat with
      | some x => ((s.setTile t.toNat x.cleared).clearTileErrors s.cur.id t.toNat).advance
      | none => s)

/-- `vld` of R176. -/
def execVld (rd : RowOp) (a : Reg) (off : BitVec 11) (s : State) : Out :=
  .next (s.entry (.vld rd a off) [effAddr (s.reg a) off.toInt] (vldBody (tileNo rd)))

/-- `vst` of R176. -/
def execVst (a : Reg) (off : BitVec 11) (rb : RowOp) (s : State) : Out :=
  .next (s.entry (.vst a off rb) [effAddr (s.reg a) off.toInt] (vstBody (tileNo rb)))

/-- `vbc` of R177. -/
def execVbc (rd : RowOp) (a : Reg) (s : State) : Out :=
  .next (s.entry (.vbc rd a) [s.reg a] (vbcBody (tileNo rd)))

/-- `vadd` of R178. -/
def execVadd (rd ra rb : RowOp) (s : State) : Out :=
  .next (s.entry (.vadd rd ra rb) [] (vaddBody (tileNo rd) (tileNo ra) (tileNo rb)))

/-- `vsub` of R178. -/
def execVsub (rd ra rb : RowOp) (s : State) : Out :=
  .next (s.entry (.vsub rd ra rb) [] (vsubBody (tileNo rd) (tileNo ra) (tileNo rb)))

/-- `vmul` of R178. -/
def execVmul (rd ra rb : RowOp) (s : State) : Out :=
  .next (s.entry (.vmul rd ra rb) [] (vmulBody (tileNo rd) (tileNo ra) (tileNo rb)))

/-- `vfma` of R178. -/
def execVfma (rd ra rb : RowOp) (s : State) : Out :=
  .next (s.entry (.vfma rd ra rb) [] (vfmaBody (tileNo rd) (tileNo ra) (tileNo rb)))

/-- `vmin` of R178. -/
def execVmin (rd ra rb : RowOp) (s : State) : Out :=
  .next (s.entry (.vmin rd ra rb) [] (vminBody (tileNo rd) (tileNo ra) (tileNo rb)))

/-- `vmax` of R178. -/
def execVmax (rd ra rb : RowOp) (s : State) : Out :=
  .next (s.entry (.vmax rd ra rb) [] (vmaxBody (tileNo rd) (tileNo ra) (tileNo rb)))

/-- `vcmp` of R180. -/
def execVcmp (cc : BitVec 3) (rd ra rb : RowOp) (s : State) : Out :=
  .next (s.entry (.vcmp cc rd ra rb) [] (vcmpBody cc.toNat (tileNo rd) (tileNo ra) (tileNo rb)))

/-- `vsel` of R181. -/
def execVsel (rd ra rb : RowOp) (s : State) : Out :=
  .next (s.entry (.vsel rd ra rb) [] (vselBody (tileNo rd) (tileNo ra) (tileNo rb)))

/-- `vperm` of R181. -/
def execVperm (rd ra rb : RowOp) (s : State) : Out :=
  .next (s.entry (.vperm rd ra rb) [] (vpermBody (tileNo rd) (tileNo ra) (tileNo rb)))

/-- `vabs` of R179. -/
def execVabs (rd ra : RowOp) (s : State) : Out :=
  .next (s.entry (.vabs rd ra) [] (vabsBody (tileNo rd) (tileNo ra)))

/-- `vneg` of R179. -/
def execVneg (rd ra : RowOp) (s : State) : Out :=
  .next (s.entry (.vneg rd ra) [] (vnegBody (tileNo rd) (tileNo ra)))

/-- `vcvt` of R179. -/
def execVcvt (rd ra : RowOp) (s : State) : Out :=
  .next (s.entry (.vcvt rd ra) [] (vcvtBody (tileNo rd) (tileNo ra)))

/-- `vred` of R183. -/
def execVred (op : BitVec 2) (ra : RowOp) (s : State) : Out :=
  .next (s.entry (.vred op ra) [] (vredBody op.toNat (tileNo ra)))

/-- `vscale` of R182. -/
def execVscale (rd ra : RowOp) (b : Reg) (s : State) : Out :=
  .next (s.entry (.vscale rd ra b) [s.reg b] (vscaleBody (tileNo rd) (tileNo ra)))

/-- `topk` of R189. -/
def execTopk (mn : Bool) (c : Reg) (rd rb ra : RowOp) (k1 : BitVec 7) (s : State) : Out :=
  .next (s.entry (.topk mn c rd rb ra k1) [] (topkBody mn c (tileNo rd) (tileNo rb) (tileNo ra) (k1.toNat + 1)))

/-- `topkm` of R190; `sC` holds T, read at issue. -/
def execTopkm (mn : Bool) (c : Reg) (rd rb ra : RowOp) (k1 : BitVec 7) (s : State) : Out :=
  .next (s.entry (.topkm mn c rd rb ra k1) [s.reg c] (topkmBody mn c (tileNo rd) (tileNo rb) (tileNo ra) (k1.toNat + 1)))

/-- `vsort` of R191. -/
def execVsort (ds : Bool) (rd rb ra : RowOp) (s : State) : Out :=
  .next (s.entry (.vsort ds rd rb ra) [] (vsortBody ds (tileNo rd) (tileNo rb) (tileNo ra)))

/-- The registers that the replays of a list of entries will write (R187, R189). -/
def replayRegs (l : List Entry) : List Reg :=
  l.filterMap fun e => match e.instr with | .topk _ c _ _ _ _ | .topkm _ c _ _ _ _ => if c = 0 then none else some c | _ => none

/-- In replay mode: does an entry name the TC of a record that a commit will queue, or that is queued (R174, R327)? -/
def State.loopQueued (s : State) (l : List Entry) : Bool :=
  l.any fun e => (rowsOf e.instr).any fun r => s.tileQueued s.cur.id (tileNo r)

/-- The issuing thread with a `vloop` begun: of what its streams have fetched ahead nothing stays that its `vld`s will load (R73, R187). -/
def State.cutForLoop (s : State) : State :=
  let us := (s.replayUnits s.cur s.fresh).filter fun u => !u.1
  { s with cur := s.cutStreams s.cur (us.map fun u => piece u.2.1 u.2.2 0) }

/-- `vloop` of R187: the replays are performed by VLOOP_REPLAY steps. The registers that they write wait for them (R8), under the
number just below those set aside for their accesses. -/
def execVloop (n1 : BitVec 4) (cnt : BitVec 12) (s : State) : Out :=
  let n := n1.toNat + 1
  let es := s.cur.log.drop (s.cur.log.length - n)
  .next (if s.cur.vreplay.isSome || (s.myGrid.replayOn && s.loopQueued es) then s.hold
    else if s.cur.log.length < n then s.raiseFault 0x16 6 (BitVec.ofNat 64 n)
    else
      ({ s with
          cur := { s.cur with
            awaiting := s.cur.awaiting ++ (replayRegs es).map fun r => (r, s.fresh)
            vreplay := some ⟨es, cnt.toNat, 1, 0, s.cur.pc, s.fresh + 1, s.cur.phaseNo, s.cur.epoch, none, false⟩ }
          fresh := s.fresh + 1 + replayBlock * n * cnt.toNat } : State).cutForLoop.advance)

/-- `vpop` of R185. -/
def execVpop (d : Reg) (s : State) : Out :=
  .next (match s.cur.resq with
    | v :: r => if s.poison.contains (regErr s.cur.id 33) then s.raiseFault 0x1A 5 0
                else ((({ s with cur := { s.cur with resq := r } } : State).correctPlace (regErr s.cur.id 33) 5 s.teamCore 0).setReg d v).advance
    | [] => { s with cur := { s.cur with wait := .vpop d } })

end Sys2Proof.Machine
end

