-- ==== Sys2Proof/Machine/Functions.lean ====
section
/-! DEFINITION. Function registers (R102–R104, R214–R228, R307, R308, R340, R341): exact FP64 arithmetic, each result rounded
once as its rule says; `Finish`; the pool; the instructions. -/

namespace Sys2Proof.Machine

/-! ### FP64 terms -/

/-- A rounded value and whether the rounding was inexact (R104). -/
abbrev Rounded := Word × Bool

/-- The exact value of an FP64 pattern. -/
def fval (w : Word) : FV := Fmt.fp64.decode w.toNat

/-- A value times 2^k. -/
def FV.scale (k : Int) : FV → FV
  | .fin n m e => .fin n m (e + k)
  | v => v

/-- A value times a positive integer. -/
def FV.times (k : Nat) (v : FV) : FV := v.mul (.fin false k 0)

/-- The magnitude of an FP64 pattern. -/
def fmag (w : Word) : FV := fval (w &&& 0x7FFFFFFFFFFFFFFF)

/-- A rounding of the exact sum of terms (R94). -/
def fsum (mode : RMode) (l : List FV) : Rounded :=
  let r := Fmt.fp64.round mode (sumFV (mode == .down) l)
  (BitVec.ofNat 64 r.1, r.2.getLsbD 0)

/-- `RoundNE` of the exact sum of terms divided by a finite value that is not 0. -/
def fquot (l : List FV) (d : FV) : Rounded :=
  let r := Fmt.fp64.divOp .ne (sumFV false l) d
  (BitVec.ofNat 64 r.1, r.2.getLsbD 0)

/-- The values of roundings. -/
def values (l : List Rounded) : List Word := l.map (·.1)

/-- Was one of the roundings inexact? -/
def inexact (l : List Rounded) : Bool := l.any (·.2)

/-- Is the pattern NaN or infinite? -/
def notFinite (w : Word) : Bool := match fval w with | .fin _ _ _ => false | _ => true

/-- Is the pattern ±0? -/
def isZeroW (w : Word) : Bool := (w &&& 0x7FFFFFFFFFFFFFFF) == 0

/-- The bound that makes [a, b] no interval (R217, R218, R332): one that is not finite, else `a` when not a < b. -/
def badBound (a b : Word) : Option Word :=
  if notFinite a then some a else if notFinite b then some b else if (fval a).cmp (fval b) == .lt then none else some a

/-! ### `Finish` (R216) -/

/-- The largest magnitude of a list of finite patterns. -/
def maxMag (l : List Word) : FV := l.foldl (fun m w => if m.cmp (fmag w) == .lt then fmag w else m) (.fin false 0 0)

/-- Coefficients dropped from the end of a list held last first, while more than one is left (R216 lines 04–05). -/
def trimEnd (lim : FV) : List Word → List Word → List Word × List Word
  | [], dropped => ([], dropped)
  | [c], dropped => ([c], dropped)
  | c :: r, dropped => if (fmag c).cmp lim == .gt then (c :: r, dropped) else trimEnd lim r (c :: dropped)

/-- `Finish`: the coefficients, and whether it sets INX and TRC. -/
def finish (ftol : Nat) (c : List Word) : List Word × Bool × Bool :=
  let t := if c.any notFinite then (c.reverse, []) else trimEnd ((maxMag c).scale (-(ftol : Int))) c.reverse []
  let kept := t.1.reverse
  let dropped := kept.drop 128 ++ t.2
  (kept.take 128, dropped.any fun w => !isZeroW w, decide (128 < kept.length))

/-! ### Series arithmetic (R220–R224) -/

/-- Coefficient `j`; a missing one reads +0. -/
def coefAt (l : List Word) (j : Nat) : FV := fval (l.getD j 0)

/-- `RoundNE(a_j ± b_j)` for every j (R220). -/
def seriesAdd (minus : Bool) (a b : List Word) : List Rounded :=
  (List.range (max a.length b.length)).map fun j =>
    fsum .ne [coefAt a j, if minus then (coefAt b j).negate else coefAt b j]

/-- A coefficient increased by h, as one rounding. -/
def addInto (c : List Word) (r : Nat) (h : Word) : List Word × Bool :=
  let v := fsum .ne [coefAt c r, fval h]
  (c.set r v.1, v.2)

/-- Lines 03–06 of R221 for one i, from j on. -/
def mulRow (x : FV) (i : Nat) : Nat → List Word → List Word × Bool → List Word × Bool
  | _, [], c => c
  | j, y :: ys, c =>
    let h := fsum .ne [((x.mul (fval y)).scale (-1))]
    let p := addInto c.1 (i + j) h.1
    let q := addInto p.1 (if i < j then j - i else i - j) h.1
    mulRow x i (j + 1) ys (q.1, c.2 || h.2 || p.2 || q.2)

/-- Lines 02–07 of R221, from i on. -/
def mulRows (b : List Word) : Nat → List Word → List Word × Bool → List Word × Bool
  | _, [], c => c
  | i, x :: xs, c => mulRows b (i + 1) xs (mulRow (fval x) i 0 b c)

/-- The product of R221, and whether a rounding was inexact. -/
def seriesMul (a b : List Word) : List Word × Bool := mulRows b 0 a (List.replicate (a.length + b.length - 1) 0, false)

/-- The values that `fcomp` carries from step to step: B_(k+1), B_(k+2), INX, TRC. -/
structure CompState where
  b1 : List Word
  b2 : List Word
  inx : Bool
  trc : Bool
  deriving DecidableEq, Repr

/-- `RoundNE(m · P_j − B_j)` for every j. -/
def compStep (m : Nat) (p b2 : List Word) : List Rounded :=
  (List.range (max p.length b2.length)).map fun j => fsum .ne [(coefAt p j).times m, (coefAt b2 j).negate]

/-- Coefficient 0 increased by `a`, and INX. -/
def addConst (q : List Rounded) (a : Word) : List Word × Bool :=
  let r := addInto (values q) 0 a
  (r.1, inexact q || r.2)

/-- Lines 03–06 of R222 for one coefficient of fA. -/
def compLoop (ftol : Nat) (g : List Word) (st : CompState) (a : Word) : CompState :=
  let m := seriesMul g st.b1
  let p := finish ftol m.1
  let q := addConst (compStep 2 p.1 st.b2) a
  let f := finish ftol q.1
  { b1 := f.1, b2 := st.b1, inx := st.inx || m.2 || p.2.1 || q.2 || f.2.1, trc := st.trc || p.2.2 || f.2.2 }

/-- Lines 01–08 of R222: R before its `Finish`; a_0 alone when nA = 1. -/
def compose (ftol : Nat) (a g : List Word) : List Word × Bool × Bool :=
  match a with
  | [] => ([], false, false)
  | [a0] => ([a0], false, false)
  | a0 :: rest =>
    let st := rest.reverse.foldl (compLoop ftol g) ⟨[0], [0], false, false⟩
    let m := seriesMul g st.b1
    let p := finish ftol m.1
    let r := addConst (compStep 1 p.1 st.b2) a0
    (r.1, st.inx || m.2 || p.2.1 || r.2, st.trc || p.2.2)

/-- Half-open sums by RoundUp (R222): S, and INX. -/
def sumUp : List Word → Rounded → Rounded
  | [], s => s
  | b :: r, s =>
    let v := fsum .up [fval s.1, fmag b]
    sumUp r (v.1, s.2 || v.2)

/-- C_j of R223 for j ≥ 1; `w2` is b − a. -/
def integralCoef (a : List Word) (w2 : FV) (j : Nat) : Rounded :=
  if j = 1 then fquot [((coefAt a 0).times 2).mul w2, (coefAt a 2).negate.mul w2] (.fin false 4 0)
  else fquot [(coefAt a (j - 1)).mul w2, (coefAt a (j + 1)).negate.mul w2] (.fin false (4 * j) 0)

/-- The terms (−1)^(j+1) C_j of C_0 (R223). -/
def alternate : Bool → List Word → List FV
  | _, [] => []
  | neg, c :: r => (if neg then (fval c).negate else fval c) :: alternate (!neg) r

/-- `fint` of R223. -/
def seriesInt (a : List Word) (w2 : FV) : List Rounded :=
  let c := (List.range a.length).map fun j => integralCoef a w2 (j + 1)
  fsum .ne (alternate false (values c)) :: c

/-- D_j of R224. -/
def derivCoef (a : List Word) (w2 : FV) (j : Nat) : Rounded :=
  fquot (((List.range a.length).filter fun k => decide (j < k) && (k - j) % 2 == 1).map fun k =>
    (coefAt a k).times (if j = 0 then 2 * k else 4 * k)) w2

/-- `fder` of R224. -/
def seriesDer (a : List Word) (w2 : FV) : List Rounded := (List.range (max (a.length - 1) 1)).map (derivCoef a w2)

/-! ### Evaluation (R225) -/

/-- b − a, exactly. -/
def FReg.width (f : FReg) : FV := sumFV false [fval f.b, (fval f.a).negate]

/-- `RoundNE((2x − a − b)/(b − a))`. -/
def FReg.toUnit (f : FReg) (x : Word) : Rounded := fquot [(fval x).scale 1, (fval f.a).negate, (fval f.b).negate] f.width

/-- Lines 03–06 of R225: (b_(k+1), b_(k+2)) after coefficient c. -/
def clenshawStep (u : FV) (b : Word × Word) (c : Word) : Word × Word :=
  let y := (fsum .ne [(u.scale 1).mul (fval b.1), (fval b.2).negate]).1
  ((fsum .ne [fval y, fval c]).1, b.1)

/-- Line 07 of R225. -/
def clenshawEnd (u : FV) (b : Word × Word) (c0 : Word) : Word :=
  (fsum .ne [fval (fsum .ne [u.mul (fval b.1), (fval b.2).negate]).1, fval c0]).1

/-- `Clenshaw(f, x)` of R225; for n = 1 a −0 becomes +0, whatever the sign of u. There, with u infinite or a NaN, the formula gives a NaN
where the sentence beside it says c_0; the formula is taken (DESIGN CHOICE, log entry 55). -/
def FReg.eval (f : FReg) (x : Word) : Word :=
  let u := fval (f.toUnit x).1
  match f.coef with
  | [] => 0
  | [c0] => let v := clenshawEnd u (0, 0) c0; if v = 0x8000000000000000 then 0 else v
  | c0 :: rest => clenshawEnd u (rest.reverse.foldl (clenshawStep u) (0, 0)) c0

/-! ### Cosines (R227) -/

/-- π · 2^256, rounded down. -/
def piFixed : Nat := 363771576891766324280234942777729862653393377328392429958772151117938894466185

/-- The terms of the cosine series of an angle of square `x2`, from term k on, in units of 2^(−256). -/
def cosTerms (x2 : Nat) : Nat → Nat → Nat → Int
  | 0, _, _ => 0
  | fuel + 1, k, term =>
    let t : Nat := term * x2 / 2 ^ 256 / ((2 * k - 1) * (2 * k))
    (if k % 2 = 1 then -(t : Int) else (t : Int)) + cosTerms x2 fuel (k + 1) t

/-- cos(π · t/d) for 0 < t/d < 1/2, in units of 2^(−256). -/
def cosFixed (t d : Nat) : Nat :=
  let x := piFixed * t / d
  ((2 ^ 256 : Int) + cosTerms (x * x / 2 ^ 256) 40 1 (2 ^ 256)).toNat

/-- `RoundNE(cos(π · num/den))`: rational values are exact, and no other is. -/
def cosPi (num den : Nat) : Rounded :=
  let r := num % (2 * den)
  let t := if den < r then 2 * den - r else r
  let neg := decide (den < 2 * t)
  let t := if neg then den - t else t
  let sign (w : Word) : Word := if neg then w ||| 0x8000000000000000 else w
  if t = 0 then (sign 0x3FF0000000000000, false)
  else if 2 * t = den then (0, false)
  else if 3 * t = den then (sign 0x3FE0000000000000, false)
  else (BitVec.ofNat 64 (Fmt.fp64.ne (.fin neg (cosFixed t den) (-256))), true)

/-- c_j of R227 over the samples `s` (n ≥ 2 of them). -/
def sampCoef (s : List Word) (j : Nat) : Word × Bool :=
  let n := s.length
  let p := (List.range n).map fun m =>
    let k := cosPi (j * m) (n - 1)
    let q := fsum .ne [(coefAt s m).mul (fval k.1)]
    let v := (fval q.1).scale (if m = 0 ∨ m = n - 1 then -1 else 0)
    ((if j % 2 = 1 then v.negate else v).scale (if j = 0 ∨ j = n - 1 then 0 else 1), k.2 || q.2)
  let r := fquot (p.map (·.1)) (.fin false (n - 1) 0)
  (r.1, r.2 || p.any (·.2))

/-- The coefficients of R227 before `Finish`. -/
def sampSeries (s : List Word) : List Rounded :=
  if s.length = 1 then [(s.getD 0 0, false)] else (List.range s.length).map (sampCoef s)

/-! ### Roots (R228) -/

/-- Sign of R228; `none` for NaN. -/
def fsign (w : Word) : Option Int :=
  match fval w with
  | .nan => none
  | .inf n => some (if n then -1 else 1)
  | .fin n m _ => some (if m = 0 then 0 else if n then -1 else 1)

/-- Next of R228. -/
def nextUp (w : Word) : Word := if isZeroW w then 1 else if w.msb then w - 1 else w + 1

/-- x_m of R228. -/
def rootSample (lo hi : Word) (m : Nat) : Word :=
  if m = 0 then lo
  else if m = 256 then hi
  else (fsum .ne [((fval lo).times (256 - m)).scale (-8), ((fval hi).times m).scale (-8)]).1

/-- Lines 04–07 of R228: a sample that is a zero, or the bracket with its sign. -/
inductive RootScan where
  | zero (x : Word)
  | bracket (l r : Word) (s : Int)
  | nothing
  deriving DecidableEq, Repr

/-- The scan over samples (x_m, v_m) in order. -/
def rootScan : List (Word × Word) → RootScan
  | [] => .nothing
  | [(x, v)] => if fsign v = some 0 then .zero x else .nothing
  | (x, v) :: (y, w) :: r =>
    if fsign v = some 0 then .zero x
    else
      match fsign v, fsign w with
      | some p, some q => if q ≠ 0 ∧ p ≠ q then .bracket x y p else rootScan ((y, w) :: r)
      | _, _ => rootScan ((y, w) :: r)

/-- Lines 09–16 of R228; `none` returns NaN. The interval halves, so that 4,096 turns are more than FP64 allows. -/
def bisect (f : FReg) (s : Int) : Nat → Word → Word → Option Word
  | 0, l, _ => some l
  | fuel + 1, l, r =>
    if (fval (nextUp l)).cmp (fval r) != .lt then some l
    else
      let m := (fsum .ne [(fval l).scale (-1), (fval r).scale (-1)]).1
      let m := if (fval m).cmp (fval l) == .eq ∨ (fval m).cmp (fval r) == .eq then nextUp l else m
      match fsign (f.eval m) with
      | none => none
      | some v => if v = 0 then some m else if v = s then bisect f s fuel m r else bisect f s fuel l m

/-- The algorithm of R228; `none` returns NaN. -/
def FReg.root (f : FReg) (lo hi : Word) : Option Word :=
  if (badBound lo hi).isSome then none
  else
    match rootScan ((List.range 257).map fun m => let x := rootSample lo hi m; (x, f.eval x)) with
    | .zero x => some x
    | .bracket l r s => bisect f s 4096 l r
    | .nothing => none

/-! ### Registers and the pool (R214, R215, R341, R345) -/

/-- FTOL of `TSTAT` (R242). -/
def Thread.ftol (t : Thread) : Nat := bits t.tstat 22 16

/-- The bytes of the pool in use by a team (R214). -/
def State.teamPoolUsed (s : State) : Nat := ((s.teamThreads s.cur.id.grid s.cur.id.team).map Thread.poolUsed).sum

/-- A replay of `feval.v` that still reads the register (R187): a later writer waits for it. -/
def Thread.fregHeld (t : Thread) (f : FRegN) : Bool :=
  match t.vreplay with
  | some v => v.entries.any fun e => match e.instr with | .fevalV _ g _ => g == f | _ => false
  | none => false

/-- A function register replaced, with fresh check bits. -/
def State.putFreg (s : State) (d : FRegN) (f : FReg) : State :=
  ({ s with cur := s.cur.setFreg d f } : State).clearError (regErr s.cur.id (16 + d.toNat))

/-- A result of length n stored in fD (R214): without 8n free bytes, trap 0x03 with every register unchanged. -/
def State.produce (s : State) (d : FRegN) (f : FReg) : State :=
  if s.cur.fregHeld d then s.hold
  else if s.myGrid.desc.pool < s.teamPoolUsed + 8 * f.coef.length then s.trapBundle 3 (BitVec.ofNat 64 (8 * f.coef.length))
  else (s.putFreg d f).advance

/-- A finished result on an interval (R104, R216): `ops` are the operand functions, `inx`, `trc` what the operation gathered. -/
def State.finished (s : State) (d : FRegN) (a b : Word) (c : List Word) (inx trc : Bool) (ops : List FReg) : State :=
  let f := finish s.cur.ftol c
  s.produce d ⟨a, b, inx || f.2.1 || ops.any (·.inx), trc || f.2.2 || ops.any (·.trc), f.1⟩

/-- An operand that must not be empty, read by `k` (R215, R345). -/
def State.withFreg (s : State) (f : FRegN) (k : FReg → State) : State :=
  if s.poison.contains (regErr s.cur.id (16 + f.toNat)) then s.raiseFault 0x1A 5 0
  else if (s.cur.freg f).coef.isEmpty then s.raiseFault 0x16 0x0D 0
  else k (s.cur.freg f)

/-- Two operands on one interval (R215, R340). -/
def State.withPair (s : State) (opcode : Nat) (a b : FRegN) (k : FReg → FReg → State) : State :=
  s.withFreg a fun x => s.withFreg b fun y =>
    if x.a ≠ y.a then s.raiseFault 0x17 opcode x.a
    else if x.b ≠ y.b then s.raiseFault 0x17 opcode x.b
    else k x y

/-! ### Images (R103, R217) -/

/-- CONTROL of R103. -/
def FReg.control (f : FReg) : Word :=
  BitVec.ofNat 64 (f.coef.length + (if f.inx then 2 ^ 8 else 0) + (if f.trc then 2 ^ 9 else 0))

/-- The image of R103. -/
def FReg.image (f : FReg) : List Word := if f.coef.isEmpty then [0, 0, 0, 0] else f.a :: f.b :: f.control :: 0 :: f.coef

/-- What R217 refuses in the first 32 bytes of an image: FVAL is N, or the bound. -/
def imageBad (h : List Word) : Option Word :=
  let n := bits (h.getD 2 0) 7 0
  if 128 < n ∨ bits (h.getD 2 0) 63 10 ≠ 0 ∨ h.getD 3 0 ≠ 0 then some (BitVec.ofNat 64 n)
  else if n = 0 then none else badBound (h.getD 0 0) (h.getD 1 0)

/-- The function of an image. -/
def FReg.ofImage (l : List Word) : FReg :=
  let c := l.getD 2 0
  if bits c 7 0 = 0 then FReg.empty
  else ⟨l.getD 0 0, l.getD 1 0, c.getLsbD 8, c.getLsbD 9, (l.drop 4).take (bits c 7 0)⟩

/-- N of an image. -/
def imageCount (h : List Word) : Nat := bits (h.getD 2 0) 7 0

/-- N of the image at an address as memory now holds it, 0 where it cannot be read, or too large. It only says how many bytes a load asks
for before it has read N. -/
def State.guessCount (s : State) (ea : Word) : Nat :=
  match s.keyNow s.cur.id.grid (locOf (eaPlus ea 16)) with
  | some k => let n := bits (s.load (s.mapKey k) 8) 7 0; if n ≤ 128 then n else 0
  | none => 0

/-- Do the checks of an access to an image with `n` coefficients pass? -/
def State.imageCheck (s : State) (ea : Word) (n : Nat) : Check × State := s.check ea true 15 3 false (unitOffsets (32 + 8 * n) 8)

/-- The words of an image up to the `n`-th read behind those at hand: the function, or the machine in which the bundle
waits for them. -/
def State.takeImage (s : State) (d : FRegN) (ea : Word) (h : List Word) (n : Nat) : State :=
  let r := s.readSync (eaPlus ea (8 * h.length)) 15 3 (n - h.length) .l
  match r.1 with
  | .stopped t => t
  | .words w => r.2.produce d (FReg.ofImage (h ++ w))

/-- `fld.f` of R217, one load of 32 + 8N bytes with no order among its units, and so also none in which N comes first: it asks for as many
bytes as it takes the image to have, and for the rest where the image that came has more. What its pages meet comes before what R217
refuses (R329). -/
def State.loadFreg (s : State) (d : FRegN) (a : Reg) (off : BitVec 11) : State :=
  let ea := effAddr (s.reg a) off.toInt
  match (s.cur.got.filter fun g => g.1 == ea).getLast? with
  | some (_, h) =>
    let n := imageCount h
    let c := s.imageCheck ea n
    match c.1 with
    | .fault _ _ _ => c.2.stop 0 c.1
    | .absent _ => c.2.stop 0 c.1
    | _ =>
      match imageBad h with
      | some v => s.raiseFault 0x16 0x0D v
      | none => if n + 4 ≤ h.length then s.produce d (FReg.ofImage h) else s.takeImage d ea h (n + 4)
  | none =>
    let n := s.guessCount ea
    s.takeImage d ea [] (match (s.imageCheck ea n).1 with | .ok _ => n + 4 | _ => 4)

/-- `fld.f` of R217. -/
def execFldF (fd : FRegN) (a : Reg) (off : BitVec 11) (s : State) : Out := .next (s.loadFreg fd a off)

/-- `fst.f` of R217, one store. -/
def execFstF (a : Reg) (off : BitVec 11) (fb : FRegN) (s : State) : Out :=
  let l := (s.cur.freg fb).image
  .next (if s.poison.contains (regErr s.cur.id (16 + fb.toNat)) then s.raiseFault 0x1A 5 0
    else s.access (effAddr (s.reg a) off.toInt)
      { viewOk := true, szLog := 15, alignLog := 3, needW := true, kind := 1,
        units := (unitOffsets (8 * l.length) 8).map fun o => (o, 8), op := .write, data := joinWords l, dest := .none,
        isLoad := false, isStore := true, counter := .s, parks := false, migrates := true })

/-! ### Building and inspecting (R218, R219) -/

/-- c_j replaced, the gap filled with +0 (R218). -/
def setCoef (c : List Word) (j : Nat) (v : Word) : List Word := (c ++ List.replicate (j + 1 - c.length) 0).set j v

/-- `fset` of R218. -/
def execFset (fd : FRegN) (a : Reg) (j : BitVec 7) (s : State) : Out :=
  .next (s.withFreg fd fun f => s.produce fd { f with coef := setCoef f.coef j.toNat (s.reg a) })

/-- `fdom` of R218. -/
def execFdom (fd : FRegN) (a b : Reg) (s : State) : Out :=
  .next (match badBound (s.reg a) (s.reg b) with
    | some v => s.raiseFault 0x16 0x0D v
    | none =>
      let f := s.cur.freg fd
      if s.poison.contains (regErr s.cur.id (16 + fd.toNat)) then s.raiseFault 0x1A 5 0
      else if f.coef.isEmpty then s.produce fd ⟨s.reg a, s.reg b, false, false, [0]⟩
      else s.produce fd { f with a := s.reg a, b := s.reg b })

/-- `flen` of R219; an empty fA is accepted. -/
def execFlen (d : Reg) (fa : FRegN) (s : State) : Out :=
  .next (if s.poison.contains (regErr s.cur.id (16 + fa.toNat)) then s.raiseFault 0x1A 5 0
    else (s.setReg d (s.cur.freg fa).control).advance)

/-- `ftrunc` of R219. -/
def execFtrunc (fd fa : FRegN) (n : BitVec 8) (s : State) : Out :=
  .next (s.withFreg fa fun f =>
    s.produce fd { f with coef := f.coef.take n.toNat, inx := f.inx || (f.coef.drop n.toNat).any fun w => !isZeroW w })

/-! ### Arithmetic on whole functions (R220–R224) -/

/-- `fadd.f` of R220. -/
def execFaddF (fd fa fb : FRegN) (s : State) : Out :=
  .next (s.withPair 0x44 fa fb fun x y =>
    let c := seriesAdd false x.coef y.coef
    s.finished fd x.a x.b (values c) (inexact c) false [x, y])

/-- `fsub.f` of R220. -/
def execFsubF (fd fa fb : FRegN) (s : State) : Out :=
  .next (s.withPair 0x45 fa fb fun x y =>
    let c := seriesAdd true x.coef y.coef
    s.finished fd x.a x.b (values c) (inexact c) false [x, y])

/-- `fmul.f` of R221. -/
def execFmulF (fd fa fb : FRegN) (s : State) : Out :=
  .next (s.withPair 0x46 fa fb fun x y =>
    let c := seriesMul x.coef y.coef
    s.finished fd x.a x.b c.1 c.2 false [x, y])

/-- `fscl` of R220. -/
def execFscl (fd fa : FRegN) (b : Reg) (s : State) : Out :=
  .next (s.withFreg fa fun x =>
    let c := x.coef.map fun w => fsum .ne [(fval w).mul (fval (s.reg b))]
    s.finished fd x.a x.b (values c) (inexact c) false [x])

/-- `fcomp` of R222. -/
def State.compFreg (s : State) (d : FRegN) (x y : FReg) : State :=
  let b0 := y.coef.getD 0 0
  let sm := sumUp (y.coef.drop 1) (0, false)
  let lo := fsum .down [fval b0, (fval sm.1).negate]
  let hi := fsum .up [fval b0, fval sm.1]
  let ordered := (fval lo.1 != .nan) && (fval hi.1 != .nan) && (fval x.a != .nan) && (fval x.b != .nan)
  let inside := ordered && (fval x.a).cmp (fval lo.1) != .gt && (fval hi.1).cmp (fval x.b) != .gt
  if !inside then
    s.raiseFault 0x17 0x48 (if fval lo.1 != .nan ∧ fval x.a != .nan ∧ (fval lo.1).cmp (fval x.a) = .lt then lo.1 else hi.1)
  else
    let g := x.toUnit b0 :: (y.coef.drop 1).map fun w => fquot [(fval w).scale 1] x.width
    let r := compose s.cur.ftol x.coef (values g)
    s.finished d y.a y.b r.1 (sm.2 || lo.2 || hi.2 || inexact g || r.2.1) r.2.2 [x, y]

/-- `fcomp` of R222. -/
def execFcomp (fd fa fb : FRegN) (s : State) : Out := .next (s.withFreg fa fun x => s.withFreg fb fun y => s.compFreg fd x y)

/-- `fint` of R223. -/
def execFint (fd fa : FRegN) (s : State) : Out :=
  .next (s.withFreg fa fun x =>
    let c := seriesInt x.coef x.width
    s.finished fd x.a x.b (values c) (inexact c) false [x])

/-- `fder` of R224. -/
def execFder (fd fa : FRegN) (s : State) : Out :=
  .next (s.withFreg fa fun x =>
    let c := seriesDer x.coef x.width
    s.finished fd x.a x.b (values c) (inexact c) false [x])

/-! ### Evaluation, sampling, roots (R225–R228) -/

/-- `feval` of R225. -/
def execFeval (d : Reg) (fa : FRegN) (b : Reg) (s : State) : Out :=
  .next (s.withFreg fa fun f => (s.setReg d (f.eval (s.reg b))).advance)

/-- An element converted to FP64 (R226, R227), exactly. -/
def toFp64 (t : Elem) (x : Nat) : Word := BitVec.ofNat 64 (Elem.convert x t .fp64)

/-- The body of `feval.v` (R226): fA as it stands, held unwritten while replays read it. -/
def fevalVBody (td tb : Nat) (fa : FRegN) (e : Entry) (id : Tid) (s : State) : State :=
  s.withFreg fa fun f =>
    let t := s.tileElem id td
    let u := s.tileElem id tb
    let l := ((rowElems (s.readRow id tb (e.rows.getD 1 0)) u).take (min u.count t.count)).map fun x =>
      Elem.convert (f.eval (toFp64 u x)).toNat .fp64 t
    s.writeRow id td (e.rows.getD 0 0) (rowWith (s.readRow id td (e.rows.getD 0 0)) t.size l)

/-- `feval.v` of R226. -/
def execFevalV (rd : RowOp) (fa : FRegN) (rb : RowOp) (s : State) : Out :=
  .next (s.entry (.fevalV rd fa rb) [] (fevalVBody (tileNo rd) (tileNo rb) fa))

/-- `fsamp` of R227. -/
def execFsamp (fd : FRegN) (rb : RowOp) (n : BitVec 8) (s : State) : Out :=
  .next (match s.vecStop (tileNo rb) [(tileNo rb, s.rowNo rb)] with
    | some t => t
    | none =>
      s.withFreg fd fun f =>
        let u := s.tileElem s.cur.id (tileNo rb)
        if u.count < n.toNat then s.raiseFault 0x16 0x0D (BitVec.ofNat 64 n.toNat)
        else
          let s := s.correctRows s.cur.id [(tileNo rb, s.rowNo rb)]
          let c := sampSeries (((rowElems (s.readRow s.cur.id (tileNo rb) (s.rowNo rb)) u).take n.toNat).map (toFp64 u))
          s.finished fd f.a f.b (values c) (inexact c) false [])

/-- `froot` of R228: NaN sets NR. -/
def execFroot (d : Reg) (fa : FRegN) (b c : Reg) (s : State) : Out :=
  .next (s.withFreg fa fun f =>
    match f.root (s.reg b) (s.reg c) with
    | some v => (s.setReg d v).advance
    | none =>
      let s := s.setReg d 0x7FF8000000000000
      ({ s with cur := { s.cur with tstat := s.cur.tstat ||| 0x100 } } : State).advance)

end Sys2Proof.Machine
end

