-- ==== Sys2Proof/Machine/Marks.lean ====
section
/-! DEFINITION. Marks (R100, R101, R204–R213): regions, ticks, fading, and the six mark instructions as issued. The home
performs them in Sys2Proof/Machine/Home.lean. -/

namespace Sys2Proof.Machine

/-! ### Regions and ticks -/

/-- EN of a region's high half (R204). -/
def regionOn (hi : Word) : Bool := bits hi 47 47 == 1

/-- A region read from its two halves (R204). -/
def Region.ofHalves (n : Nat) (lo hi : Word) : Region :=
  { num := n, base := bits lo 43 0 * 256, size := (bits lo 61 44 + 1) * 256, origin := bits hi 41 0, nexp := bits hi 46 42,
    k := bits hi 55 48 }

/-- Does a region's range hold a location? -/
def Region.holds (r : Region) (loc : Nat) : Bool := decide (r.base ≤ loc) && decide (loc < r.base + r.size)

/-- The lowest-numbered enabled region that holds a location (R206), from number `n` on. -/
def findRegion (loc : Nat) : Nat → List (Word × Word) → Option Region
  | _, [] => none
  | n, (lo, hi) :: r =>
    if regionOn hi && (Region.ofHalves n lo hi).holds loc then some (Region.ofHalves n lo hi) else findRegion loc (n + 1) r

/-- The region of a location in a grid (R206). -/
def Grid.region (g : Grid) (loc : Nat) : Option Region := findRegion loc 0 g.mreg

/-- (c − ORIGIN′) modulo 2^42: R207 depends on the origin only so far. -/
def Region.since (r : Region) (c : Word) : Nat := (c.toNat + 2 ^ 64 - r.origin) % 2 ^ 42

/-- The tick of R207, modulo 4,096. -/
def Region.tick (r : Region) (c : Word) : Nat := r.since c / 2 ^ r.nexp % 4096

/-- `Fade` iterated (R101). -/
def fadeN (k : Nat) : Nat → Nat → Nat
  | 0, v => v
  | e + 1, v => fadeN k e (v * (256 - k) / 256)

/-- VALUE of a mark word (R100). -/
def markValue (w : Nat) : Nat := w / 2 ^ 16 % 2 ^ 16

/-- STAMP of a mark word (R100). -/
def markStamp (w : Nat) : Nat := w / 16 % 4096

/-- The word of a value and a stamp, bits [3:0] zero (R100). -/
def markWord (v t : Nat) : Nat := v * 2 ^ 16 + t % 4096 * 16

/-- The value that `Normalize` keeps (R101): one fade for each tick since the stamp. -/
def fadedValue (w k t : Nat) : Nat := fadeN k ((t % 4096 + 4096 - markStamp w) % 4096) (markValue w)

/-- `Normalize` of R101. -/
def normalize (w k t : Nat) : Nat := markWord (fadedValue w k t) t

/-- VALUE written by a mark operation on a normalised value (R209). -/
def markNew (f : MarkFn) (v a : Nat) : Nat :=
  match f with
  | .depAdd => min (v + a) 65535
  | .depMax => max v a
  | .clr => 0
  | .rd => v

/-! ### Operations on one word (R206, R209) -/

/-- A mark operation issued: it needs W (R334), it carries the region's descriptor (R205), and a word in no enabled region is
a violation (R330). -/
def State.markAccess (s : State) (a : Reg) (off : BitVec 11) (f : MarkFn) (amount opcode : Nat) (dest : Dest) : State :=
  let ea := effAddr (s.reg a) off.toInt
  let load := match f with | .rd => true | _ => false
  let r := s.check ea true 2 2 true [0]
  match r.1 with
  | .ok keys =>
    match r.2.myGrid.region (locOf ea) with
    | none => r.2.raiseFault 0x18 opcode ea
    | some rg =>
      (r.2.send (.mark f amount rg) (mkPieces ea 0 (zipUnits keys [(0, 4)])) dest true (!load) (if load then .l else .s) ea).advance
  | .queueWindow _ => r.2.raiseFault 0x18 opcode ea
  | c => r.2.stop (if load then 0 else 1) c

/-- The amount of R209. -/
def State.amount (s : State) (b : Reg) : Nat := min (s.reg b).toNat 65535

/-- `mdep.add` of R209. -/
def execMdepAdd (a : Reg) (off : BitVec 11) (b : Reg) (s : State) : Out :=
  .next (s.markAccess a off .depAdd (s.amount b) 0x30 .none)

/-- `mdep.max` of R209. -/
def execMdepMax (a : Reg) (off : BitVec 11) (b : Reg) (s : State) : Out :=
  .next (s.markAccess a off .depMax (s.amount b) 0x31 .none)

/-- `mrd` of R209. -/
def execMrd (d a : Reg) (off : BitVec 11) (s : State) : Out := .next (s.markAccess a off .rd 0 0x33 (.raw d))

/-- `mclr` of R209. -/
def execMclr (a : Reg) (off : BitVec 11) (s : State) : Out := .next (s.markAccess a off .clr 0 0x34 .none)

/-! ### `msense` (R210–R212) -/

/-- The cells of the fixed stencils, (dx, dy) in index order (R210). -/
def stencil (st : BitVec 3) : List (Int × Int) :=
  match st.toNat with
  | 0 => [-1, 0, 1].flatMap fun y => [-1, 0, 1].map fun x => (x, y)
  | 1 => [-2, -1, 0, 1, 2].flatMap fun y => [-2, -1, 0, 1, 2].map fun x => (x, y)
  | 2 => [(0, -1), (-1, 0), (0, 0), (1, 0), (0, 1)]
  | _ => [(0, -1), (1, -1), (1, 0), (1, 1), (0, 1), (-1, 1), (-1, 0), (-1, -1)]

/-- Byte `n` of a list of words in memory order. -/
def listByte (l : List Word) (n : Nat) : BitVec 8 := (l.getD (n / 8) 0).extractLsb' (8 * (n % 8)) 8

/-- The pair list of R211: PITCH and the cells; `none` for one it refuses. -/
def pairList (l : List Word) : Option (Nat × List (Int × Int)) :=
  let count := bits (l.getD 0 0) 15 0
  let pitch := bits (l.getD 0 0) 31 16
  if count = 0 ∨ 16 < count ∨ pitch % 4 ≠ 0 ∨ bits (l.getD 0 0) 63 32 ≠ 0 ∨ l.getD 1 0 ≠ 0 ∨ l.getD 2 0 ≠ 0 ∨ l.getD 3 0 ≠ 0 then none
  else some (pitch, (List.range count).map fun j => ((listByte l (32 + 2 * j)).toInt, (listByte l (33 + 2 * j)).toInt))

/-- The effective address of a cell (R210). -/
def cellAddr (centre : Word) (pitch : Nat) (c : Int × Int) : Word := effAddr centre (c.2 * pitch + 4 * c.1)

/-- The cells of a sense that lie in an enabled region: index, effective address, region. One in no region is skipped (R212), and whether
its page is mapped or present is not asked, though R211 has all cells translated (DESIGN CHOICE, log entry 70). -/
def namedCells (g : Grid) (centre : Word) (pitch : Nat) : Nat → List (Int × Int) → List (Nat × Word × Region)
  | _, [] => []
  | i, c :: r =>
    let ea := cellAddr centre pitch c
    match g.region (locOf ea) with
    | some rg => (i, ea, rg) :: namedCells g centre pitch (i + 1) r
    | none => namedCells g centre pitch (i + 1) r

/-- The patches that keys lie in, each once, in the order of first appearance. -/
def patchesOf : List Nat → List Nat
  | [] => []
  | k :: r => (k / 256) :: (patchesOf r).filter (· != k / 256)

/-- The cells with their keys and the number of their patch's event. -/
def senseCells (ps : List Nat) : List (Nat × Word × Region) → List Nat → List Cell
  | (i, _, rg) :: cs, k :: ks => ⟨i, ps.idxOf (k / 256), k, rg⟩ :: senseCells ps cs ks
  | _, _ => []

/-- A place put in the order of its address: the lowest byte is the one reported (R329). -/
def insertPlace (x : Word × Place) : List (Word × Place) → List (Word × Place)
  | [] => [x]
  | y :: r => if locOf x.1 < locOf y.1 then x :: y :: r else y :: insertPlace x r

/-- The keys of places that are all mapped. -/
def placeKeys (l : List (Word × Place)) : List Nat := l.filterMap fun p => match p.2 with | .mem k _ _ => some k | _ => none

/-- The pieces of a sense, one for each patch, at the address of the first cell that lies in it. -/
def sensePieces (ps : List Nat) (named : List (Nat × Word × Region)) (keys : List Nat) : List Piece :=
  ps.map fun x => pieceAt (((named.zip keys).find? fun c => c.2 / 256 == x).map (·.1.2.1) |>.getD 0) (x * 256) 256 0

/-- The sense over its cells: every cell that is not skipped is translated and checked before any event (R211), and what a cell's page meets comes before
the operand error of R210 (R329); with every cell skipped `sD` is written at once (R212). -/
def State.senseOver (s : State) (d : Reg) (centre : Word) (pitch : Nat) (cells : List (Int × Int)) : State :=
  let named := namedCells s.myGrid centre pitch 0 cells
  let skipped := cells.length - named.length
  let p := s.places s.cur.id.grid (named.map (·.2.1))
  match checkPlaces true (p.1.foldr insertPlace []) with
  | .ok l =>
    let keys := placeKeys p.1
    let ps := patchesOf keys
    if pitch % 4 ≠ 0 then p.2.raiseFault 0x16 0x0C (BitVec.ofNat 64 pitch)
    else if l.isEmpty then (p.2.setReg d (BitVec.ofNat 64 (31 * 2 ^ 16 + skipped * 2 ^ 22))).advance
    else (p.2.send (.sense (senseCells ps named keys) skipped) (sensePieces ps named keys) (.sense d) true false .l centre).advance
  | .queueWindow _ => p.2.hold
  | c => p.2.stop 0 c

/-- A condition of the centre or the list of a sense: the lower address of those that meet it (R329). -/
def lowerOf (a b : Option (Word × Nat)) : Option (Word × Nat) :=
  match a, b with
  | some x, some y => if locOf y.1 < locOf x.1 then some y else some x
  | some x, none => some x
  | none, y => y

/-- `msense` of R210–R212. The views and alignments of the centre and of the list come before all else (R329). -/
def State.msense (s : State) (d a b : Reg) (st : BitVec 3) : State :=
  let centre := effAddr (s.reg a) 0
  let list := effAddr (s.reg b) 0
  let pairs := st.toNat == 4
  let bad := fun (p : Word → Nat → Bool) =>
    lowerOf (if p centre 2 then some (centre, 2) else none) (if pairs && p list 6 then some (list, 6) else none)
  match bad fun ea _ => decide (6 ≤ viewOf ea) with
  | some (ea, z) => s.raiseFault 0x13 (viewOf ea + 16 * z) ea
  | none =>
    match bad fun ea z => locOf ea % 2 ^ z != 0 with
    | some (ea, z) => s.raiseFault 0x12 (16 * z) ea
    | none =>
      if pairs then
        let r := s.readSync list 6 6 8 .none
        match r.1 with
        | .stopped t => t
        | .words l =>
          match pairList l with
          | none => r.2.raiseFault 0x16 0x0C list
          | some (pitch, cells) => r.2.senseOver d centre pitch cells
      else s.senseOver d centre (bits (s.reg b) 15 0) (stencil st)

/-- `msense` of R210–R212. -/
def execMsense (d a b : Reg) (st : BitVec 3) (s : State) : Out := .next (s.msense d a b st)

/-! ### `mtick` (R213) -/

/-- The smallest cycle after `c` at which a tick of a region begins (R213). -/
def Region.nextTick (r : Region) (c : Word) : Word := c + BitVec.ofNat 64 (2 ^ r.nexp - r.since c % 2 ^ r.nexp)

/-- A region descriptor of a grid, enabled or not. -/
def Grid.regionNo (g : Grid) (n : Nat) : Region := let h := g.mreg.getD n (0, 0); Region.ofHalves n h.1 h.2

/-- `mtick` of R213. -/
def execMtick (d : Reg) (rg : BitVec 3) (s : State) : Out :=
  .next (s.setReg d ((s.myGrid.regionNo rg.toNat).nextTick s.obs)).advance

end Sys2Proof.Machine
end

