-- ==== Sys2Proof/Machine/Launch.lean ====
section
/-! DEFINITION. Launch descriptors, their tables and checks, and the grid that the referee queues for one (R41, R42, R205, R237,
R238, R274, R291, R342). -/

namespace Sys2Proof.Machine

/-! ### Descriptors and tables -/

/-- The descriptor in sixteen words (R237). -/
def Descriptor.ofWords (l : List Word) : Descriptor :=
  { entry := l.getD 0 0, done := l.getD 1 0, shape := l.getD 2 0, flags := l.getD 3 0, tvec := l.getD 4 0, mregp := l.getD 5 0,
    dwin := l.getD 6 0, args := (l.drop 7).take 7, rsv := (l.drop 14).take 2 }

/-- Is a bit set that the descriptor's layout reserves (R237)? -/
def Descriptor.reservedBad (d : Descriptor) : Bool := bits d.shape 63 58 != 0 || bits d.flags 63 13 != 0 || d.rsv.any (· != 0)

/-- Is a reserved bit set or a field out of range (R237, R246)? -/
def Descriptor.fieldBad (d : Descriptor) : Bool :=
  d.reservedBad || bits d.entry 2 0 != 0 || bits d.done 2 0 != 0 ||
  bits d.tvec 2 0 != 0 || bits d.tvec 63 56 != 0 || decide (16 < d.tiles) ||
  decide (64 < bits d.shape 27 21) || decide (64 < bits d.shape 34 28) || decide (512 < bits d.shape 44 35) ||
  decide (4096 < d.spill) || decide (4 < d.steal) || decide (4 < d.court)

/-- Two halves from consecutive words. -/
def pairUp : List Word → List (Word × Word)
  | a :: b :: r => (a, b) :: pairUp r
  | _ => []

/-- The reset value of `MREG0`–`MREG7` but for ORIGIN (R204). -/
def mregReset : List (Word × Word) := List.replicate 8 (0, 0x280000000000)

/-- Enabled regions that R205 refuses. A region whose bytes end just below location 0xF_0000_0000_0000 is accepted: whether it
"extends to" that location is the model's reading (log entry 45). -/
def mregBad (l : List (Word × Word)) : Bool :=
  let on := (l.filter fun p => regionOn p.2).map fun p => Region.ofHalves 0 p.1 p.2
  on.any (fun r => decide (r.nexp < 10) || decide (30 < r.nexp) || decide (windowBase < r.base + r.size)) ||
  decide (2 ^ 26 < (on.map (·.size)).sum)

/-- A region table that cannot be used: reserved bits (R204), or what R205 refuses of a `wrsr`. R237 does not say that such a launch is
rejected, nor how (DESIGN CHOICE, log entry 73). -/
def regionTableBad (l : List (Word × Word)) : Bool := (l.any fun p => bits p.1 63 62 != 0 || bits p.2 63 56 != 0) || mregBad l

/-- A double window of a table entry (R238); `none` for one that is not valid. -/
def DWindow.ofEntry (p : Word × Word) : Option DWindow :=
  if p.1.getLsbD 0 then some ⟨p.1.getLsbD 1, bits p.1 63 12 * 4096, p.2.toNat, false, 0, []⟩ else none

/-- Do two windows overlap? -/
def DWindow.overlaps (x y : DWindow) : Bool :=
  x.spad == y.spad && decide (x.off < y.off + 2 * y.len) && decide (y.off < x.off + 2 * x.len)

/-- Does some window overlap a later one? -/
def anyOverlap : List DWindow → Bool
  | [] => false
  | w :: r => r.any w.overlaps || anyOverlap r

/-- A double-window table that R238 refuses. -/
def Descriptor.windowsBad (d : Descriptor) (l : List (Word × Word)) : Bool :=
  let ws := l.filterMap DWindow.ofEntry
  (l.any fun p => p.1.getLsbD 0 && bits p.1 11 2 != 0) || anyOverlap ws ||
  ws.any fun w => w.len == 0 || w.len % 4096 != 0 || decide ((if w.spad then d.spad else d.tcm) < w.off + 2 * w.len)

/-- What refuses a launch (R237, R342): the DETAIL, of several conditions the lowest, where the spec gives no order (DESIGN CHOICE, log
entry 71). `parent` is the launching grid of a device-side launch. -/
def launchBad (parent : Option Grid) (d : Descriptor) (regions windows : List (Word × Word)) : Option Nat :=
  let ws := windows.filterMap DWindow.ofEntry
  let inTcm := ((ws.filter fun w => !w.spad).map fun w => 2 * w.len).sum
  let lacks := match parent with | some g => (d.flag 8 && !g.desc.flag 8) || (d.flag 9 && !g.desc.flag 9) | none => false
  let deep := match parent with | some g => decide (15 ≤ g.depth) | none => false
  if d.fieldBad || regionTableBad regions then some 1
  else if lacks then some 2
  else if d.side ≠ 0 ∧ d.nteam % (d.side * d.side) ≠ 0 then some 3
  else if d.tcm < 64 * d.spill + inTcm then some 4
  else if deep then some 5
  else if d.windowsBad windows then some 6
  else none

/-! ### The grid queued -/

/-- A number that no live grid has (R42): the referee's choice (log entry 1). While live grids hold all of them there is none, and the
launch waits (log entry 42). -/
def State.gridNumber (s : State) : Option Nat × State :=
  let d := s.draw
  let n := d.1 % 32767
  let used := s.grids.map (·.num)
  (((List.range 32767).find? fun i => !used.contains ((n + i) % 32767 + 1)).map fun i => (n + i) % 32767 + 1, d.2)

/-- Does breakpoint `k` match an entry address on a queue (R291)? -/
def HostRegs.matches (h : HostRegs) (k : Nat) (entry : Word) (q : Nat) : Bool :=
  let a := h.cpba.getD k 0
  let c := h.cpbc.getD k 0
  let me := c.getLsbD 17
  let mq := c.getLsbD 18
  c.getLsbD 16 && (me || mq) && (!me || bits a 55 3 == bits entry 55 3) && (!mq || bits c 10 0 == q)

/-- The breakpoints that match. -/
def HostRegs.breakpoints (h : HostRegs) (entry : Word) (q : Nat) : List Nat := (List.range 4).filter fun k => h.matches k entry q

/-- Is an entry or a child launch held that breakpoint `k` has matched (R291)? -/
def State.holding (s : State) (k : Nat) : Bool := (s.queues.any fun q => q.held.contains k) || s.grids.any fun g => g.held.contains k

/-- HIT of the four breakpoints as what is held gives it (R291). -/
def State.setHits (s : State) : State :=
  { s with host := { s.host with cpbc := s.host.cpbc.mapIdx fun k c => setBits c 19 19 (if s.holding k then 1 else 0) } }

/-- What breakpoint `k` holds let go (R274, R291). -/
def State.letGo (s : State) (k : Nat) : State :=
  { s with queues := s.queues.map fun q => if q.held.contains k then { q with held := [] } else q,
           grids := s.grids.map fun g => if g.held.contains k then { g with held := [] } else g }

/-- `CALLIX` of a child (R42). -/
def callIndex (who : Tid) (index : BitVec 32) : Word :=
  BitVec.ofNat 64 (2 ^ 63 + who.grid % 2 ^ 15 * 2 ^ 48 + who.team * 2 ^ 35 + who.thread * 2 ^ 32 + index.toNat)

/-- The grid of a checked descriptor, ready since a cycle (R258, R266), once there is a number for it. -/
def State.queueGrid (s : State) (q prio : Nat) (parent : Option Grid) (callix : Word) (d : Descriptor)
    (regions : List (Word × Word)) (windows : List DWindow) (entry : Option (Nat × Nat)) (ready : Word) : Option (Nat × State) :=
  let c := s.gridNumber
  c.1.map fun n =>
  let s := c.2
  let g : Grid :=
    { Grid.vacant with
      num := n, queue := q, prio := prio, parent := parent.map (·.num), callix := callix,
      depth := match parent with | some p => p.depth + 1 | none => 0,
      desc := d, regions := regions, windows := windows, readyAt := ready, consumed := ready, entry := entry }
  (n, { s with grids := s.grids ++ [g] })

/-- A child grid (R41, R258): its parent's queue and priority; matching breakpoints hold it, with interrupt cause 3 (R274). -/
def State.queueChild (s : State) (who : Tid) (d : Descriptor) (regions : List (Word × Word)) (windows : List DWindow)
    (callix ready : Word) : Option State :=
  let p := s.gridD who.grid
  (s.queueGrid p.queue p.prio (some p) callix d regions windows none ready).map fun r =>
  match r.2.host.breakpoints d.entry p.queue with
  | [] => r.2
  | ks => (r.2.modGrid r.1 fun g => { g with held := ks }).setHits.interrupt 3 p.queue

/-! ### `launch` (R237) -/

/-- log2 of the bytes of a table of `n` words (R330). -/
def tableLog (n : Nat) : Nat := Nat.log2 (8 * n)

/-- What stops the reading of a table of the launching thread's grid; an address of 0 names none. -/
def State.tableStop (s : State) (ea : Word) (n : Nat) : Option State :=
  if ea = 0 then none
  else
    let r := s.check (effAddr ea 0) true (tableLog n) 3 false (unitOffsets (8 * n) 8)
    match r.1 with
    | .fault _ _ _ => some (r.2.stop 0 r.1)
    | .absent _ => some (r.2.stop 0 r.1)
    | _ => none

/-- A table, read as a load of the bundle; an address of 0 gives the default. R237 and R320 give its alignment no number, and the model
asks for 8 bytes (DESIGN CHOICE, log entry 72). -/
def State.launchTable (s : State) (ea : Word) (n : Nat) (none_ : List (Word × Word)) : Except State (List (Word × Word)) × State :=
  if ea = 0 then (.ok none_, s)
  else
    let r := s.readSync (effAddr ea 0) (tableLog n) 3 n .none
    match r.1 with
    | .stopped t => (.error t, s)
    | .words l => (.ok (pairUp l), r.2)

/-- The effect of a launch whose descriptor has passed its checks: at commit in replay mode (R327). -/
def State.launchChild (s : State) (d : Descriptor) (regions : List (Word × Word)) (windows : List DWindow) : State :=
  let me := s.cur.id
  let callix := callIndex me s.cur.launches
  let up : State := { s with cur := { s.cur with launches := s.cur.launches + 1, got := [] } }
  if s.myGrid.replayOn then
    (up.deferred (.launch me d regions windows callix)).advance
  else
    match up.queueChild me d regions windows callix s.cycle with
    | some t => t.advance
    | none => s.hold

/-- Has the release of the `launch` at which a thread stands completed (R237)? It stands among what the bundle has read. -/
def Thread.hasReleased (t : Thread) : Bool := t.got.any fun g => g.2.isEmpty

/-- The release of a `launch` made, and the wait until it completes (R41, R237). -/
def State.releaseFirst (s : State) : State :=
  if s.cur.phaseFull then s.hold
  else
    let r := s.release 4
    { r with cur := { r.cur with wait := .released s.fresh, got := [(0, [])] }, aborted := true }

/-- The tables of a descriptor read, and the checks of R237 and R238. -/
def State.launchDesc (s : State) (ea : Word) (d : Descriptor) : State :=
  match firstStop ((s.tableStop d.mregp 16).toList ++ (s.tableStop d.dwin 8).toList) with
  | some t => t
  | none =>
    let m := s.launchTable d.mregp 16 mregReset
    match m.1 with
    | .error t => t
    | .ok regions =>
      let w := m.2.launchTable d.dwin 8 []
      match w.1 with
      | .error t => t
      | .ok windows =>
        match launchBad (some w.2.myGrid) d regions windows with
        | some detail => w.2.raiseFault 0x24 detail ea
        | none => w.2.launchChild d regions (windows.filterMap DWindow.ofEntry)

/-- `launch` of R237: its release is performed first; then the descriptor is read and checked, and the bundle is whole. -/
def State.launch (s : State) (a : Reg) : State :=
  let ea := effAddr (s.reg a) 0
  let c := s.check ea true 7 6 false []
  match c.1 with
  | .fault _ _ _ => c.2.stop 0 c.1
  | _ =>
    if !s.cur.hasReleased then s.releaseFirst
    else
      let r := s.readSync ea 7 6 16 .none
      match r.1 with
      | .stopped t => t
      | .words l => r.2.launchDesc ea (Descriptor.ofWords l)

/-- `launch` of R237. -/
def execLaunch (a : Reg) (s : State) : Out := .next (s.launch a)

end Sys2Proof.Machine
end

