-- ==== Sys2Proof/Machine/Sync.lean ====
section
/-! DEFINITION. Fences, persistence fences, `waitc`, `hint`, `publ`, `sleep`, `yield`, `prog` (R74–R76, R83–R85, R155–R158,
R166, R167, R233, R236), as issued. A waiting thread keeps its PC at the bundle (R43); Issue.lean says when its wait is over. -/

namespace Sys2Proof.Machine

/-- The issuing thread waits at its bundle. -/
def State.await (s : State) (w : Wait) : State := { s with cur := { s.cur with wait := w } }

/-- `fence.acq` of R75: later accesses wait until the earlier loads are performed. What read streams have fetched ahead stays for later
pops, as R160 lets elements be read before them; R75 does not say whether an acquire discards it (DESIGN CHOICE, log entry 56). -/
def execFenceAcq (_sc : BitVec 3) (s : State) : Out :=
  .next (if s.allPerformed s.cur.id s.fresh true then s.advance else s.await (.performed s.fresh true))

/-- The release of a fence, and for `fence.full` the wait until it completes (R75, R78). -/
def State.fence (s : State) (scope : Nat) (full : Bool) : State :=
  let r := s.release scope
  if full then r.await (.performed s.fresh false) else r.advance

/-- A fence that releases: under the phase limit it waits at its bundle, whose arithmetic slot has taken effect (R155). -/
def State.fenceOrWait (s : State) (scope : Nat) (full : Bool) : State :=
  if s.cur.phaseFull then s.await (.fence scope full) else s.fence scope full

/-- `fence.rel` of R75, R78: it waits only when it would close a fourth phase. -/
def execFenceRel (sc : BitVec 3) (s : State) : Out := .next (s.fenceOrWait sc.toNat false)

/-- `fence.full` of R75: it waits until its release completes. -/
def execFenceFull (sc : BitVec 3) (s : State) : Out := .next (s.fenceOrWait sc.toNat true)

/-- An effect kept for the commit of a replay-mode chunk (R327); the thread waits for it. -/
def State.deferWait (s : State) (d : Deferred) : State :=
  (s.deferred d).await .commit

/-- `pfence tile` of R84: the core's state is saved once the bundle's arithmetic slot has taken effect (R155). -/
def execPfenceTile (s : State) : Out :=
  .next (if s.myGrid.replayOn then s.deferWait (.pfence s.cur.id false) else s.await .pfenceTile)

/-- `pfence keep` of R85: it waits for the copy and matrix counters first. -/
def execPfenceKeep (s : State) : Out :=
  .next (if s.myGrid.replayOn then s.deferWait (.pfence s.cur.id true) else s.await (.pfenceKeep s.fresh false))

/-- Are the counters at or below the immediates of `waitc` (R157)? -/
def Thread.countersBelow (t : Thread) (l s c m : BitVec 6) : Bool :=
  decide (t.cntL ≤ l) && decide (t.cntS ≤ s) && decide (t.cntC ≤ c) && decide (t.cntM ≤ m)

/-- `waitc` of R157. -/
def execWaitc (l sn cn m : BitVec 6) (s : State) : Out :=
  .next (if s.cur.countersBelow l sn cn m then s.advance else s.await (.waitc l sn cn m))

/-- The part of a hint range outside [lo, hi). -/
def Hint.minus (h : Hint) (lo hi : Nat) : List Hint :=
  (if h.base < lo then [{ h with len := min (h.base + h.len) lo - h.base }] else []) ++
  (if hi < h.base + h.len then [{ h with base := max h.base hi, len := h.base + h.len - max h.base hi }] else [])

/-- At most 16 ranges, the oldest replaced (R158). -/
def capHints (l : List Hint) : List Hint := l.drop (l.length - 16)

/-- The ranges of a grid after a `hint` (R158): widened to 256 bytes. Kind `none` may cut one range into two, of which the later is
the one added. -/
def hintRanges (old : List Hint) (k : BitVec 2) (loc len : Nat) : List Hint :=
  if len = 0 then []
  else
    let lo := loc / 256 * 256
    let hi := (loc + len + 255) / 256 * 256
    capHints (if k = 0 then old.flatMap fun h => h.minus lo hi else old ++ [⟨lo, hi - lo, k⟩])

/-- `hint` of R158: not an access. DETAIL of its view misuse holds 15 in [7:4], since no access has a size (DESIGN CHOICE, log entry 76). -/
def execHint (k : BitVec 2) (a b : Reg) (s : State) : Out :=
  let ea := effAddr (s.reg a) 0
  .next (if 6 ≤ viewOf ea then s.raiseFault 0x13 (viewOf ea + 16 * 15) ea
         else (s.modGrid s.cur.id.grid fun g => { g with hints := hintRanges g.hints k (locOf ea) (s.reg b).toNat }).advance)

/-- `publ` of R83, R166. -/
def execPubl (a : Reg) (s : State) : Out :=
  let ea := effAddr (s.reg a) 0
  .next (if 6 ≤ viewOf ea then s.raiseFault 0x13 (viewOf ea + 16 * 15) ea
         else if s.myGrid.replayOn then s.deferWait (.publ s.cur.id (locOf ea))
         else s.await (.publ .counters s.fresh (locOf ea)))

/-- `sleep` of R167: a value that is not greater than CYCLE does not park. -/
def execSleep (a : Reg) (s : State) : Out :=
  let v := s.reg a
  .next (if v ≤ s.obs then s.advance else s.await (.sleep v (s.cur.promises.any fun p => decide (v ≤ p.2))))

/-- `yield` of R233: not ready in the next cycle if another slot is. -/
def execYield (s : State) : Out := .next { s with cur := { s.cur with yieldUntil := s.cycle + 1, pc := s.cur.pc + 8 } }

/-- `prog` of R236. -/
def execProg (s : State) : Out := .next s.markLive.advance

end Sys2Proof.Machine
end

