-- ==== Sys2Proof/Machine/System.lean ====
section
/-! DEFINITION. System registers (R240–R247, R205, R356), traps, breakpoints, `tret` and `halt` (R248–R251, R273). -/

namespace Sys2Proof.Machine

/-! ### Reading -/

/-- One bit as a number. -/
def bit (b : Bool) (n : Nat) : Nat := if b then 2 ^ n else 0

/-- `MODE` of R244, as read on a core. -/
def State.modeReg (s : State) (g : Grid) (core : Nat) : Word :=
  let d := g.desc
  BitVec.ofNat 64 (bit g.replayOn 0 + bit g.swapOn 1 + bit g.migrOn 2 + bit (d.flag 7) 3 + bit (s.cluster (clusterOf core)).fast 4 +
    s.host.budgetInForce.toNat * 2 ^ 5 + d.steal * 2 ^ 8 + bit (d.flag 3) 11 + bit (d.flag 8) 12 + bit (d.flag 9) 13 +
    d.court * 2 ^ 14 + g.depth % 16 * 2 ^ 17)

/-- `OUTCNT` of R243. -/
def Thread.outcnt (t : Thread) : Word :=
  BitVec.ofNat 64 (t.cntL.toNat + t.cntS.toNat * 2 ^ 8 + t.cntC.toNat * 2 ^ 16 + t.cntM.toNat * 2 ^ 24)

/-- The record that a core's matrix unit runs. -/
def Core.command (c : Core) : Option MRec := c.mq.head?.filter (·.running)

/-- Is a matrix unit active (R203)? It is until the 16 steps of its step-down are over (R270). -/
def UnitState.on : UnitState → Bool
  | .active _ => true
  | .steppingDown _ => true
  | _ => false

/-- `MQWIN` of R245, for a reader of a team. -/
def Core.mqwin (c : Core) (g l : Nat) : Word :=
  let act := c.unit.on
  let kind := match c.command with | some r => r.kind | none => 0
  BitVec.ofNat 64 (c.mq.length % 2 ^ 4 + (c.mq.filter fun r => r.tid.grid == g && r.tid.team == l).length % 2 ^ 4 * 2 ^ 4 + bit act 8 +
    kind % 2 ^ 8 * 2 ^ 16)

/-- `ROWPROG` of R245: 0 unless the command belongs to the reader's team. -/
def Core.rowprog (c : Core) (g l : Nat) : Word :=
  match c.command with
  | some r => if r.tid.grid = g ∧ r.tid.team = l then BitVec.ofNat 64 (r.rows % 2 ^ 7 + 2 ^ 7 + r.kind % 2 ^ 8 * 2 ^ 8 + r.tc % 2 ^ 4 * 2 ^ 16) else 0
  | none => 0

/-- `BANKPART` of R64. -/
def Bank.partReg (b : Bank) : Word := BitVec.ofNat 64 (b.w + bit b.busy.isSome 4 + b.cur * 2 ^ 8)

/-- Half `h` of `MREGi` (R204). -/
def Grid.mregHalf (g : Grid) (n : Nat) : Word := let p := g.mreg.getD (n / 2) (0, 0); if n % 2 = 0 then p.1 else p.2

/-- A system register as the issuing thread reads it at issue (R118, R240, R241). -/
def State.sysreg (s : State) (n : Nat) : Word :=
  let t := s.cur
  let g := s.myGrid
  match n with
  | 0x000 => s.obs
  | 0x001 => BitVec.ofNat 64 t.id.team
  | 0x002 => BitVec.ofNat 64 t.id.thread
  | 0x003 => BitVec.ofNat 64 g.desc.nteam
  | 0x004 => BitVec.ofNat 64 t.id.grid
  | 0x005 => g.callix
  | 0x006 => s.modeReg g t.core
  | 0x008 => t.tstat
  | 0x009 => t.outcnt
  | 0x010 => t.tvec
  | 0x011 => t.tcause
  | 0x012 => t.tpc
  | 0x013 => t.tval
  | 0x020 => (s.core s.teamCore).mqwin t.id.grid t.id.team
  | 0x021 => (s.core s.teamCore).rowprog t.id.grid t.id.team
  | 0x040 => (s.bank (clusterOf t.core)).partReg
  | 0x041 => (s.queue g.queue).lat.setWidth 64
  | 0x0F0 => BitVec.ofNat 64 (t.core + t.slot * 2 ^ 13 + s.host.pkgnum.toNat * 2 ^ 16)
  | _ => if 0x030 ≤ n ∧ n ≤ 0x03F then g.mregHalf (n - 0x030) else 0

/-- `rdsr` of R240. `BANKPART` is loaded at the bank (R356); `PHYS` needs PRIV (R241). A floating-point result and an NR are
written at issue, so the hold of R134 and R307 is over. -/
def execRdsr (d : Reg) (n : BitVec 12) (s : State) : Out :=
  .next (if n = 0x0F0 ∧ !s.myGrid.desc.flag 9 then s.raiseFault 0x25 1 (n.setWidth 64)
    else if n = 0x040 then
      (s.send .bankRead [piece (bankKey s.host.pkgnum.toNat (clusterOf s.cur.core)) 8 0] (.raw d) true false .l 0).advance
    else (s.setReg d (s.sysreg n.toNat)).advance)

/-! ### Writing -/

/-- Is the register read-only (R241)? -/
def readOnlyReg (n : Nat) : Bool := [0x000, 0x001, 0x002, 0x003, 0x004, 0x005, 0x006, 0x009, 0x020, 0x021, 0x041, 0x0F0].contains n

/-- Bits of a word replaced where a mask is set: reserved and read-only fields keep their values (R240). -/
def maskWrite (old v mask : Word) : Word := (old &&& ~~~mask) ||| (v &&& mask)

/-- Half `n` of the region descriptors written (R204). -/
def setHalf (l : List (Word × Word)) (n : Nat) (v : Word) : List (Word × Word) :=
  let p := l.getD (n / 2) (0, 0)
  l.set (n / 2) (if n % 2 = 0 then (maskWrite p.1 v 0x3FFFFFFFFFFFFFFF, p.2) else (p.1, maskWrite p.2 v 0x00FFFFFFFFFFFFFF))

/-- The region descriptors once the writes under way have been applied, those of this innings' chunks at their commits (R205, R327). -/
def Grid.mregAfter (g : Grid) : List (Word × Word) :=
  let chunk := g.replay.deferred.filterMap fun d => match d with | .mreg n v => some (n, v) | _ => none
  ((g.mregPend.map fun p => (p.1, p.2.1)) ++ chunk).foldl (fun l p => setHalf l p.1 p.2) g.mreg

/-- A `wrsr` of `MREGi` (R205): refused, or waiting for the referee's common cycle, at commit in replay mode (R327). -/
def State.writeMreg (s : State) (n : Nat) (v : Word) : State :=
  if mregBad (setHalf s.myGrid.mregAfter n v) then s.raiseFault 0x16 0x0B v
  else if s.myGrid.replayOn then s.deferWait (.mreg n v)
  else
    (s.modGrid s.cur.id.grid fun g => { g with mregPend := g.mregPend ++ [(n, v, s.cur.id)] }).await .mregWrite

/-- A `wrsr BANKPART`: a store to the bank that the thread waits for (R356). -/
def State.writeBank (s : State) (v : Word) : State :=
  if s.myGrid.replayOn then s.deferWait (.bank s.cur.core s.cur.id v)
  else
    let id := s.fresh
    (s.send (.bankWrite v) [piece (bankKey s.host.pkgnum.toNat (clusterOf s.cur.core)) 8 v] .none false true .s 0).await (.bankWrite id)

/-- A register of the thread written in its writable fields (R242, R246). -/
def Thread.writeSys (t : Thread) (n : Nat) (v : Word) : Thread :=
  match n with
  | 0x008 => { t with tstat := maskWrite t.tstat v 0x7F01FF }
  | 0x010 => { t with tvec := maskWrite t.tvec v 0x00FFFFFFFFFFFFF8 }
  | 0x011 => { t with tcause := maskWrite t.tcause v 0x1FFFFF }
  | 0x012 => { t with tpc := v }
  | 0x013 => { t with tval := v }
  | _ => t

/-- `wrsr` of R240. -/
def execWrsr (n : BitVec 12) (a : Reg) (s : State) : Out :=
  let v := s.reg a
  .next (if readOnlyReg n.toNat then s.raiseFault 0x25 0 (n.setWidth 64)
    else if n = 0x040 then (if s.myGrid.desc.flag 8 then s.writeBank v else s.raiseFault 0x25 1 0x040)
    else if 0x030 ≤ n.toNat ∧ n.toNat ≤ 0x03F then s.writeMreg (n.toNat - 0x030) v
    else ({ s with cur := s.cur.writeSys n.toNat v } : State).advance)

/-! ### Traps, breakpoints, `halt` -/

/-- A cross-trigger halt (R273, R292): WHY 1 host, 2 `brk`, 3 `halt`; interrupt cause 7. -/
def State.haltCluster (s : State) (cl why who : Nat) : State :=
  let c := s.cluster cl
  if c.halted then s
  else (s.setCluster { c with halted := true, why := BitVec.ofNat 3 why, who := BitVec.ofNat 3 who }).interrupt 7 cl

/-- `trap` of R248: the instruction completes and enters the handler, or the trap becomes a fault (R313). -/
def execTrap (i : BitVec 13) (s : State) : Out := .next (s.takeTrap 5 i.toNat 0 (s.cur.pc + 8))

/-- `brk` of R248, R249. -/
def execBrk (i : BitVec 13) (s : State) : Out :=
  let cl := clusterOf s.cur.core
  let k := coreInCluster s.cur.core
  .next (if (s.cluster cl).arm.getLsbD k then s.advance.haltCluster cl 2 k else s.takeTrap 4 i.toNat 0 (s.cur.pc + 8))

/-- What a thread's `tret` lets go on (R337, R339): its matrix command, its copies, its replays. -/
def State.afterTret (s : State) : State :=
  let me := s.cur.id
  let free := fun r : MRec => if r.untilTret ∧ r.tid = me then { r with untilTret := false } else r
  let goOn := fun v : VReplay => { v with untilTret := false }
  { s with cores := s.cores.map fun c => { c with mq := c.mq.map free },
           copies := s.copies.map fun c => if c.untilTret ∧ c.tid = me then { c with untilTret := false } else c,
           cur := { s.cur with vreplay := s.cur.vreplay.map goOn } }

/-- `tret` of R250; of two conditions the misaligned target is reported (R329). -/
def execTret (s : State) : Out :=
  .next (if bits s.cur.tpc 2 0 ≠ 0 then s.raiseFault 0x12 0x30 s.cur.tpc
    else if !s.cur.hm then s.raiseFault 0x22 0 0
    else ({ s with cur := s.cur.leaveHandler } : State).afterTret)

/-- Is a debugger attached to a cluster (R251)? One that has armed a breakpoint is; otherwise the spec leaves it open
(log entry 13). -/
def State.debuggerAttached (s : State) (cl : Nat) : Bool × State :=
  if (s.cluster cl).arm ≠ 0 then (true, s)
  else
    let d := s.draw
    (d.1 % 2 == 1, d.2)

/-- `halt` of R251. -/
def execHalt (s : State) : Out :=
  let cl := clusterOf s.cur.core
  let d := s.debuggerAttached cl
  .next (if d.1 then d.2.advance.haltCluster cl 3 (coreInCluster s.cur.core) else d.2.stopFault 3 0x26 0 0)

end Sys2Proof.Machine
end

