-- ==== Sys2Proof/Machine/Control.lean ====
section
/-! DEFINITION. Branches and jumps (R143–R145). -/

namespace Sys2Proof.Machine

/-- The PC moved by a number of bundles (R109). -/
def pcRel (pc : Word) {n : Nat} (o : BitVec n) : Word := pc + 8 * o.signExtend 64

/-- A branch of R143: the target when the condition holds, else the next bundle. -/
def State.branch (s : State) (t : Bool) (o : BitVec 17) : State :=
  if t then { s with cur := { s.cur with pc := pcRel s.cur.pc o } } else s.advance

/-- `b.eq` of R143. -/
def execBEq (a b : Reg) (o : BitVec 17) (s : State) : Out := .next (s.branch (s.reg a == s.reg b) o)

/-- `b.ne` of R143. -/
def execBNe (a b : Reg) (o : BitVec 17) (s : State) : Out := .next (s.branch (s.reg a != s.reg b) o)

/-- `b.lt` of R143, signed. -/
def execBLt (a b : Reg) (o : BitVec 17) (s : State) : Out := .next (s.branch ((s.reg a).slt (s.reg b)) o)

/-- `b.ge` of R143, signed. -/
def execBGe (a b : Reg) (o : BitVec 17) (s : State) : Out := .next (s.branch (!(s.reg a).slt (s.reg b)) o)

/-- `b.ltu` of R143, unsigned. -/
def execBLtu (a b : Reg) (o : BitVec 17) (s : State) : Out := .next (s.branch ((s.reg a).ult (s.reg b)) o)

/-- `b.geu` of R143, unsigned. -/
def execBGeu (a b : Reg) (o : BitVec 17) (s : State) : Out := .next (s.branch (!(s.reg a).ult (s.reg b)) o)

/-- `jal` of R144. -/
def execJal (d : Reg) (o : BitVec 21) (s : State) : Out :=
  .next { s with cur := { s.cur.setReg d (s.cur.pc + 8) with pc := pcRel s.cur.pc o } }

/-- `jr` of R144: a target that is no multiple of 8 is a fault, reported with the `jr` (R145, R330, R333). -/
def execJr (d a : Reg) (i : BitVec 13) (s : State) : Out :=
  let target := s.reg a + i.signExtend 64
  if bits target 2 0 ≠ 0 then .next (s.raiseFault 0x12 0x30 target)
  else .next { s with cur := { s.cur.setReg d (s.cur.pc + 8) with pc := target } }

end Sys2Proof.Machine
end

