-- ==== Sys2Proof/Machine/Threads.lean ====
section
/-! DEFINITION. `fork`, `next`, `join`, `exit`, `migr` (R32–R40, R230–R235, R265): tasks, deques, steals, and how a thread ends. -/

namespace Sys2Proof.Machine

/-! ### Tasks -/

/-- The capacity of a team's deque (R32): floor(64 · n / 8) hardware entries and the spill depth. -/
def dequeCap (nthread spill : Nat) : Nat := 64 * nthread / 8 + spill

/-- Tasks of a team issued and not yet pushed (R35): they count as present. -/
def Grid.pendingPushes (g : Grid) (team : Nat) : Nat :=
  (g.pushes.filter fun p => p.tid.team == team).length +
  (g.replay.deferred.filter fun d => match d with | .push t _ => t == team | _ => false).length

/-- A task pushed at the bottom of a team's deque (R33), stamped (R265). The last of the list is the bottom. -/
def State.pushTask (s : State) (g l : Nat) (t : Task) (stamp : Word) : State :=
  s.modTeam g l fun x => { x with deque := x.deque ++ [{ t with stamp := stamp }] }

/-- `fork` of R230, R33: the task is pushed once its release is performed; at commit in replay mode (R264). -/
def State.fork (s : State) (o : BitVec 21) : State :=
  let me := s.cur.id
  let g := s.myGrid
  let cap := dequeCap s.myTeam.nthread s.myTeam.spill
  if cap ≤ s.myTeam.deque.length + g.pendingPushes me.team then s.raiseFault 0x23 0 (BitVec.ofNat 64 cap)
  else
    let task : Task := ⟨pcRel s.cur.pc o, s.reg 4, s.reg 5, s.reg 6, s.reg 7, 0⟩
    if g.replayOn then
      (s.deferred (.push me.team task)).advance
    else if s.cur.phaseFull then s.hold
    else
      ((s.modGrid me.grid fun x => { x with pushes := x.pushes ++ [⟨me, s.fresh, task⟩] }).release g.desc.steal).advance

/-- `fork` of R230. -/
def execFork (o : BitVec 21) (s : State) : Out := .next (s.fork o)

/-- The task of the issuing thread completes (R265, R323). -/
def State.taskDone (s : State) : State :=
  match s.cur.taskAt with
  | none => s
  | some since =>
    let now := s.obs
    let s := s.modGrid s.cur.id.grid fun g => { g with tasks := g.tasks + 1, run := g.run + (now - since).toNat }
    let s := s.markLive
    { s with cur := { s.cur with taskAt := none } }

/-- Teams from which the issuing thread may steal (R34, R264), first in the order of their numbers after its own. -/
def State.victims (s : State) : List Team :=
  let me := s.cur.id
  let g := s.myGrid
  let n := g.desc.nteam
  ((List.range n).map fun i => (me.team + 1 + i) % n).filterMap fun l =>
    match s.team? me.grid l with
    | some t =>
      match t.core with
      | some c => if l ≠ me.team ∧ inScope g.desc.steal s.cur.core c then some t else none
      | none => none
    | none => none

/-- A list begun at another place. -/
def rotateList {α : Type} (n : Nat) (l : List α) : List α := l.drop (n % (l.length + 1)) ++ l.take (n % (l.length + 1))

/-- The victims in the order in which they are probed: not architected (R34), but that of R264 in replay mode. -/
def State.probeOrder (s : State) : List Team × State :=
  if s.myGrid.replayOn then (s.victims, s)
  else
    let d := s.draw
    (rotateList d.1 s.victims, d.2)

/-- What probing finds: the empty deques met before a task, then the team and the task. -/
def probe : List Team → Nat × Option (Nat × Task)
  | [] => (0, none)
  | t :: r =>
    match t.deque with
    | x :: _ => (0, some (t.lteam, x))
    | [] => let p := probe r; (p.1 + 1, p.2)

/-- A register written outside a bundle's slots, as by an obtained task (R232): a write stream appends, a read stream discards. -/
def State.writeTaskReg (s : State) (p : Appends) (r : Reg) (v : Word) : State :=
  match s.cur.stream? r with
  | some x => if x.write then s.append p r v else s
  | none => s.setReg r v

/-- The issuing thread continues with a task (R34, R265), once the acquire that this is has its loads performed (R75, R76). -/
def State.runTask (s : State) (p : Appends) (t : Task) (since : Word) : State :=
  let now := s.obs
  let s := s.modGrid s.cur.id.grid fun g =>
    { g with qwait := g.qwait + (now - t.stamp).toNat, search := g.search + (now - since).toNat }
  let w := if s.allPerformed s.cur.id s.fresh true then Wait.running else .acquire s.fresh
  let s := (((s.writeTaskReg p 4 t.s4).writeTaskReg p 5 t.s5).writeTaskReg p 6 t.s6).writeTaskReg p 7 t.s7
  { s with cur := { s.cur with taskAt := some now, wait := w, pc := t.pc, half := none } }

/-- A team's deque read (R344, R345): an error of one bit corrected, or the fault of an uncorrectable one, with which the bundle has no
effect on `before` (R309). -/
def State.readDeque (s before : State) (l : Nat) (k : State → State) : State :=
  let n := regErr ⟨s.cur.id.grid, l, 0⟩ 32
  if s.poison.contains n then (before.drawnAs s).raiseFault 0x1A 5 0
  else k (s.correctPlace n 5 ((s.teamD s.cur.id.grid l).core.getD 0) 0)

/-- A `next` that looks for a task (R34): its own team's bottom task, else the top task of a victim, else it parks. -/
def State.seekNow (s before : State) (p : Appends) (since : Word) : State :=
  let me := s.cur.id
  match s.myTeam.deque.getLast? with
  | some t => s.readDeque before me.team fun s => (s.modTeam me.grid me.team fun x => { x with deque := x.deque.dropLast }).runTask p t since
  | none =>
    let o := s.probeOrder
    let q := probe o.1
    let s := o.2.modGrid me.grid fun g => { g with failed := g.failed + q.1 }
    match q.2 with
    | some (l, t) => s.readDeque before l fun s =>
      let s := s.modTeam me.grid l fun x => { x with deque := x.deque.drop 1 }
      (s.modGrid me.grid fun g => { g with steals := g.steals + 1 }).runTask p t since
    | none => { s with cur := { s.cur with wait := .next since } }

/-- Does a deque that the thread may take from hold a task (R34)? -/
def State.taskInReach (s : State) : Bool := !s.myTeam.deque.isEmpty || s.victims.any fun t => !t.deque.isEmpty

/-- The registers among s4–s7 to which a task's values would append (R232). -/
def Thread.taskAppends (t : Thread) : List Reg := [4, 5, 6, 7].filter fun r => (t.appendsTo r).isSome

/-- The appends of a task within reach, checked before it is taken (R232, R339). -/
def State.seekAppends (s : State) : Appends := if s.taskInReach then s.planAppends s.cur s.cur.taskAppends else .empty s

/-- Is there no room in the store counter for the appends of a task (R156)? -/
def Thread.seekFull (t : Thread) : Bool := decide (63 < t.cntS.toNat + t.taskAppends.length)

/-- A waiting `next` that looks again (R34). One that fault service stops goes on looking after it. -/
def State.seekTask (s : State) (since : Word) : State :=
  if s.cur.seekFull then s
  else
    let p := s.seekAppends
    match firstStop p.stops with
    | none => (s.drawnAs p.after).seekNow s p since
    | some t =>
      if s.carveWaits t false then s
      else
      match t.cur.wait with
      | .service n => { t with fs := t.fs.map fun x => if x.token = n then { x with who := .seek s.cur.id since } else x, aborted := false }
      | _ => { t with aborted := false }

/-- `next` of R232, R34. -/
def execNext (s : State) : Out :=
  .next (if s.cur.seekFull then s.hold
         else
           let p := s.seekAppends
           match firstStop p.stops with
           | some t => t
           | none => (s.drawnAs p.after).taskDone.seekNow s p s.obs)

/-! ### `join`, `exit`, `migr` -/

/-- The wait of a `join` in place of that of a full/empty operation. -/
def State.joining (s : State) : State :=
  match s.cur.wait with
  | .word id => { s with cur := { s.cur with wait := .joining id s.obs } }
  | _ => s

/-- The access of `join` (R231): the continuation waits for its acknowledgement. -/
def State.joinAccess (s : State) (a : Reg) : State :=
  (s.access (effAddr (s.reg a) 0)
    { viewOk := true, szLog := 3, alignLog := 3, needW := true, kind := 1, units := [(0, 8)], op := .join, data := 0, dest := .none,
      isLoad := true, isStore := true, counter := .s, parks := true, migrates := true }).joining

/-- `join` of R231, R36: a release at the steal domain, then the decrement. -/
def execJoin (a : Reg) (s : State) : Out :=
  let sc := s.myGrid.desc.steal
  .next (if s.cur.phaseFull then s.hold
         else
           let r := (s.release sc).joinAccess a
           if r.aborted then s.joinAccess a else r)

/-- `exit` of R234: the release, and the end once it is performed. -/
def execExit (s : State) : Out :=
  .next (if s.cur.phaseFull then s.hold
         else
           let s := s.taskDone.release 4
           s.await (.exiting s.fresh))

/-- A thread at its end (R28, R234): streams freed, pool space released, the result queue discarded. -/
def Thread.finish (t : Thread) : Thread :=
  let t := (((t.freeStream 4).freeStream 5).freeStream 6).freeStream 7
  { t with wait := .ended, fregs := Vector.replicate 8 FReg.empty, resq := [], taskAt := none, vreplay := none }

/-- The move of a `migr` whose thread has no request counted, or none (R235); it waits for the thread's closed phases (R78). -/
def State.migrMove (s : State) (v : Nat) : State :=
  let t := s.cur
  let on : State := { s with cur := t.goOn }
  match (s.teamD t.id.grid v).core with
  | none => on
  | some c =>
    if !s.myGrid.migrOn || s.anchored t || c == t.core then on
    else
      match s.freeSlot t c with
      | none => on
      | some n => if t.closed.isEmpty then on.depart c n none else s.await (.migr v)

/-- `migr` of R235: the thread waits at its bundle until its load and store counters are zero. -/
def State.migr (s : State) (a : Reg) : State :=
  let v := s.reg a
  if s.myGrid.desc.nteam ≤ v.toNat then s.raiseFault 0x16 0x0E v
  else if s.cur.cntL = 0 ∧ s.cur.cntS = 0 then s.migrMove v.toNat
  else s.await (.migr v.toNat)

/-- `migr` of R235. -/
def execMigr (a : Reg) (s : State) : Out := .next (s.migr a)

end Sys2Proof.Machine
end

