-- ==== Sys2Proof/Machine/Home.lean ====
section
/-! DEFINITION. What homes do with requests (R31, R70–R73, R78, R150–R154, R206–R212, R356, R357), and what comes back to the
thread: replies, acknowledgements, completed phases, arrivals, wakes (R30, R37, R39, R47, R156). Each step whose object or
condition is missing leaves the machine as it is. -/

namespace Sys2Proof.Machine

/-! ### Time and places -/

/-- The cycle that a thread observes (R263): in replay mode that of its team's turn in the innings, whose first or last cycle stands
while another team's chunk runs. -/
def State.obsOf (s : State) (t : Thread) : Word :=
  let g := s.gridD t.id.grid
  let r := g.replay
  if g.replayOn then
    g.start + BitVec.ofNat 64 (512 * r.innings + (if t.id.team < r.team then 512 else if r.team < t.id.team then 0 else r.turn))
  else s.cycle

/-- The cycle whose tick a mark operation takes (R206, R207): in replay mode the first cycle of the innings. -/
def State.markCycle (s : State) (g : Nat) : Word :=
  let x := s.gridD g
  if x.replayOn then x.start + BitVec.ofNat 64 (512 * x.replay.innings) else s.cycle

/-- May a core's threads act now: it is in run and enters no other power state (R267, R268)? -/
def State.coreAwake (s : State) (c : Nat) : Bool := (s.core c).power == .run && (s.core c).entering.isNone

/-! ### The sweeper (R208) -/

/-- A mark word that R206 gives to a region normalised, where its stamp is more than 2,048 ticks old; its content stays. -/
def State.sweepWord (s : State) (g : Nat) (r : Region) (w : Nat) : State :=
  match (s.keyNow g (r.base + 4 * w)).filter fun _ => ((s.gridD g).region (r.base + 4 * w)).any fun x => x.num == r.num with
  | some k0 =>
    let k := s.mapKey k0
    let t := r.tick (s.markCycle g)
    let v := s.loadNat k 4
    if decide (2048 < (t + 4096 - markStamp v) % 4096) && !s.poisoned k 4 then s.store k 4 (normalize v r.k t) else s
  | none => s

/-- Is region `n` of a grid enabled? -/
def Grid.sweeps (g : Grid) (n : Nat) : Bool := regionOn (g.mreg.getD n (0, 0)).2

/-- All words of a region swept. -/
def State.sweepRegion (s : State) (g : Nat) (r : Region) : State :=
  (List.range (r.size / 4)).foldl (fun t w => t.sweepWord g r w) s

/-- The regions of a grid swept whose tick ends with a cycle: `ends` says so. -/
def State.sweepGrid (s : State) (g : Grid) (ends : Region → Bool) : State :=
  (List.range 8).foldl (fun t n => if g.sweeps n && ends (g.regionNo n) then t.sweepRegion g.num (g.regionNo n) else t) s

/-! ### The fabric -/

/-- The request with a number. -/
def State.req? (s : State) (n : Nat) : Option Req := s.fabric.find? fun r => r.id == n

/-- A request changed. -/
def State.modReq (s : State) (n : Nat) (f : Req → Req) : State :=
  { s with fabric := s.fabric.map fun r => if r.id = n then f r else r }

/-- A request gone. -/
def State.dropReq (s : State) (n : Nat) : State := { s with fabric := s.fabric.filter fun r => r.id != n }

/-- Are all pieces performed? -/
def Req.performed (r : Req) : Bool := r.pieces.all (·.done)

/-- Do two pieces touch a common byte? -/
def Piece.overlaps (p q : Piece) : Bool := decide (p.key < q.key + q.len) && decide (q.key < p.key + p.len)

/-- Is a piece not yet performed? -/
def Req.open_ (r : Req) : Bool := r.pieces.any fun q => !q.done

/-- Must a request be performed after the earlier request `e` of its thread (R73)? Each counts as one access, also `ld.q` and `st.q`
(R71). An element that a read stream fetches is performed after every earlier store (R160). -/
def State.orderedAfter (s : State) (r e : Req) : Bool :=
  let touch := fun (f : Piece → Piece → Bool) => r.pieces.any fun p => e.pieces.any fun q => f p q
  (r.isLoad && touch Piece.overlaps) || (r.dest.isStream && e.isStore) ||
  (r.isStore && (e.isLoad || touch fun p q => p.overlaps q || s.siteOf p.key == s.siteOf q.key))

/-- Must a request wait for the reads of a fill that its thread has queued before it? They are loads for R73
(R200; what that asks of the thread's later accesses is DESIGN CHOICE, log entry 77). -/
def State.fillWait (s : State) (r : Req) : Bool :=
  (s.fillsBefore r.tid r.id).any fun f =>
    r.isStore || (r.isLoad && (s.fillUnits f).any fun u => r.pieces.any fun p => p.overlaps (piece u.1 u.2 0))

/-- Does a request wait for an earlier access of its own thread (R73), other than those of its replays? -/
def State.ownWait (s : State) (r : Req) : Bool :=
  s.fillWait r || s.fabric.any fun e => decide (e.id < r.id) && e.tid == r.tid && e.open_ && s.orderedAfter r e

/-- Must a request wait for a replayed access that counts as issued before it (R73, R187)? -/
def State.replayWait (s : State) (r : Req) : Bool :=
  match s.thread? r.tid with
  | none => false
  | some t =>
    (s.replayUnits t r.id).any fun u => r.pieces.any fun p =>
      let q := piece u.2.1 u.2.2 0
      (r.isLoad && p.overlaps q) || (r.dest.isStream && u.1) || (r.isStore && (!u.1 || p.overlaps q || s.siteOf p.key == s.siteOf q.key))

/-- Does a home hold the access because an earlier phase of its source has not completed (R78)? -/
def State.phaseHeld (s : State) (r : Req) : Bool :=
  r.isStore && match s.thread? r.tid with | some t => t.closed.any fun c => decide (c.upto ≤ r.id) | none => false

/-- Does a running reach program hold the accesses to a key (R294)? -/
def State.reachHeld (s : State) (k : Nat) : Bool :=
  s.inDram k &&
    (let a := s.stackOf (k % 2 ^ 40)
     let r := s.reachOf a.1
     r.run && decide (bits r.rbase 35 8 * 256 ≤ a.2) && decide (a.2 < bits r.rbase 35 8 * 256 + bits r.rlen 35 8 * 256))

/-- How the carve-out of a key stands (R65, R357); other keys are in force. -/
def State.carveState (s : State) (k : Nat) : CarveCheck :=
  if 2 ^ 55 ≤ k ∧ k < 2 ^ 56 then (s.bank ((k - 2 ^ 55) / 2 ^ 24)).check (k % 2 ^ 24) else .ok

/-- Does a home hold a request once it has arrived there, whatever the carve-outs (R78, R294)? -/
def State.homeKeeps (s : State) (r : Req) (p : Piece) : Bool := s.phaseHeld r || s.reachHeld p.key

/-- Is an access held at its home, once it has arrived there (R65, R78, R294)? One to the TCM of a core that is gated is served all the
same (R269). -/
def State.homeHolds (s : State) (r : Req) (p : Piece) : Bool := s.homeKeeps r p || s.carveState p.key == .hold

/-- Has a request arrived at a home that holds it? To a bank whose carve-out grows it has once it is noted there (R65). -/
def State.heldThere (s : State) (r : Req) (p : Piece) : Bool := s.homeKeeps r p || (r.held && s.carveState p.key == .hold)

/-- Has a request of the same source been sent to the same destination before, and not yet arrived there (R16, R47, R69)? The home performs
what arrives in order, but for what it parks or holds. R16 and R69 do not say whether a source is a core's router or a thread; the model
keeps the order of both (DESIGN CHOICE, log entry 51). -/
def State.behind (s : State) (r : Req) (p : Piece) : Bool :=
  s.fabric.any fun e => decide (e.id < r.id) && (e.core == r.core || e.tid == r.tid) && !e.parked && e.dataFrom.isNone &&
    e.pieces.any (fun q => !q.done && s.destOf q.key == s.destOf p.key && !s.heldThere e q) && !s.ownWait e && !s.replayWait e

/-- May a piece be at its home now? Those of a replay-mode grid are performed in their chunk's turns (R262). -/
def State.mayReach (s : State) (r : Req) (p : Piece) : Bool :=
  !p.done && !r.misrouted && !r.parked && r.dataFrom.isNone && !(s.gridD r.tid.grid).replayOn && !s.ownWait r && !s.replayWait r &&
  !s.behind r p

/-- May a piece be performed now? -/
def State.mayPerform (s : State) (r : Req) (p : Piece) : Bool := s.mayReach r p && !s.homeHolds r p

/-! ### Data caches (R17, R61, R154) -/

/-- Changed lines as a cache reads them, to write them back or to pass them on: errors of one bit corrected (R344). -/
def State.readLines (s : State) (p : Line → Bool) : State :=
  if s.soft.isEmpty then s
  else
    (s.lines.filter fun l => l.st.dirty && p l).foldl
      (fun t l => [0, 1, 2, 3].foldl (fun t i => t.correctPlace (lineErr l.core (4 * l.num + i)) 4 l.core (32 * l.num + 8 * i)) t) s

/-- A core's data cache holds 1,024 lines (R17); the oldest goes. -/
def State.evict (s : State) (c : Nat) : State :=
  let mine := s.lines.filter fun l => l.core == c
  match mine with
  | l :: _ => if 1024 < mine.length then (s.readLines (· == l)).dropLines (· == l) else s
  | [] => s

/-- The copies of the lines that an access touches taken from the caches, but for a core's own: changed ones are written back. -/
def State.takeLines (s : State) (k n : Nat) (but : Option Nat) : State :=
  (s.readLines fun l => decide (32 * l.num < k + n) && decide (k < 32 * l.num + 32) && some l.core != but).invalidate k n but

/-- The line of a key as another core's load leaves it. -/
def LineState.shared : LineState → LineState
  | .m => .o
  | .e => .s
  | x => x

/-- A load of a core to a DRAM or keep-region key through its data cache (R61). -/
def State.cacheLoad (s : State) (c k : Nat) : State :=
  if 2 ^ 53 ≤ k ∨ s.lines.any fun l => l.core == c && l.num == k / 32 then s
  else
    let s := s.readLines fun l => l.num == k / 32
    let st := if s.lines.any fun l => l.num == k / 32 then LineState.s else .e
    ({ s with lines := (s.lines.map fun l => if l.num = k / 32 then { l with st := l.st.shared } else l) ++ [⟨c, k / 32, st⟩] } : State).evict c

/-- A store of a core to a DRAM or keep-region key through its data cache (R61): fresh check bits for a whole word (R345). -/
def State.cacheStore (s : State) (c k n : Nat) : State :=
  if 2 ^ 53 ≤ k then s
  else
    let t := s.takeLines k n (some c)
    let t := if n = 8 then t.clearError (lineErr c (k / 8)) else t
    ({ t with lines := (t.lines.filter fun l => !(l.core == c && l.num == k / 32)) ++ [⟨c, k / 32, .m⟩] } : State).evict c

/-- What a request's event does to the data caches as it meets them: a mark operation meets its whole patch (R206). -/
def State.cacheMeets (s : State) (r : Req) (p : Piece) : State :=
  match r.op with
  | .read => s.cacheLoad r.core p.key
  | .write => s.cacheStore r.core p.key p.len
  | .festat => s
  | .mark _ _ _ => s.takeLines (p.key / 256 * 256) 256 none
  | .sense _ _ => s.takeLines (p.key / 256 * 256) 256 none
  | .bankRead => s
  | .bankWrite _ => s
  | _ => s.takeLines p.key p.len none

/-- An error of one bit corrected in the copy of a word that an access reads: its own core's, else that of the core which has changed it. -/
def State.correctLine (s : State) (c : Option Nat) (k : Nat) : State :=
  match (s.lines.find? fun l => l.num == k / 32 && some l.core == c).or (s.lines.find? fun l => l.num == k / 32 && l.st.dirty) with
  | some l => s.correctPlace (lineErr l.core (k / 8)) 4 l.core k
  | none => s

/-- Clean copies of a word that meet an uncorrectable error are dropped, and read again from the home (R345). -/
def State.recoverLines (s : State) (k : Nat) : State :=
  (s.lines.filter fun l => l.num == k / 32 && !l.st.dirty && s.poison.contains (lineErr l.core (k / 8))).foldl
    (fun t l => ((t.dropLines (· == l)).recovered (lineErr l.core (k / 8)) 4 l.core k)) s

/-! ### One event at the home -/

/-- Bytes of a keep-region store, not yet durable. -/
def keepBytes (id : Nat) (who : Tid) (epoch : Nat) (ea : Word) (k v : Nat) : Nat → List KeepStore
  | 0 => []
  | n + 1 => keepBytes id who epoch ea k v n ++ [⟨id, who, epoch, k + n, BitVec.ofNat 8 (v / 2 ^ (8 * n)), eaPlus ea n, none⟩]

/-- A store by a thread at a key: in the keep region it is not yet durable (R85, R86); one of a replay-mode chunk is noted (R262). -/
def State.homeStore (s : State) (who : Tid) (epoch : Nat) (ea : Word) (k n v : Nat) : State :=
  let s := { s.store k n v with chunkWrites := s.chunkWrites.map fun l => (k, n) :: l }
  if isKeep k then { s with keepPending := s.keepPending ++ keepBytes s.fresh who epoch ea k v n, fresh := s.fresh + 1 } else s

/-- The full/empty bit of a word set or cleared by a thread (R66): in the keep region it is not yet durable (R85, R86). -/
def State.homeFull (s : State) (who : Tid) (epoch : Nat) (ea : Word) (k : Nat) (v : Bool) : State :=
  let s := s.setFull k v
  if isKeep k then { s with keepPending := s.keepPending ++ [⟨s.fresh, who, epoch, k / 8 * 8, 0, ea, some v⟩], fresh := s.fresh + 1 } else s

/-- What a slot holds of `n` bytes from a key, and of the bit of their word, brought up to date. -/
def Snapshot.patch (x : Snapshot) (s : State) (k n : Nat) : Snapshot :=
  { x with tcm := (List.range n).foldl (fun m i => Memory.set m (k + i) (s.byte (k + i))) x.tcm,
           empties := if s.isFull k then x.empties.filter (· != k / 8) else if x.empties.contains (k / 8) then x.empties else k / 8 :: x.empties }

/-- The slot that a core's commit word names, brought up to date. -/
def Core.patch (c : Core) (s : State) (k n : Nat) : Core :=
  if c.commitB then { c with slotB := c.slotB.map fun x => x.patch s k n } else { c with slotA := c.slotA.map fun x => x.patch s k n }

/-- What an event has written to the TCM share of a core that is shadowed-off is in its saddlebag (R269). -/
def State.intoShadow (s : State) (k n : Nat) : State :=
  match homeOf k with
  | .tcm g l =>
    match (s.teamD g l).core with
    | some c => if (s.core c).power == .shadowedOff then s.setCore ((s.core c).patch s k n) else s
    | none => s
  | _ => s

/-- The new value of an atomic (R152, R153). -/
def atomicNew (f : AtomicFn) (old b cmp : Word) : Word :=
  match f with
  | .add => old + b
  | .addf64 => BitVec.ofNat 64 (Fmt.fp64.ne ((Fmt.fp64.decode old.toNat).add false (Fmt.fp64.decode b.toNat)))
  | .addf32 => BitVec.ofNat 64 (Fmt.fp32.ne ((Fmt.fp32.decode (old.toNat % 2 ^ 32)).add false (Fmt.fp32.decode (b.toNat % 2 ^ 32))))
  | .and => old &&& b
  | .or => old ||| b
  | .xor => old ^^^ b
  | .min => if old.slt b then old else b
  | .max => if old.slt b then b else old
  | .minu => if old < b then old else b
  | .maxu => if old < b then b else old
  | .swap => b
  | .cas => if old = cmp then b else old

/-- Does the word's state meet the condition of R150? -/
def feMeets (op : ReqOp) (isFull : Bool) : Bool :=
  match op with
  | .ldf => isFull
  | .lde => isFull
  | .stf => isFull
  | .stw => !isFull
  | _ => true

/-- What performing a piece leaves: the machine, the value for the reply, the tick a mark operation took. -/
abbrev Performed := State × Word × Nat

/-- The best cell of a patch (R212): value · 2^8 + (255 − index), so that the larger is the better; and the tick of each region
concerned, a digit of base 4,096 under the region's number. -/
def State.sensePatch (s : State) (g : Nat) (cells : List Cell) (patch : Nat) : Word × Nat :=
  (cells.filter fun c => c.patch == patch).foldl
    (fun acc c =>
      let t := c.rg.tick (s.markCycle g)
      let v := fadedValue (s.loadNat (s.mapKey c.key) 4) c.rg.k t
      let m := v * 256 + (255 - c.idx)
      let low := acc.2 % 4096 ^ c.rg.num
      (if acc.1.toNat < m then BitVec.ofNat 64 m else acc.1,
       low + t * 4096 ^ c.rg.num + acc.2 / 4096 ^ (c.rg.num + 1) * 4096 ^ (c.rg.num + 1))) (0, 0)

/-- The bank takes a `BANKPART` write (R64, R65, R347, R357). While a change is in progress, W shows the value written at once, and the
bank takes it when the change ends (log entry 43). -/
def Bank.write (b : Bank) (v : Word) : Bank :=
  let w := min (bits v 3 0) (b.liveWays - 2)
  if b.busy.isSome then { b with w := w, waiting := some w }
  else if w = b.cur then { b with w := w }
  else
    { b with w := w, busy := some w,
             withdrawn := if w < b.cur then
                 ((List.range (b.cur - w)).map fun i => (w + i, Withdrawal.shrink)) ++ b.withdrawn.filter fun p => !(decide (w ≤ p.1) && decide (p.1 < b.cur))
               else b.withdrawn }

/-- The event of piece `k` of a request at the key `a` that it reaches (R70, R71). -/
def State.performOp (s : State) (r : Req) (k : Nat) (p : Piece) (a : Nat) : Performed :=
  match r.op with
  | .read => (s, s.load a p.len, 0)
  | .write => (s.homeStore r.tid r.epoch p.ea a p.len p.data.toNat, 0, 0)
  | .atomic f cmp =>
    let old := s.load a p.len
    (s.homeStore r.tid r.epoch p.ea a p.len (atomicNew f old p.data cmp).toNat, old, 0)
  | .ldf => (s, s.load a 8, 0)
  | .lde => (s.homeFull r.tid r.epoch p.ea a false, s.load a 8, 0)
  | .stf => (s.homeStore r.tid r.epoch p.ea a 8 p.data.toNat, 0, 0)
  | .stw => ((s.homeStore r.tid r.epoch p.ea a 8 p.data.toNat).homeFull r.tid r.epoch p.ea a true, 0, 0)
  | .feset v => (s.homeFull r.tid r.epoch p.ea a v, 0, 0)
  | .festat => (s, if s.isFull a then 1 else 0, 0)
  | .join =>
    let v := s.load a 8 - 1
    (s.homeStore r.tid r.epoch p.ea a 8 v.toNat, v, 0)
  | .mark f amount rg =>
    let t := rg.tick (s.markCycle r.tid.grid)
    let v := fadedValue (s.loadNat a 4) rg.k t
    match f with
    | .rd => (s, BitVec.ofNat 64 v, t)
    | f => (s.homeStore r.tid r.epoch p.ea a 4 (markWord (markNew f v amount) t), 0, t)
  | .sense cells _ => let b := s.sensePatch r.tid.grid cells k; (s, b.1, b.2)
  | .bankRead => (s, (s.bank ((p.key - 2 ^ 56) / 2 ^ 24 % 1024)).partReg, 0)
  | .bankWrite v => (s.setBank ((s.bank ((p.key - 2 ^ 56) / 2 ^ 24 % 1024)).write v), 0, 0)

/-- Does the event read the word it reaches (R345)? A write of a whole word does not. -/
def ReqOp.readsWord : ReqOp → Nat → Bool
  | .write, n => n != 8
  | .stf, _ => false
  | .stw, _ => false
  | .bankRead, _ => false
  | .bankWrite _, _ => false
  | _, _ => true

/-- Does the event meet an uncorrectable error (R345)? A sense meets those of its cells. -/
def State.meetsError (s : State) (r : Req) (k : Nat) (p : Piece) (a : Nat) : Bool :=
  match r.op with
  | .sense cells _ => cells.any fun c => c.patch == k && s.poisoned (s.mapKey c.key) 4
  | op => s.homeless a || (op.readsWord p.len && s.poisoned a p.len)

/-- A piece marked performed. -/
def Req.done (r : Req) (k : Nat) (v : Word) (t : Nat) : Req :=
  { r with parked := false, pieces := r.pieces.modify k fun p => { p with done := true, val := v, tick := t } }

/-- Does the thread's bundle wait for the stream element that a request fetches: the PC of that bundle (R336)? -/
def State.popOf (s : State) (r : Req) : Option Word := ((s.thread? r.tid).filter fun t => t.wait == .fetching r.id).map (·.pc)

/-- A stream's fetch that has failed ahead of its pop: the pop will fetch the element, and its bundle meets the condition (R336; DEDUCED,
log entry 58). -/
def Thread.dropFetch (t : Thread) (n : Nat) : Thread :=
  { t with streams := t.streams.map fun o => o.map fun x => if x.pending = some n then { x with pending := none } else x }

/-- A fault of a request reported against its thread and a bundle's PC (R326, R336, R357); the request is gone. -/
def State.faultReq (s : State) (r : Req) (key cause detail : Nat) (fval fpc : Word) : State :=
  let s := s.dropReq r.id
  (s.recordAt r.tid.grid (s.whereBad key) ⟨s.cycle, true, r.tid.team, r.tid.thread, 1, cause, detail, fpc, fval⟩).modThread r.tid
    fun t => { t with wait := .faulted }

/-- A fault that a request meets at its home. -/
def State.failReq (s : State) (r : Req) (key cause detail : Nat) (fval : Word) : State :=
  if r.dest.isStream then
    (match s.popOf r with
     | some pc => s.faultReq r key cause detail fval pc
     | none => (s.dropReq r.id).modThread r.tid (·.dropFetch r.id))
  else s.faultReq r key cause detail fval r.fpc

/-- A request that has been performed whole put behind the others: replies go out in the order of the events (R69). -/
def State.settleOrder (s : State) (n : Nat) : State :=
  match s.req? n with
  | some r => if r.performed then { s with fabric := (s.fabric.filter fun x => x.id != n) ++ [r] } else s
  | none => s

/-- A piece performed, its condition met: at a changed line that it takes from another core's cache, after what that line wrote back. -/
def State.performNow (s : State) (r : Req) (k : Nat) (p : Piece) (a : Nat) : State :=
  let e := (s.cacheMeets r p).performOp r k p a
  ((e.1.intoShadow a p.len).modReq r.id fun x => x.done k e.2.1 e.2.2).settleOrder r.id

/-- May a home serve a parked request now? In replay mode only in a turn of its team's chunk (R262); never while a reach program holds
the word (R294). -/
def State.mayServe (s : State) (r : Req) : Bool :=
  let g := s.gridD r.tid.grid
  (!g.replayOn || (s.chunkWrites.isSome && g.replay.team == r.tid.team)) && !r.pieces.any fun p => s.reachHeld p.key

/-- The head of a word's wait list, while the word's state allows its operation (R31). Parked requests stand in the fabric in
the order in which they arrived. -/
def State.serveList (s : State) (a : Nat) : Nat → State
  | 0 => s
  | fuel + 1 =>
    match s.fabric.find? fun r => r.parked && r.pieces.any fun p => s.mapKey p.key / 8 == a / 8 with
    | none => s
    | some r =>
      match r.pieces with
      | p :: _ => if feMeets r.op (s.isFull a) && s.mayServe r then State.serveList (s.performNow r 0 p a) a fuel else s
      | [] => s

/-- The wait lists of all words that a test keeps served, once their bits have changed or nothing holds them any more. -/
def State.serveParked (s : State) (p : Nat → Bool) : State :=
  (s.fabric.filter fun r => r.parked && r.pieces.any fun q => p q.key).foldl
    (fun t r => t.serveList (t.mapKey (r.pieces.getD 0 (piece 0 0 0)).key) t.fabric.length) s

/-- Does the operation belong to R150? -/
def ReqOp.isFe : ReqOp → Bool
  | .ldf => true
  | .lde => true
  | .stf => true
  | .stw => true
  | .feset _ => true
  | .festat => true
  | _ => false

/-- The words that an event reads, with their errors of one bit corrected (R344) and clean copies of them recovered (R345). -/
def State.readAt (s : State) (r : Req) (p : Piece) (a : Nat) : State :=
  if s.soft.isEmpty && s.poison.isEmpty then s
  else
    let s := s.recoverLines p.key
    match r.op with
    | .sense cells _ =>
      (cells.filter fun c => c.key / 256 == p.key / 256).foldl (fun t c => (t.correctLine none c.key).correctWords (t.mapKey c.key) 4) s
    | op => if op.readsWord p.len then (s.correctLine (some r.core) p.key).correctWords a p.len else s

/-- The address at which an event's error is met: for a sense, that of its patch's first cell with one. -/
def State.errorPiece (s : State) (r : Req) (k : Nat) (p : Piece) : Nat :=
  match r.op with
  | .sense cells _ => ((cells.find? fun c => c.patch == k && s.poisoned (s.mapKey c.key) 4).map (·.key)).getD p.key
  | _ => p.key

/-- One piece arriving at its home: a fault, a place on the wait list (which a request of a thread that was rolled back does not keep,
R350), or the event and the waiters that it lets be served. -/
def State.arrive (s : State) (r : Req) (k : Nat) (p : Piece) : State :=
  let a := s.mapKey p.key
  match s.carveState p.key with
  | .bad c d => s.failReq r p.key c d p.ea
  | _ =>
    if s.meetsError r k p a then
      let e := s.errorPiece r k p
      s.failReq r e (s.errCause e) (s.errDetail e) (if s.unreached e then p.ea else eaPlus p.ea (e - p.key))
    else if !feMeets r.op (s.isFull a) then
      if r.orphan then s.dropReq r.id
      else
      { s with fabric := (s.fabric.filter fun x => x.id != r.id) ++ [{ r with parked := true }] }
    else
      let t := (s.readAt r p a).performNow r k p a
      if r.op.isFe then t.serveList a t.fabric.length else t

/-- `PERFORM_AT_HOME` (R70): a piece arrives at its home; a bank whose carve-out grows to it notes it, and holds it (R65). -/
def execPerformAtHome (n k : Nat) (s : State) : Out :=
  .next (match s.req? n with
    | some r =>
      match r.pieces[k]? with
      | some p =>
        if s.mayPerform r p then s.arrive r k p
        else if s.mayReach r p && !s.homeKeeps r p then s.modReq n fun x => { x with held := true }
        else s
      | none => s
    | none => s)

/-! ### Replies and acknowledgements (R39, R124, R156, R326) -/

/-- A value that the reply to request `n` brings for a register of the issuing thread: the append that its bundle issued takes it, a
read stream discards it (R125, R161). -/
def State.writeLate (s : State) (r : Reg) (n : Nat) (v : Word) : State :=
  match s.cur.stream? r with
  | some x => if x.write then s.fillAppend r n v else s
  | none => (s.setReg r v).clearError (regErr s.cur.id r.toNat)

/-- Registers from `r` on written with the values of pieces, where still awaited (R149). -/
def State.writeQuad (s : State) (n : Nat) : Nat → List Piece → State
  | _, [] => s
  | r, p :: ps =>
    let d : Reg := BitVec.ofNat 4 r
    State.writeQuad (if s.cur.awaits d n then s.writeLate d n p.val else s) n (r + 1) ps

/-- Two patches of one region that took different ticks of it (R212). -/
def straddles (r : Req) (cells : List Cell) : Bool :=
  let at_ := fun c : Cell => (c.rg.num, (r.pieces.getD c.patch (piece 0 0 0)).tick / 4096 ^ c.rg.num % 4096)
  cells.any fun a => cells.any fun b => (at_ a).1 == (at_ b).1 && (at_ a).2 != (at_ b).2

/-- The result of `msense` (R212); ST is 0 in replay mode, also where a patch had to wait for the next innings. -/
def senseResult (r : Req) (cells : List Cell) (skipped : Nat) (replay : Bool) : Word :=
  let best := r.pieces.foldl (fun m p => if m < p.val.toNat then p.val.toNat else m) 0
  BitVec.ofNat 64 (best / 256 + (255 - best % 256) * 2 ^ 16 + bit (!replay && straddles r cells) 21 + skipped * 2 ^ 22)

/-- A thread that waits for a request at its bundle may issue it again. -/
def Thread.fetchedBy (t : Thread) (n : Nat) : Thread := if t.wait = .fetching n then { t with wait := .running } else t

/-- The number of the next element that a stream of the thread fetches: above those of the elements at hand. -/
def Thread.aheadNext (t : Thread) : Nat :=
  t.streams.toList.foldl (fun m o => (o.elim [] (·.fetched)).foldl (fun m f => max m (f.no + 1)) m) 0

/-- The element that a stream's fetch brings; nothing where the stream no longer waits for it. -/
def Thread.streamElem (t : Thread) (d : Reg) (n : Nat) (p : Piece) : Thread :=
  match t.stream? d with
  | some x =>
    if x.pending = some n then
      t.setStream d (some { x with
        fetched := x.fetched ++ [⟨viewDecode (viewOf p.ea) x.bytes x.uns p.val, p.key, t.aheadNext⟩], pending := none })
    else t
  | none => t

/-- The payload of a reply put where it belongs; the issuing thread is the request's. -/
def State.payload (s : State) (r : Req) : State :=
  match r.dest with
  | .none => s
  | .scalar d view size uns =>
    if s.cur.awaits d r.id then s.writeLate d r.id (viewDecode view size uns (BitVec.ofNat 64 (joinPieces r.pieces))) else s
  | .raw d => if s.cur.awaits d r.id then s.writeLate d r.id (BitVec.ofNat 64 (joinPieces r.pieces)) else s
  | .quad => s.writeQuad r.id 8 r.pieces
  | .row tile row view =>
    match s.tileOf? r.tid tile with
    | some t => s.writeRow r.tid tile row (memToRow (t.row row) (joinPieces r.pieces) t.elem view)
    | none => s
  | .sense d =>
    match r.op with
    | .sense cells skipped => if s.cur.awaits d r.id then s.writeLate d r.id (senseResult r cells skipped (s.gridD r.tid.grid).replayOn) else s
    | _ => s
  | .sync => { s with cur := { (s.cur.fetchedBy r.id) with got := s.cur.got ++ [(r.ea, r.pieces.map (·.val))] } }
  | .stream d => { s with cur := (s.cur.streamElem d r.id (r.pieces.getD 0 (piece 0 0 0))).fetchedBy r.id }

/-- A counter of `OUTCNT` lowered (R156). -/
def Thread.lower (t : Thread) : Counter → Thread
  | .none => t
  | .l => { t with cntL := if t.cntL = 0 then 0 else t.cntL - 1 }
  | .s => { t with cntS := if t.cntS = 0 then 0 else t.cntS - 1 }

/-- Does a request return a value? -/
def Req.returns (r : Req) : Bool := r.dest != .none

/-- The reply of a performed request delivered to its thread: registers, counter, and nothing of it is left. -/
def State.deliver (s : State) (r : Req) : State :=
  match s.thread? r.tid with
  | none => s.dropReq r.id
  | some _ =>
    if r.orphan then s.dropReq r.id
    else
      let me := s.cur.id
      let t := (s.focus r.tid).payload r
      let t := { t with cur := { (t.cur.lower r.counter) with awaiting := t.cur.awaiting.filter fun a => a.2 != r.id } }
      (t.dropReq r.id).focus me

/-- Do two requests go to a common destination, from which their replies come? -/
def State.sharesHome (s : State) (r e : Req) : Bool := r.pieces.any fun p => e.pieces.any fun q => s.destOf p.key == s.destOf q.key

/-- Does the reply to an earlier event at one of its homes come first: one to the same core (R69), or one that is still to be forwarded
to its team (R47)? -/
def State.replyBehind (s : State) (r : Req) : Bool :=
  (s.fabric.takeWhile fun e => e.id != r.id).any fun e => e.performed && s.sharesHome r e &&
    (if e.misrouted then e.tid.grid == r.tid.grid && e.tid.team == r.tid.team else e.core == r.core)

/-- The number that stands for the reply to a request among the errors that arise (R345). -/
def replyErr (n : Nat) : Nat := 2 ^ 90 + n

/-- A reply that has reached a core that is awake (R268, R349): one with an uncorrectable error writes nothing and ends the
grid, also where a stream had asked for it ahead of its pop (R326, R345). -/
def State.receive (s : State) (r : Req) (deliver : State → State) : State :=
  if !r.performed || r.misrouted || !s.coreAwake r.core || s.replyBehind r then s
  else if s.poison.contains (replyErr r.id) then
    (s.clearError (replyErr r.id)).faultReq r (r.pieces.getD 0 (piece 0 0 0)).key 0x1A 10 0 ((s.popOf r).getD r.fpc)
  else deliver (s.correctPlace (replyErr r.id) 10 r.core 0)

/-- `CONTINUATION_REPLY` (R39): the reply of a request that returns a value. -/
def execContinuationReply (n : Nat) (s : State) : Out :=
  .next (match s.req? n with
    | some r => if r.returns then s.receive r fun t => t.deliver r else s
    | none => s)

/-- What a `join` that is acknowledged does (R36, R265): 0 goes on with an acquire, any other value looks for a task. -/
def Thread.joined (t : Thread) (since : Word) (upto : Nat) (v : Word) : Thread :=
  if v = 0 then { t with wait := .performed upto true } else { t with wait := .next since }

/-- The completion of the task of a thread whose `join` does not continue, stamped when it issued (R265, R323). -/
def State.joinTaskDone (s : State) (id : Tid) (at_ : Word) : State :=
  match s.thread? id with
  | some t =>
    match t.taskAt with
    | some since =>
      ((s.modGrid id.grid fun g => { g with tasks := g.tasks + 1, run := g.run + (at_ - since).toNat }).liveIn id.grid).modThread id
        fun x => { x with taskAt := none }
    | none => s
  | none => s

/-- The continuation of a `join` by its acknowledgement (R231). -/
def State.joinAck (s : State) (r : Req) : State :=
  match s.thread? r.tid with
  | some t =>
    match t.wait with
    | .joining n since =>
      if n = r.id then
        let v := (r.pieces.getD 0 (piece 0 0 0)).val
        let s := if v = 0 then s else s.joinTaskDone r.tid since
        s.modThread r.tid fun x => x.joined since r.id v
      else s
    | _ => s
  | none => s

/-- `HOME_ACKNOWLEDGE` (R156). -/
def execHomeAcknowledge (n : Nat) (s : State) : Out :=
  .next (match s.req? n with
    | some r => if r.returns then s else s.receive r fun t => (t.joinAck r).deliver r
    | none => s)

/-! ### Phases (R33, R78) -/

/-- The tasks whose release has completed, pushed in program order (R33). -/
def State.pushReady (s : State) (who : Tid) (upto : Nat) : State :=
  let g := s.gridD who.grid
  let ready := fun p : PendPush => p.tid == who && decide (p.upto ≤ upto)
  let t := s.modGrid who.grid fun x => { x with pushes := x.pushes.filter fun p => !ready p }
  (g.pushes.filter ready).foldl (fun t p => t.pushTask who.grid who.team p.task t.cycle) t

/-- `PHASE_COMPLETE` (R78): the oldest closed phase, once every access that its release covers is performed. The counts of a release of
`domain` scope may fail to be collected while a span link is down (R355). -/
def execPhaseComplete (who : Tid) (s : State) : Out :=
  .next (match s.thread? who with
    | some t =>
      match t.closed with
      | c :: rest =>
        if s.allPerformed who c.upto false then
          let done := fun u : State => (u.modThread who fun x => { x with closed := rest }).pushReady who c.upto
          if c.domain && c.far && s.spanDown then
            let d := s.draw
            if d.1 % 2 = 0 then done d.2 else d.2.faultOf who t.pc 0x1B 0 0
          else done s
        else s
      | [] => s
    | none => s)

/-! ### Arrivals and wakes -/

/-- Does the thread wait at its bundle for the request? -/
def ReqOp.parks : ReqOp → Bool
  | .join => true
  | .ldf => true
  | .lde => true
  | .stf => true
  | .stw => true
  | _ => false

/-- The wait of a thread whose request stands in the fabric (R30, R231). -/
def waitFor (r : Req) (since : Word) : Wait :=
  match r.op with
  | .join => .joining r.id since
  | .ldf => .word r.id
  | .lde => .word r.id
  | .stf => .word r.id
  | .stw => .word r.id
  | _ => .running

/-- `MIGRATION_ARRIVE` (R37): the thread goes on at the destination, and the access it took along is made there. -/
def execMigrationArrive (who : Tid) (s : State) : Out :=
  .next (match s.thread? who with
    | some t =>
      match t.wait with
      | .migrating pend =>
        if s.coreAwake t.core then
          match pend with
          | none => s.modThread who fun x => { x with wait := .running, half := none }
          | some r =>
            { (s.modThread who fun x => { x with wait := waitFor r (s.obsOf t), half := if r.op.parks then x.half else none }) with fabric := s.fabric ++ [{ r with core := t.core }] }
        else s
      | _ => s
    | none => s)

/-- `SLEEP_WAKE` (R30): `CYCLE` has reached the value. A thread of a replay-mode grid wakes in its own turns (R263). -/
def execSleepWake (who : Tid) (s : State) : Out :=
  .next (match s.thread? who with
    | some t =>
      match t.wait with
      | .sleep v _ => if v ≤ s.obsOf t ∧ s.coreAwake t.core ∧ !(s.gridD t.id.grid).replayOn then s.modThread who Thread.goOn else s
      | _ => s
    | none => s)

/-- `MESSAGE_FORWARD` (R47): a message sent under an older location map reaches its team's new core, where its home is. -/
def execMessageForward (n : Nat) (s : State) : Out :=
  .next (match s.req? n with
    | some r =>
      s.modReq n fun x => { x with misrouted := false, core := match s.thread? r.tid with | some t => t.core | none => x.core }
    | none => s)

end Sys2Proof.Machine
end

