-- ==== Sys2Proof/Machine/Saddlebag.lean ====
section
/-! DEFINITION. Saddlebags (R84, R87, R324, R349, R350, R352): saving a core, the commit word, and what a saved thread does when
it goes on. -/

namespace Sys2Proof.Machine

/-! ### What is saved -/

/-- The teams on a core. -/
def State.teamsOn (s : State) (c : Nat) : List Team := s.teams.filter fun t => t.core == some c

/-- Is a thread of a team on the core? -/
def State.ofCore (s : State) (c : Nat) (t : Thread) : Bool := (s.teamD t.id.grid t.id.team).core == some c

/-- Does a key lie in the TCM share of a team of the list? -/
def inShares (ts : List Team) (k : Nat) : Bool :=
  match homeOf k with
  | .tcm g l => ts.any fun t => t.grid == g && t.lteam == l
  | _ => false

/-- The registers that wait for the replays of a thread's own `vloop`, whose requests are not replies. -/
def Thread.loopAwaits (t : Thread) : List (Reg × Nat) := t.awaiting.filter fun p => t.vreplay.any fun v => p.2 + 1 == v.base

/-- The append that a parked load of number `n` has issued for its value taken back (R161): its load is issued again, and appends
again. -/
def Thread.dropAppend (t : Thread) (n : Nat) : Thread :=
  [4, 5, 6, 7].foldl (fun u r =>
    match u.stream? r with
    | some x =>
      if x.write && !x.exh && u.awaiting.contains (r, n) then
        { u.setStream r (some { x with idx := x.idx - 1 }) with cntS := if u.cntS = 0 then 0 else u.cntS - 1 }
      else u
    | none => u) t

/-- A thread as a slot keeps it (R43, R350): it issues its parking instruction again alone, without the arithmetic slot, which has
taken effect (`half`). One that has taken another continuation, or waits without an agent of its own, goes on waiting. -/
def Thread.saved (t : Thread) : Thread :=
  let t := match t.wait with | .word n => t.dropAppend n | _ => t
  let again : Thread := { t with wait := .running, awaiting := t.loopAwaits, got := [], pc := (t.half.map (·.pc)).getD t.pc }
  match t.wait with
  | .word _ => again
  | .joining _ _ => again
  | .sleep _ _ => again
  | .waitc _ _ _ _ => again
  | .vpop _ => again
  | .bankWrite _ => again
  | .mregWrite => again
  | .publ _ _ _ => again
  | .pfenceKeep _ _ => again
  | .migrating _ => again
  | .service _ => again
  | .fetching _ => again
  | .released _ => again
  | .next _ => { again with wait := .again, pc := t.pc }
  | _ => t

/-- The tasks of a core's teams whose push waits (R33). -/
def State.waitingPushes (s : State) (ts : List Team) : List PendPush :=
  s.grids.flatMap fun g => g.pushes.filter fun p => ts.any fun t => t.grid == p.tid.grid && t.lteam == p.tid.team

/-- The state of a core that a slot holds (R84). -/
def State.snapshot (s : State) (c : Nat) : Snapshot :=
  let ts := s.teamsOn c
  { cycle := s.cycle, upto := s.fresh, threads := (s.threads.filter (s.ofCore c)).map Thread.saved, teams := ts, mq := (s.core c).mq,
    tcm := Memory.keep (inShares ts) s.mem, empties := s.empty.filter fun w => inShares ts (w * 8), pushes := s.waitingPushes ts }

/-- A thread that stands in a slot of a core. -/
def State.inSlot (s : State) (c slot : Nat) : Option Thread :=
  s.threads.find? fun t => t.id.grid != 0 && t.core == c && t.slot == slot && t.wait != .ended

/-! ### Writing a slot -/

/-- The inactive slot written and the commit word flipped (R87). -/
def Core.commit (c : Core) (x : Snapshot) : Core :=
  if c.commitB then { c with slotA := some x, commitB := false } else { c with slotB := some x, commitB := true }

/-- The slot that the commit word names (R87). -/
def Core.committed (c : Core) : Option Snapshot := if c.commitB then c.slotB else c.slotA

/-- A spare slot pair of a tower taken (R43, R352): with fewer than 64 left, a KIND 6 record. -/
def State.takePair (s : State) (tower c : Nat) : State :=
  let left := s.spares.getD tower 0 - 1
  let t : State := { s with spares := s.spares.set tower left }
  if left < 64 then t.telemetry 6 0 c 0 left else t

/-- The number that stands for a core whose slot pair has been retired without a spare to take its place (R352). -/
def noPair (c : Nat) : Nat := 2 ^ 60 + c

/-- A slot pair of a core retired (R352): KIND 5, and a spare takes its place while there is one. -/
def State.retirePair (s : State) (tower c : Nat) : State :=
  let t := ({ s with mramBad := s.mramBad.erase c } : State).telemetry 5 0 c 0 (s.spares.getD tower 0 - 1)
  if s.spares.getD tower 0 = 0 then { t with mramBad := noPair c :: t.mramBad } else t.takePair tower c

/-- A spare slot pair for a core that has none (R352), while there is one. -/
def State.givePair (s : State) (c : Nat) : State :=
  if s.mramBad.contains (noPair c) && s.spares.getD (towerOf c) 0 != 0 then
    ({ s with mramBad := s.mramBad.filter (· != noPair c) } : State).takePair (towerOf c) c
  else s

/-- Every grid with a team on a core ended by a save that failed twice (R324): cause 0x1D, DETAIL 0. -/
def State.saveFailed (s : State) (c : Nat) : State :=
  (s.teamsOn c).foldl (fun t x => t.faultGrid x.grid 1 0x1D 0 0) s

/-- A slot pair of a core ready to be written (R324, R352): one that fails verification is retired, and the save moves to a fresh pair;
after a second failure, or without a spare, there is none. Which pair stands in which place of MRAM is not part of the model
(log entry 46). -/
def State.slotPair (s : State) (c : Nat) : Bool × State :=
  let s := s.givePair c
  if s.mramBad.contains (noPair c) then (false, s)
  else if !s.mramBad.contains c then (true, s)
  else
    let t := s.retirePair (towerOf c) c
    if t.mramBad.contains (noPair c) then (false, t)
    else if !t.mramBad.contains c then (true, t) else (false, t.retirePair (towerOf c) c)

/-- Has a core no slot pair to write, and its tower none to which a save could move (R352)? -/
def State.pairLost (s : State) (c : Nat) : Bool :=
  s.spares.getD (towerOf c) 0 == 0 && (s.mramBad.contains (noPair c) || s.mramBad.contains c)

/-- A fresh pair for a core whose pair a saved team has taken along (R43); none where the last spare is gone (R352). -/
def State.freshPair (s : State) (c : Nat) : State :=
  if s.spares.getD (towerOf c) 0 = 0 then { s with mramBad := noPair c :: s.mramBad } else s.takePair (towerOf c) c

/-- A save into the saddlebag (R84, R87). The answer says whether it was committed. -/
def State.saveCore (s : State) (c : Nat) : Bool × State :=
  let x := s.snapshot c
  let r := s.slotPair c
  if r.1 then (true, r.2.setCore ((r.2.core c).commit x)) else (false, r.2.saveFailed c)

/-! ### Rolling a core back (R350) -/

/-- Requests of the teams of a core: they had left the core, so they are performed where they go, and their replies are
discarded. One that still waits for its data had not left. -/
def State.orphanRequests (s : State) (p : Tid → Bool) : State :=
  { s with fabric := (s.fabric.filter fun r => !(p r.tid && (r.parked || r.dataFrom.isSome))).map fun r =>
                       if p r.tid then { r with orphan := true } else r }

/-- Is a request of a rolled-back team of a core still on its way (R350)? -/
def State.orphansLeft (s : State) (c : Nat) : Bool := s.fabric.any fun r => r.orphan && r.core == c && r.open_

/-- A restored thread, back in its slot of the core `c`: its closed phases count as complete, its copies still running are counted (R350). A
register that still awaited a reply when the slot was committed awaits none, and reads as it then stood: the replies are discarded, and
the spec does not say what such a register holds (DESIGN CHOICE, log entry 64). -/
def State.restoreThread (s : State) (c : Nat) (t : Thread) : Thread :=
  { t with core := c, slot := t.homeSlot, closed := [], far := false, awaiting := t.loopAwaits, cntC := BitVec.ofNat 6 (s.copies.filter fun c => c.tid == t.id && c.counted).length }

/-- The threads of a core replaced by those of a slot. -/
def State.putThreads (s : State) (c : Nat) (p : Tid → Bool) (ts : List Thread) : State :=
  match ts with
  | [] => s
  | _ =>
    let new := fun t : Thread => if p t.id then (match ts.find? fun x => x.id == t.id with | some x => s.restoreThread c x | none => t) else t
    { s with cur := new s.cur, rest := s.rest.map new }

/-- Cells of a memory replaced where a test holds. -/
def replaceCells (p : Nat → Bool) (m new : List Host.Cell) : List Host.Cell :=
  new.foldl (fun acc c => Memory.set acc c.1 c.2) (Memory.keep (fun k => !p k) m)

/-- A core restored from a slot: threads, teams, matrix queue, TCM shares (R87, R350). Its closed phases count as complete, so the tasks
that waited for them are pushed; a record that is restored asks for admission. -/
def State.restoreFrom (s : State) (c : Nat) (x : Snapshot) : State :=
  let ts := s.teamsOn c
  let mine := fun id : Tid => ts.any fun t => t.grid == id.grid && t.lteam == id.team
  let s := { s with copies := s.copies.map fun (y : Copy) => if mine y.tid && decide (x.upto ≤ y.id) then { y with counted := false } else y }
  let s := (s.orphanRequests mine).putThreads c mine x.threads
  let put := fun t : Team =>
    if t.core = some c then (match x.teams.find? fun y => y.grid == t.grid && y.lteam == t.lteam with | some y => { y with core := some c } | none => t) else t
  let k := s.core c
  let t : State := ({ s with
      teams := s.teams.map put
      grids := s.grids.map fun g => { g with pushes := g.pushes.filter fun p => !mine p.tid }
      mem := replaceCells (inShares ts) s.mem x.tcm
      empty := (s.empty.filter fun w => !inShares ts (w * 8)) ++ x.empties } : State).setCore
        { k with mq := x.mq, unit := if x.mq.isEmpty then .inactive else .requesting s.cycle }
  (x.pushes.filter fun p => mine p.tid).foldl (fun u p => u.pushTask p.tid.grid p.tid.team p.task u.cycle) t

/-! ### Durable stores (R85, R86, R352) -/

/-- Is a store durable whenever another is: one before it in their unit's order, since a unit is never torn, or one of an earlier epoch of
its thread (R86; DEDUCED, log entry 49)? -/
def KeepStore.needed (x y : KeepStore) : Bool :=
  decide (x.id < y.id) && (x.key / 8 == y.key / 8 || (x.tid == y.tid && decide (x.epoch < y.epoch)))

/-- The numbers of the stores that are durable when those of a list are. -/
def durableWith (l : List KeepStore) : Nat → List Nat → List Nat
  | 0, ids => ids
  | fuel + 1, ids =>
    durableWith l fuel ((l.filter fun x => ids.contains x.id || l.any fun y => ids.contains y.id && x.needed y).map (·.id)).eraseDups

/-- The keep-region stores that become durable with those that a test names. -/
def State.durableSet (s : State) (p : KeepStore → Bool) : List KeepStore :=
  let ids := durableWith s.keepPending s.keepPending.length ((s.keepPending.filter p).map (·.id))
  s.keepPending.filter fun x => ids.contains x.id

/-- The full/empty bits that a list of keep-region stores leaves. -/
def KeepStore.bits (e : List Nat) (x : KeepStore) : List Nat :=
  match x.bit with
  | none => e
  | some true => e.filter (· != x.key / 8)
  | some false => if e.contains (x.key / 8) then e else x.key / 8 :: e

/-- The number that stands for a keep-region unit among the worn places of MRAM (R352). -/
def keepWear (k : Nat) : Nat := 8192 + k / 8 * 8

/-- The tower that a keep-region key belongs to (R57). -/
def keepTower (k : Nat) : Nat := k / 256 % 1024 / 256

/-- A keep-region unit that fails remapped to a spare block of its tower (R352): KIND 5. -/
def State.remapKeep (s : State) (k : Nat) : State :=
  let left := s.keepSpares.getD (keepTower k) 0 - 1
  ({ s with keepSpares := s.keepSpares.set (keepTower k) left, mramBad := s.mramBad.filter (· != keepWear k) } : State).telemetry 5 0
    (s.whereOf k) k left

/-- The units that a list of stores writes and that fail, remapped while spares last. -/
def State.remapAll (s : State) (l : List KeepStore) : State :=
  l.foldl (fun t x => if t.mramBad.contains (keepWear x.key) && t.keepSpares.getD (keepTower x.key) 0 != 0 then t.remapKeep x.key else t) s

/-- Does a keep-region unit fail with no spare left (R352)? -/
def State.keepFails (s : State) (k : Nat) : Bool := s.mramBad.contains (keepWear k)

/-- Keep-region stores written to MRAM in their order, and so durable, with those that are durable whenever they are (R85, R86, R352). -/
def State.makeDurable (s : State) (p : KeepStore → Bool) : State :=
  let done := s.durableSet p
  let t := s.remapAll done
  { t with keepDurable := done.foldl (fun m x => if x.bit.isSome then m else Memory.set m x.key x.val) s.keepDurable,
           keepEmpty := done.foldl KeepStore.bits s.keepEmpty,
           keepPending := s.keepPending.filter fun x => !done.contains x }

/-- The end of a `pfence keep` (R85, R352): a store whose unit fails with no spare left cannot be made durable. -/
def State.keepDone (s : State) : State :=
  let mine := fun x : KeepStore => x.tid == s.cur.id
  let t := s.remapAll (s.durableSet mine)
  match t.keepPending.find? fun x => mine x && t.keepFails x.key with
  | some x => t.raiseFault 0x1A 8 x.ea
  | none =>
    let u := t.makeDurable mine
    { u with cur := { u.cur.goOn with epoch := u.cur.epoch + 1 } }

end Sys2Proof.Machine
end

