-- ==== Sys2Proof/Machine/Fetch.lean ====
section
/-! DEFINITION. Fetching a bundle (R62, R107, R145, R334), and the steps of an illegal bundle and of a fetch that fails. -/

namespace Sys2Proof.Machine

/-- What a fetch finds. -/
inductive Fetched where
  /-- the bundle, and the key at which it stands -/
  | bundle (b : BitVec 64) (key : Nat)
  | fault (cause detail : Nat)
  | absent
  /-- a reach program or a carve-out change holds it (R65, R294) -/
  | held
  deriving DecidableEq, Repr

/-- The number that stands for word `w` in a line of the instruction cache of core `c` (R344). R345 gives that storage no kind, and it
counts as 4 (DESIGN CHOICE, log entry 59). -/
def instrErr (c w : Nat) : Nat := 2 ^ 100 + c * 2 ^ 60 + w

/-- Does a place stand for a word of an instruction cache? -/
def inInstrCache (n : Nat) : Bool := decide (2 ^ 100 ≤ n) && decide (n < 2 ^ 110)

/-- The lines of a core's instruction cache that hold a word gone. -/
def State.dropInstr (s : State) (c w : Nat) : State :=
  let k := s.core c
  s.setCore { k with icache := k.icache.filter fun l => l.key / 8 != w }

/-- The instruction cache of a core as a fetch of the word at a key finds it: an error of one bit corrected (R344), a line with an
uncorrectable one dropped, to be read again (R345). -/
def State.readInstr (s : State) (c key : Nat) : State :=
  let n := instrErr c (key / 8)
  if s.poison.contains n then (s.dropInstr c (key / 8)).recovered n 4 c (8 * (key / 8)) else s.correctPlace n 4 c (8 * (key / 8))

/-- The place that a fetch of the issuing thread leads to; one in another package may find no route (R355). -/
def State.fetchAt (s : State) : Fetched × State :=
  let loc := bits s.cur.pc 51 0
  let p := s.place s.cur.id.grid loc
  match p.1 with
  | .mem k _ x =>
    if !x then (.fault 0x15 1, p.2)
    else if p.2.reachHeld k || p.2.carveState k == .hold then (.held, p.2)
    else if (p.2.noRoute [k]).1 then (.fault 0x1B 0, (p.2.noRoute [k]).2)
    else
    let p := (p.1, (p.2.noRoute [k]).2)
    if p.2.poisoned (p.2.mapKey k) 8 then (.fault (p.2.errCause k) (p.2.errDetail k), p.2)
    else (.bundle (p.2.load (p.2.mapKey k) 8) (p.2.mapKey k), p.2)
  | .matrixQueue o => (.bundle 0 (2 ^ 57 + o), p.2)
  | .bad c d => (.fault c d, p.2)
  | .absent => (.absent, p.2)

/-- The scalar registers a bundle reads and writes, and those whose stream it binds or frees. -/
def bundleRegs (c a : Instr) : List Reg := readsOf c ++ readsOf a ++ (writesOf c ++ writesOf a) ++ bindsOf c

/-- Does one of the registers await an earlier instruction (R8, R124)? -/
def Thread.heldBy (t : Thread) (rs : List Reg) : Bool := t.awaiting.any fun p => rs.contains p.1

/-- Does R8 hold the issuing thread at its bundle? -/
def State.heldNow (s : State) : Bool :=
  !s.cur.awaiting.isEmpty &&
  match s.fetchAt.1 with
  | .bundle b _ =>
    match decodeBundle b with
    | .illegal _ => false
    | .long i => s.cur.heldBy (bundleRegs i .nopArithmetic)
    | .pair c a => s.cur.heldBy (bundleRegs c a)
  | _ => false

/-- `ILLEGAL_BUNDLE` (R107, R331): the lowest sub-reason is the DETAIL, and FVAL the bundle's word. -/
def execIllegalBundle (sub : Nat) (b : BitVec 64) (s : State) : Out := .next (s.raiseFault 0x10 sub b)

/-- `FETCH_FAULT` (R145, R334, R335): the issuing thread's fetch fails, or finds its page not present. -/
def execFetchFault (s : State) : Out :=
  let f := s.fetchAt
  .next (match f.1 with
    | .bundle _ _ => s
    | .held => s
    | .fault c d => f.2.raiseFault c d s.cur.pc
    | .absent => f.2.service (effAddr s.cur.pc 0) 2)

end Sys2Proof.Machine
end

