-- ==== Sys2Proof/Machine/Engines.lean ====
section
/-! DEFINITION. The engines of a core and a cluster: the loop sequencer's replays (R187), stream fetches (R160), copies (R164,
R165, R312, R336, R339). Each step whose object or condition is missing
leaves the machine as it is. -/

namespace Sys2Proof.Machine

/-! ### Replays (R187) -/

/-- What an entry performs. -/
def entryBody (e : Entry) (id : Tid) (s : State) : State :=
  match e.instr with
  | .vld rd _ _ => vldBody (tileNo rd) e id s
  | .vst _ _ rb => vstBody (tileNo rb) e id s
  | .vbc rd _ => vbcBody (tileNo rd) e id s
  | .vadd rd ra rb => vaddBody (tileNo rd) (tileNo ra) (tileNo rb) e id s
  | .vsub rd ra rb => vsubBody (tileNo rd) (tileNo ra) (tileNo rb) e id s
  | .vmul rd ra rb => vmulBody (tileNo rd) (tileNo ra) (tileNo rb) e id s
  | .vfma rd ra rb => vfmaBody (tileNo rd) (tileNo ra) (tileNo rb) e id s
  | .vmin rd ra rb => vminBody (tileNo rd) (tileNo ra) (tileNo rb) e id s
  | .vmax rd ra rb => vmaxBody (tileNo rd) (tileNo ra) (tileNo rb) e id s
  | .vcmp cc rd ra rb => vcmpBody cc.toNat (tileNo rd) (tileNo ra) (tileNo rb) e id s
  | .vsel rd ra rb => vselBody (tileNo rd) (tileNo ra) (tileNo rb) e id s
  | .vperm rd ra rb => vpermBody (tileNo rd) (tileNo ra) (tileNo rb) e id s
  | .vabs rd ra => vabsBody (tileNo rd) (tileNo ra) e id s
  | .vneg rd ra => vnegBody (tileNo rd) (tileNo ra) e id s
  | .vcvt rd ra => vcvtBody (tileNo rd) (tileNo ra) e id s
  | .vscale rd ra _ => vscaleBody (tileNo rd) (tileNo ra) e id s
  | .vred op ra => vredBody op.toNat (tileNo ra) e id s
  | .topk mn c rd rb ra k1 => topkBody mn c (tileNo rd) (tileNo rb) (tileNo ra) (k1.toNat + 1) e id s
  | .topkm mn c rd rb ra k1 => topkmBody mn c (tileNo rd) (tileNo rb) (tileNo ra) (k1.toNat + 1) e id s
  | .vsort ds rd rb ra => vsortBody ds (tileNo rd) (tileNo rb) (tileNo ra) e id s
  | .fevalV rd fa rb => fevalVBody (tileNo rd) (tileNo rb) fa e id s
  | _ => s

/-- The rows of an entry in replay c: a marked operand moves c rows on. -/
def replayRows (c : Nat) : List RowOp → List Nat → List Nat
  | r :: rs, n :: ns => (if r.step then (n + c) % 64 else n) :: replayRows c rs ns
  | _, l => l

/-- An entry as replay c performs it. -/
def State.replayed (s : State) (id : Tid) (c : Nat) (e : Entry) : Entry :=
  { e with rows := replayRows c (rowsOf e.instr) e.rows,
           scalars := match s.replayAccess id c e with | some (_, ea, _) => [ea] | none => e.scalars }

/-- Is a tile the TC of a command of the team queued before a request number (R174)? -/
def State.tileQueuedBefore (s : State) (id : Tid) (t upto : Nat) : Bool :=
  match (s.teamD id.grid id.team).core with
  | some c => (s.core c).mq.any fun r =>
      r.tid.grid == id.grid && r.tid.team == id.team && decide (r.id < upto) && bits (r.words.getD 0 0) 11 8 == t
  | none => false

/-- Is there room in `OUTCNT` for what an entry's replay issues (R156)? -/
def Thread.replayRoom (t : Thread) (e : Entry) : Bool :=
  match e.instr with
  | .vld _ _ _ => t.cntL != 63
  | .vst _ _ _ => t.cntS != 63
  | i => match selectReg i with | some c => (t.appendsTo c).isNone || t.cntS != 63 | none => true

/-- May a thread's next replay go on: no pause, its tiles free (R174), room for its posts (R184) and requests (R156)? -/
def State.replayFree (s : State) (t : Thread) (v : VReplay) (e : Entry) : Bool :=
  v.paused.isNone && !v.untilTret &&
  !((rowsOf e.instr).any fun r => s.tileQueuedBefore t.id (tileNo r) v.base || s.tileInFlight t.id (tileNo r)) &&
  decide (t.resq.length + postsOf e.instr ≤ 8) && t.replayRoom e

/-- May it be performed now: its core awake, not rolled back with requests still on their way (R350), and its cluster not halted (R273)? In
replay mode the turns perform it. -/
def State.replayReady (s : State) (t : Thread) (v : VReplay) (e : Entry) : Bool :=
  s.replayFree t v e && s.coreAwake t.core && !s.orphansLeft t.core && !(s.cluster (clusterOf t.core)).halted && !(s.gridD t.id.grid).replayOn

/-- The replays after one has been performed. -/
def VReplay.next (v : VReplay) : Option VReplay :=
  if v.k + 1 < v.entries.length then some { v with k := v.k + 1 }
  else if v.c + 1 ≤ v.count then some { v with k := 0, c := v.c + 1 }
  else none

/-- The register that a replayed selection writes: the value goes where the thread still awaits it, as an append to a write stream
(R125, R187). The body has put it into the register. -/
def State.replaySelect (s : State) (p : Appends) (v : VReplay) (e : Entry) (before : Thread) : State :=
  match selectReg e.instr with
  | some c =>
    let back : State := { s with cur := { s.cur with regs := before.regs } }
    if before.awaits c (v.base - 1) then back.writeTaskReg p c (s.reg c) else back
  | none => s

/-- The append that a replayed entry may make. -/
def State.replayAppends (s : State) (e : Entry) : Appends := s.planAppends s.cur (selectReg e.instr).toList

/-- The replayed entry on the issuing thread, with the PC, phase, epoch and request numbers of its `vloop`; its conditions are those of
its instruction (R175, R187, R329). -/
def State.replayOne (s : State) (v : VReplay) (e : Entry) : State :=
  let n := v.base + replayBlock * ((v.c - 1) * v.entries.length + v.k)
  let f := { s with fresh := n, cur := { s.cur with pc := v.fpc, phaseNo := v.phase, epoch := v.epoch, wait := .running } }
  let p := f.replayAppends e
  match firstStop ((f.entryStop e).toList ++ p.stops) with
  | some t => if f.carveWaits t true then f.hold else t
  | none => (entryBody e f.cur.id ((f.drawnAs p.after).correctRows f.cur.id (entryReads e.instr e.rows))).replaySelect p v e f.cur

/-- The thread as it was, but for what the replay did; after the last replay nothing waits for them. -/
def State.afterReplay (s : State) (old : Thread) (fresh : Nat) (w : Wait) (v : Option VReplay) : State :=
  let awaiting := match v, old.vreplay with
    | none, some x => s.cur.awaiting.filter fun p => p.2 + 1 != x.base
    | _, _ => s.cur.awaiting
  { s with fresh := fresh, aborted := false,
           cur := { s.cur with pc := old.pc, phaseNo := old.phaseNo, epoch := old.epoch, wait := w, vreplay := v, awaiting := awaiting } }

/-- The next replay of the issuing thread (R187): performed, or stopped as its instruction would be. -/
def State.replayStep (s : State) (v : VReplay) (e : Entry) : State :=
  let old := s.cur
  let r := s.replayOne v (s.replayed old.id v.c e)
  match r.cur.wait with
  | .faulted => r.afterReplay old s.fresh .faulted none
  | .service tok =>
    let t := r.afterReplay old s.fresh old.wait (some { v with paused := some tok })
    { t with fs := t.fs.map fun x => if x.token = tok then { x with who := .replay old.id } else x }
  | _ => if r.aborted then s else r.afterReplay old s.fresh old.wait v.next

/-- `VLOOP_REPLAY` (R187): the next replayed entry of a thread. -/
def execVloopReplay (who : Tid) (s : State) : Out :=
  .next (match s.thread? who with
    | some t =>
      match t.vreplay with
      | some v =>
        match v.entries[v.k]? with
        | some e => if s.replayReady t v e then ((s.focus who).replayStep v e).focus s.cur.id else s
        | none => s
      | none => s
    | none => s)

/-! ### Streams (R160) -/

/-- May a thread's streams fetch ahead: its core awake, not being rolled back (R350) and not halted (R273), its grid placed and not ending, not in replay mode? -/
def State.mayFetch (s : State) (t : Thread) : Bool :=
  t.wait != .faulted && t.wait != .ended && s.coreAwake t.core && !s.orphansLeft t.core && !(s.cluster (clusterOf t.core)).halted &&
  match s.grid? t.id.grid with | some g => g.state == .placed && g.faults.isEmpty && !g.replayOn | none => false

/-- `STREAM_FETCH` (R160): the fetch of the next element of a read stream, ahead of its pop. -/
def execStreamFetch (who : Tid) (r : Reg) (s : State) : Out :=
  .next (match s.thread? who with
    | some t =>
      match t.stream? r with
      | some x =>
        if s.mayFetch t then
          match (s.focus who).fetchElem r x with
          | some f => f.focus s.cur.id
          | none => s
        else s
      | none => s
    | none => s)

/-! ### Units that an engine writes (R71, R165) -/

/-- The key that a copy or `mrot` destination reaches (R165): a byte of a window's area goes to the invisible half. -/
def State.copyKey (s : State) (k : Nat) : Nat :=
  match homeOf k with
  | .tcm g l =>
    let off := (k - 2 ^ 53) % 2 ^ 18
    match windowAt (s.teamD g l).windows false off with
    | some w => tcmKey g l (w.physical (if off < w.off + w.len then off + w.len else off))
    | none => k
  | .spad g l =>
    let off := (k - 2 ^ 54) % 2 ^ 21
    match windowAt (s.teamD g l).windows true off with
    | some w => spadKey g l (w.physical (if off < w.off + w.len then off + w.len else off))
    | none => k
  | _ => k

/-- The window's area that a key lies in: team, space, offset. -/
def State.areaOf (s : State) (k : Nat) : Option (Nat × Nat × Bool × Nat) :=
  match homeOf k with
  | .tcm g l => (windowAt (s.teamD g l).windows false ((k - 2 ^ 53) % 2 ^ 18)).map fun w => (g, l, false, w.off)
  | .spad g l => (windowAt (s.teamD g l).windows true ((k - 2 ^ 54) % 2 ^ 21)).map fun w => (g, l, true, w.off)
  | _ => none

/-- Do the units straddle a window's area (R165)? -/
def State.straddlesArea (s : State) (keys : List Nat) : Bool :=
  match keys with
  | [] => false
  | k :: r => r.any fun x => s.areaOf x != s.areaOf k

/-- The key that an engine's write reaches: `invisible` as a copy or `mrot` writes it (R165). -/
def State.writeKey (s : State) (invisible : Bool) (k : Nat) : Nat := if invisible then s.copyKey k else s.mapKey k

/-- The first unit of a list that reaches a byte of unit `n`, and then the first that reaches a byte of that one, and so on `fuel` times: units
that overlap keep their order. -/
def firstUnit (l : List Piece) : Nat → Nat → Nat
  | 0, n => n
  | fuel + 1, n =>
    match l[n]? with
    | none => 0
    | some p =>
      let m := l.findIdx fun q => p.overlaps q
      if m < n then firstUnit l fuel m else n

/-- The unit of a list that is written when `n` is drawn, at the keys that the units reach. -/
def State.pickUnit (s : State) (invisible : Bool) (l : List Piece) (n : Nat) : Nat :=
  firstUnit (l.map fun q => { q with key := s.writeKey invisible q.key }) l.length n

/-- Does a home hold an engine's access to a key (R65, R294)? -/
def State.engineHeld (s : State) (k : Nat) : Bool := s.reachHeld k || s.carveState k == .hold

/-- What becomes of a unit that an engine writes. -/
inductive UnitWrite where
  | done (s : State)
  | held
  | bad (cause detail : Nat)
  deriving DecidableEq, Repr

/-- One unit written at its home (R70, R71), after what copies of its line write back; it reads the word where it writes a part of it (R344, R345). -/
def State.writeUnit (s : State) (who : Tid) (invisible : Bool) (p : Piece) : UnitWrite :=
  let a := s.writeKey invisible p.key
  match s.carveState p.key with
  | .bad c d => .bad c d
  | .hold => .held
  | .ok =>
    if s.reachHeld p.key then .held
    else if s.homeless a || (p.len != 8 && s.poisoned a p.len) then .bad (s.errCause p.key) (s.errDetail p.key)
    else
      let t := if p.len = 8 then s else (s.correctLine none p.key).correctWords a p.len
      .done (((t.takeLines p.key p.len none).homeStore who (match s.thread? who with | some t => t.epoch | none => 0) p.ea a p.len p.data.toNat).intoShadow a p.len)

/-- Units read by an engine at their homes, joined in order. -/
def State.readUnits (s : State) : List (Nat × Nat) → Nat
  | [] => 0
  | (k, n) :: r => s.loadNat (s.mapKey k) n + 2 ^ (8 * n) * State.readUnits s r

/-- How an engine's read of units stands: a fault, a page not present, a wait, or the bytes. -/
inductive EngineRead where
  | bytes (v : Nat)
  | fault (cause detail : Nat) (fval : Word)
  | absent (va : Word)
  | wait
  deriving DecidableEq, Repr

/-- Whose address space an engine works in: a grid's, or that of a queue's entry (R252), which reaches no window. -/
inductive Space where
  | grid (g : Nat)
  | queue (q : Nat)
  deriving DecidableEq, Repr

/-- The places of addresses in a space. -/
def State.placesIn (s : State) : Space → List Word → List (Word × Place) × State
  | .grid g, l => s.places g l
  | .queue _, [] => ([], s)
  | .queue q, ea :: r =>
    let p := if windowBase ≤ locOf ea then (Place.bad 0x14 0, s) else s.translate q (locOf ea)
    let x := State.placesIn p.2 (.queue q) r
    ((ea, p.1) :: x.1, x.2)

/-- The key of a location now, in a space. -/
def State.keyIn (s : State) : Space → Nat → Option Nat
  | .grid g, loc => s.keyNow g loc
  | .queue q, loc => match (if windowBase ≤ loc then .absent else s.walkQueue q loc) with | .mem k _ _ => some k | _ => none

/-- The checks of units at an address for an engine working for a thread: their places with the permission asked for. -/
def State.engineCheck (s : State) (sp : Space) (ea : Word) (n : Nat) (needW : Bool) : Check × State :=
  let p := s.placesIn sp ((units8 (locOf ea) n).map fun u => eaPlus ea u.1)
  (checkPlaces needW p.1, p.2)

/-- Units read by an engine: clean copies of their words recovered, errors of one bit corrected (R344, R345). -/
def State.readRepairs (s : State) (us : List (Nat × Nat)) : State :=
  if s.soft.isEmpty && s.poison.isEmpty then s
  else us.foldl (fun t u => ((t.recoverLines u.1).correctLine none u.1).correctWords (t.mapKey u.1) u.2) s

/-- An engine's read of `n` bytes (R79, R345): after every earlier store of the thread to them. -/
def State.engineRead (s : State) (sp : Space) (who : Tid) (upto : Nat) (ea : Word) (n : Nat) : EngineRead × State :=
  let c := s.engineCheck sp ea n false
  match c.1 with
  | .fault a b v => (.fault a b v, c.2)
  | .absent va => (.absent va, c.2)
  | .queueWindow _ => (.bytes 0, c.2)
  | .ok keys =>
    let offs := units8 (locOf ea) n
    let us := keys.zip (offs.map (·.2))
    if us.any fun u => c.2.storePending who upto u.1 u.2 || c.2.engineHeld u.1 then (.wait, c.2)
    else
      match (us.zip offs).find? fun u => c.2.poisoned (c.2.mapKey u.1.1) u.1.2 with
      | some u => (.fault (c.2.errCause u.1.1) (c.2.errDetail u.1.1) (eaPlus ea u.2.1), c.2)
      | none => (.bytes (c.2.readUnits us), c.2.readRepairs us)

/-! ### Copies (R164) -/

/-- A copy changed. -/
def State.modCopy (s : State) (n : Nat) (f : Copy → Copy) : State :=
  { s with copies := s.copies.map fun c => if c.id = n then f c else c }

/-- Rows or elements of a copy. -/
def Copy.count (c : Copy) : Nat := (c.ops.getD 3 0).toNat

/-- Bytes of a row or an element. -/
def Copy.unit (c : Copy) : Nat := (c.ops.getD 2 0).toNat

/-- The address of index i (R164). -/
def Copy.indexAddr (c : Copy) : Word := strideAddr (c.ops.getD 4 0) 4 c.next

/-- The source of the next row or element, given its index (R164). -/
def Copy.source (c : Copy) (x : Nat) : Word :=
  match c.kind with
  | 0 => strideAddr (c.ops.getD 0 0) (c.ops.getD 4 0) c.next
  | 1 => strideAddr (c.ops.getD 0 0) (c.ops.getD 5 0) x
  | _ => strideAddr (c.ops.getD 0 0) (c.ops.getD 2 0) c.next

/-- The destination of the next row or element (R164). -/
def Copy.target (c : Copy) (x : Nat) : Word :=
  match c.kind with
  | 0 => strideAddr (c.ops.getD 1 0) (c.ops.getD 5 0) c.next
  | 1 => strideAddr (c.ops.getD 1 0) (c.ops.getD 2 0) c.next
  | _ => strideAddr (c.ops.getD 1 0) (c.ops.getD 5 0) x

/-- An entry of a queue changed. -/
def State.modEntry (s : State) (q n : Nat) (f : QEntry → QEntry) : State :=
  let k := s.queue q
  s.setQueue { k with entries := k.entries.map fun e => if e.id = n then f e else e }

/-- The address space of a copy. -/
def Copy.space (c : Copy) : Space := match c.entry with | some (q, _) => .queue q | none => .grid c.grid

/-- WHERE of an uncorrectable error that a queue's own access meets at a location (R343). -/
def State.queueWhere (s : State) (q : Nat) (va : Word) : Nat :=
  match (s.walkErrorKey q (locOf va)).or (s.keyIn (.queue q) (locOf va)) with | some k => s.whereBad k | none => 0

/-- A copy that fails (R336): its grid will end, or its queue's entry has failed (R320, R345); what was written stays. -/
def State.failCopy (s : State) (c : Copy) (cause detail : Nat) (fval : Word) : State :=
  let s := { s with copies := s.copies.filter fun x => x.id != c.id }
  match c.entry with
  | some (q, n) =>
    (if cause = 0x1A then s.telemetry 2 detail (s.queueWhere q fval) fval.toNat 0 else s).modEntry q n fun e =>
      if cause = 0x1A then { e with done := true, status := 1, cause := 0x1A } else { e with done := true, status := 5, cause := 0x34 }
  | none => s.faultOf c.tid c.fpc cause detail fval

/-- A copy paused for fault service (R339); an entry's copy fails instead (R320). -/
def State.pauseCopy (s : State) (c : Copy) (va : Word) (kind : Nat) : State :=
  if c.entry.isSome then s.failCopy c 0x14 0 va
  else
  let r := s.addFs va c.tid kind (.copy c.id)
  r.2.modCopy c.id fun x => { x with paused := some r.1 }

/-- A copy that has written everything (R163): its slot is free and c is lowered, or its queue's entry is complete. -/
def State.endCopy (s : State) (c : Copy) : State :=
  let s := { s with copies := s.copies.filter fun x => x.id != c.id }
  match c.entry with
  | some (q, n) => s.modEntry q n fun e => { e with done := true }
  | none => if c.counted then s.modThread c.tid fun t => { t with cntC := if t.cntC = 0 then 0 else t.cntC - 1 } else s

/-- What a read of a copy leads to when it gives no bytes. -/
def State.copyStopped (s : State) (c : Copy) : EngineRead → State
  | .fault a b v => s.failCopy c a b v
  | .absent va => s.pauseCopy c va 0
  | _ => s

/-- The bytes of a row or element put among the units to write, once the destination has been checked (R165). One that straddles a window's
area fails when the engine comes to write it, after the rows before it. -/
def State.copyPut (s : State) (c : Copy) (ea : Word) (v : Nat) : State :=
  let us := units8 (locOf ea) c.unit
  let k := s.engineCheck c.space ea c.unit true
  match k.1 with
  | .fault a b va => k.2.failCopy c a b va
  | .absent va => k.2.pauseCopy c va 1
  | .queueWindow _ => k.2.failCopy c 0x16 8 ea
  | .ok keys =>
    if k.2.straddlesArea keys then (if c.writes.isEmpty then k.2.failCopy c 0x16 9 ea else s)
    else k.2.modCopy c.id fun x => { x with next := x.next + 1, writes := x.writes ++ mkPieces ea v (zipUnits keys us) }

/-- Does the read of a row or element meet a unit that the copy has still to write? It keeps the order of R164. -/
def State.copyOverlap (s : State) (c : Copy) (ea : Word) (n : Nat) : Bool :=
  (units8 (locOf ea) n).any fun u =>
    match s.keyIn c.space (locOf (eaPlus ea u.1)) with
    | some k => c.writes.any fun p => (piece (s.mapKey k) u.2 0).overlaps { p with key := s.copyKey p.key }
    | none => false

/-- The next row or element read (R164): its index, then its bytes. -/
def State.copyRead (s : State) (c : Copy) : State :=
  let i := if c.kind = 0 then (EngineRead.bytes 0, s)
           else if s.copyOverlap c c.indexAddr 4 then (EngineRead.wait, s) else s.engineRead c.space c.tid c.upto c.indexAddr 4
  match i.1 with
  | .bytes x =>
    if i.2.copyOverlap c (c.source x) c.unit then i.2
    else
      let r := i.2.engineRead c.space c.tid c.upto (c.source x) c.unit
      match r.1 with
      | .bytes v => r.2.copyPut c (c.target x) v
      | o => r.2.copyStopped c o
  | o => i.2.copyStopped c o

/-- One unit of a copy written; with the last one the copy is over. -/
def State.copyWrite (s : State) (c : Copy) (n : Nat) : State :=
  let k := s.pickUnit true c.writes n
  match c.writes[k]? with
  | none => s
  | some p =>
    match s.writeUnit c.tid true p with
    | .done t =>
      let left := c.writes.eraseIdx k
      if left.isEmpty && decide (c.count ≤ c.next) then t.endCopy c else t.modCopy c.id fun x => { x with writes := left }
    | .held => s
    | .bad a b => s.failCopy c a b p.ea

/-- Is the cluster's work stopped by a halt (R273)? -/
def State.engineRuns (s : State) (cl : Nat) : Bool := s.powered && !(s.cluster cl).halted

/-- `COPY_TRANSFER` (R164): one step of a copy: the next row or element read, one of its units written (which one is open, R71),
or its end. In a halted cluster it starts nothing (R273). -/
def State.copyTransfer (s : State) (c : Copy) : State :=
  if c.paused.isSome || c.untilTret || !s.powered then s
  else if c.writes.isEmpty && decide (c.count ≤ c.next) then s.endCopy c
  else if !s.engineRuns c.cluster then (if c.writes.isEmpty then s else s.copyWrite c 0)
  else if c.writes.isEmpty then s.copyRead c
  else
    let d := s.draw
    let n := d.1 % (c.writes.length + 1)
    if n < c.writes.length then d.2.copyWrite c n
    else if c.next < c.count then
      let t := d.2.copyRead c
      if t.copies == d.2.copies && t.fs == d.2.fs then d.2.copyWrite c 0 else t
    else d.2.copyWrite c 0

/-- `COPY_TRANSFER` (R164). -/
def execCopyTransfer (n : Nat) (s : State) : Out :=
  .next (match s.copies.find? fun c => c.id == n with
    | some c => s.copyTransfer c
    | none => s)

/-- A missed promise of a thread (R312): the trap is due, and a `sleep` ends. -/
def Thread.missPromise (t : Thread) (p now : Word) : Thread :=
  let t : Thread := { t with traps := t.traps ++ [⟨2, p, now⟩] }
  match t.wait with
  | .sleep _ _ => t.goOn
  | _ => t

/-- Has a copy writes that are not yet performed? -/
def Copy.unwritten (c : Copy) : Bool := !c.writes.isEmpty || decide (c.next < c.count)

/-- `PROMISE_CHECK` (R312): at cycle P, was every write of the copy performed? In replay mode none is missed (R339). -/
def execPromiseCheck (n : Nat) (s : State) : Out :=
  .next (match s.threads.find? fun t => t.promises.any fun p => p.1 == n with
    | some t =>
      match t.promises.find? fun p => p.1 == n with
      | some (_, p) =>
        if s.obsOf t < p then s
        else
          let s := s.modThread t.id fun x => { x with promises := x.promises.filter fun y => y.1 != n }
          let late := (s.copies.any fun c => c.id == n && c.unwritten) && !(s.gridD t.id.grid).replayOn
          if late then (s.modCopy n fun c => { c with missed := true }).modThread t.id fun x => x.missPromise p s.cycle else s
      | none => s
    | none => s)

end Sys2Proof.Machine
end

