-- ==== Sys2Proof/Machine/Matrix.lean ====
section
/-! DEFINITION. The matrix unit and the rein (R20, R96–R99, R119–R121, R192–R203, R270, R303, R336, R337, R346). and the exchange of a double window under `publ` (R83).
One step of a command is one row, or one of the units it writes. Each step whose object or condition is missing leaves the machine as it is. -/

namespace Sys2Proof.Machine

/-! ### Records (R119–R121) -/

/-- N. -/
def MRec.n (r : MRec) : Nat := r.h 29 24 + 1
/-- K. -/
def MRec.k (r : MRec) : Nat := r.h 47 32 + 1
/-- Z. -/
def MRec.z (r : MRec) : Bool := r.h 12 12 == 1
/-- SP. -/
def MRec.sp (r : MRec) : Bool := r.h 13 13 == 1
/-- SC. -/
def MRec.sc (r : MRec) : Bool := r.h 14 14 == 1
/-- Does the command sum E4M3 products with scales (R98, R99)? -/
def MRec.scaled (r : MRec) : Bool := r.kind == 2 || r.kind == 3 || (r.kind == 4 && r.sc)

/-- The words that hold addresses in a kind's record (R120). -/
def MRec.addressWords (r : MRec) : List Nat :=
  match r.kind with
  | 1 => [1, 2]
  | 2 => [1, 2, 4, 5]
  | 3 => [1, 2, 4, 5, 6]
  | 4 => if r.sc then [1, 2, 4, 5, 6, 7] else [1, 2, 6, 7]
  | 5 => [1]
  | 6 => [1, 4]
  | _ => []

/-- The bits of the header that a kind uses (R119, R120). -/
def headerMask : Nat → Word
  | 1 => 0x0000FFFF3F3F1FFF
  | 2 => 0x0000FFFF3F3F1FFF
  | 3 => 0x0000FFFF3F3F3FFF
  | 4 => 0x0000FFFF3F3F5FFF
  | 5 => 0x00000000003F0FFF
  | 6 => 0x00000000003F0FFF
  | 7 => 0x0000000000000FFF
  | _ => 0

/-- The bits of the stride word that a kind uses (R120). -/
def MRec.strideMask (r : MRec) : Word :=
  match r.kind with
  | 1 => 0x00000000FFFFFFFF
  | 2 => 0xFFFFFFFFFFFFFFFF
  | 3 => 0xFFFFFFFFFFFFFFFF
  | 4 => if r.sc then 0xFFFFFFFFFFFFFFFF else 0x00000000FFFFFFFF
  | 5 => 0x000000000000FFFF
  | 6 => 0x000000000000FFFF
  | _ => 0

/-- The mask of word j: an address has 56 bits (R120). -/
def MRec.mask (r : MRec) (j : Nat) : Word :=
  if j = 0 then headerMask r.kind
  else if j = 3 then r.strideMask
  else if r.addressWords.contains j then 0x00FFFFFFFFFFFFFF else 0

/-- An illegal record (R121). -/
def MRec.illegal (r : MRec) : Bool :=
  r.kind == 0 || decide (7 < r.kind) || (List.range 8).any fun j => (r.w j &&& ~~~(r.mask j)) != 0

/-! ### The queue and its head -/

/-- The number that stands for a record of a matrix queue among the errors that arise (R344); R345 gives it no storage kind, and it counts
as 5 (DESIGN CHOICE, log entry 59). -/
def mqErr (n : Nat) : Nat := 2 ^ 99 + n

/-- A record that its unit reads, an error of one bit corrected (R344). -/
def State.readRec (s : State) (c : Nat) (r : MRec) : State := s.correctPlace (mqErr r.id) 5 c 0

/-- A record of a core's queue changed. -/
def State.modRec (s : State) (c n : Nat) (f : MRec → MRec) : State :=
  let k := s.core c
  s.setCore { k with mq := k.mq.map fun r => if r.id = n then f r else r }

/-- A record gone from a core's queue; a queue that empties awaits its step-down (R203). -/
def State.dropRec (s : State) (c n : Nat) : State :=
  let k := s.core c
  let q := k.mq.filter fun r => r.id != n
  s.setCore { k with mq := q, emptied := if q.isEmpty && !k.mq.isEmpty then s.cycle else k.emptied }

/-- A command that fails (R336). -/
def State.failRec (s : State) (c : Nat) (r : MRec) (cause detail : Nat) (fval : Word) : State :=
  (s.dropRec c r.id).faultOf r.tid r.fpc cause detail fval

/-- A command complete (R192): its slot is free and m is lowered. -/
def State.endRec (s : State) (c : Nat) (r : MRec) : State :=
  (s.dropRec c r.id).modThread r.tid fun t => { t with cntM := if t.cntM = 0 then 0 else t.cntM - 1 }

/-- A command stopped at a row boundary for fault service (R337). -/
def State.pauseRec (s : State) (c : Nat) (r : MRec) (va : Word) : State :=
  let f := s.addFs va r.tid 3 (.record c r.id)
  f.2.modRec c r.id fun x => { x with paused := some f.1 }

/-- Is a `vld` into the TC, a `vst` of it, or a `vloop` that names it, from before the record incomplete (R174)? -/
def State.tcBusy (s : State) (r : MRec) : Bool :=
  (s.fabric.any fun q => q.tid.grid == r.tid.grid && q.tid.team == r.tid.team && decide (q.id < r.id) &&
    (q.tile == some r.tc && q.open_ || (match q.dest with | .row t _ _ => t == r.tc | _ => false))) ||
  (s.teamThreads r.tid.grid r.tid.team).any fun t =>
    match t.vreplay with
    | some v => decide (v.base < r.id) && v.entries.any fun e => (rowsOf e.instr).any fun x => tileNo x == r.tc
    | none => false

/-- Is the unit of a core active (R203)? -/
def Core.unitActive (c : Core) : Bool := match c.unit with | .active _ => true | _ => false

/-- Blocks of 128 along K. -/
def MRec.blocks (r : MRec) : Nat := (r.k + 127) / 128

/-- The rows of a block: its source word and stride, the bytes of a row, the number of rows (R199). -/
def MRec.block (r : MRec) (tag : Nat) : Nat × Nat × Nat × Nat :=
  let z := viewSize (viewOf (r.w 1))
  match tag with
  | 0 => (1, 0, r.k * z, r.m)
  | 1 => (2, 1, r.n * z, r.k)
  | 2 => (4, 2, 4 * r.blocks, r.m)
  | _ => (5, 3, 4, r.blocks)

/-- The word that holds the destination of a block (R198). -/
def rotWord (tag : Nat) : Nat := if tag = 0 then 6 else if tag = 1 then 7 else if tag = 2 then 4 else 5

/-- The units of the block that an `mrot` sends first, all of them (R199). -/
def MRec.blockLen (r : MRec) (tag : Nat) : Nat :=
  let b := r.block tag
  ((List.range b.2.2.2).map fun i => (units8 (locOf (strideAddr (r.w (rotWord tag)) (r.stride b.2.1) i)) b.2.2.1).length).sum

/-- Has a command written a part of a row of a drain, or of a block of an `mrot`? It stops only once that is written (R337). -/
def MRec.midRow (r : MRec) : Bool :=
  !r.writes.isEmpty || (match r.sends with | (tag, l) :: _ => decide (l.length < r.blockLen tag) | [] => false)

/-- Must the queue of a core go on although its teams stop, since an access of a thread waits for a fill in it (R43, R46, R73, R200;
DESIGN CHOICE, log entry 77)? -/
def State.fillNeeded (s : State) (c : Nat) : Bool :=
  (s.core c).mq.any fun f => f.kind == 5 &&
    s.fabric.any fun q => q.tid == f.tid && decide (f.id < q.id) && q.open_ && !q.parked && q.dataFrom.isNone && (q.isLoad || q.isStore)

/-- Does the grid of a command let it begin a row: placed, or to be saved where an access waits for the row; and not ending? -/
def State.gridRuns (s : State) (c g : Nat) : Bool :=
  match s.grid? g with
  | some x => (x.state == .placed || ((match x.state with | .quiescing _ => true | _ => false) && s.fillNeeded c)) && x.faults.isEmpty
  | none => false

/-- May a command advance: its unit active, its core running and not being rolled back (R350), its grid placed and not ending; else only to the next row boundary
(R43, R46, R203, R273, R316)? -/
def State.recRuns (s : State) (c : Nat) (r : MRec) : Bool :=
  let k := s.core c
  k.unitActive && s.coreAwake c && !s.orphansLeft c && r.paused.isNone && !r.untilTret &&
  (r.midRow || (s.engineRuns (clusterOf c) && (!k.exchanging || s.fillNeeded c) && s.gridRuns c r.tid.grid)) &&
  (r.running || !s.tcBusy r)

/-- The legal head of a core's queue of a kind, when it may advance. -/
def State.head? (s : State) (c kind : Nat) : Option MRec :=
  match (s.core c).mq.head? with
  | some r => if r.kind == kind && !r.illegal && s.recRuns c r then some r else none
  | none => none

/-- `ILLEGAL_RECORD` (R121): the unit does not run it. -/
def execIllegalRecord (c : Nat) (s : State) : Out :=
  .next (match (s.core c).mq.head? with
    | some r => if r.illegal && s.recRuns c r then s.failRec c r 0x11 r.kind (r.w 0) else s
    | none => s)

/-! ### Sums (R96–R99) -/

/-- A list cut into groups of `n`; `fuel` bounds their number. -/
def chunksOf {α : Type} (n : Nat) : Nat → List α → List (List α)
  | 0, _ => []
  | fuel + 1, l => if l.isEmpty then [] else l.take n :: chunksOf n fuel (l.drop n)

/-- R97 over floating-point products: one rounding for each group of 16. -/
def sumGroups (acc : Nat) (ps : List FV) : Nat :=
  (chunksOf 16 ps.length ps).foldl (fun a g => Fmt.fp32.ne (sumFV false (Fmt.fp32.decode a :: g))) acc

/-- R97 over INT8 products, modulo 2^32. -/
def sumInts (acc : Nat) (ps : List FV) : Nat := Elem.int32.ofIntBits (Elem.int32.toInt acc + fvInt (sumFV false ps))

/-- The inner accumulator of R98 over the groups of a block, and OVF. -/
def innerSum (gs : List (List FV)) : FV × Bool :=
  gs.foldl (fun a g => let r := roundE8M15 (sumFV false (a.1 :: g)); (r.1, a.2 || r.2)) (.fin false 0 0, false)

/-- `Promote` of R98. -/
def promote (acc : Nat) (p : FV) (sa sb : Nat) : Nat :=
  let t := Fmt.fp32.ne (p.mul (Fmt.fp32.decode sa))
  let u := Fmt.fp32.ne ((Fmt.fp32.decode t).mul (Fmt.fp32.decode sb))
  Fmt.fp32.ne ((Fmt.fp32.decode acc).add false (Fmt.fp32.decode u))

/-- R98 over blocks of groups, with the scales of A and B. -/
def sumBlocks : List (List (List FV)) → List Nat → List Nat → Nat × Bool → Nat × Bool
  | b :: bs, sa, sb, acc =>
    let i := innerSum b
    sumBlocks bs (sa.drop 1) (sb.drop 1) (promote acc.1 i.1 (sa.headD 0) (sb.headD 0), acc.2 || i.2)
  | [], _, _, acc => acc

/-- The elements of `n` bytes read as one number. -/
def elemsOf (z n : Nat) (v : Nat) : List Nat := (List.range n).map fun i => v / 2 ^ (8 * z * i) % 2 ^ (8 * z)

/-- The products of a row of A and column j of B; an absent element of A gives none (R97, R98). -/
def products (ta tb : Elem) (a : List (Option Nat)) (b : List (List Nat)) (j : Nat) : List (Option FV) :=
  (a.zip b).map fun p => p.1.map fun x => (elemVal ta x).mul (elemVal tb (p.2.getD j 0))

/-- One result element: the new accumulator and OVF. -/
def resultElem (scaled int : Bool) (ps : List (Option FV)) (sa sb : List Nat) (acc : Nat) : Nat × Bool :=
  if scaled then
    sumBlocks ((chunksOf 128 ps.length ps).map fun b => (chunksOf 32 b.length b).map fun g => g.filterMap id) sa sb (acc, false)
  else if int then (sumInts acc (ps.filterMap id), false)
  else (sumGroups acc (ps.filterMap id), false)

/-! ### Operands (R193, R194, R197) -/

/-- The TYPE code that TC must have for operand views, or none outside the table of R193. -/
def MRec.tcType (r : MRec) : Option Nat :=
  let va := viewOf (r.w 1)
  let vb := viewOf (r.w 2)
  if va ≠ vb then none
  else if r.scaled then (if va = 1 then some 0 else none)
  else if va = 2 ∨ va = 3 then some 0
  else if va = 4 then some 2
  else none

/-- N_s of R197. -/
def MRec.ns (r : MRec) : Nat := if r.sp then 8 else 16

/-- An address word as an effective address. -/
def MRec.addr (r : MRec) (j : Nat) : Word := effAddr (r.w j) 0

/-- log2 of the alignment of an address word (R333). -/
def MRec.alignLog (r : MRec) (j : Nat) : Nat :=
  match r.kind, j with
  | 5, _ => rowAlign (viewOf (r.w 1))
  | 6, 1 => rowAlign (viewOf (r.w 1))
  | 6, _ => 3
  | 4, 6 => 0
  | 4, 7 => 0
  | _, 1 => (viewSize (viewOf (r.w 1))).log2
  | _, 2 => (viewSize (viewOf (r.w 2))).log2
  | _, _ => 2

/-- A word whose view is 6 to 15 (R333). -/
def MRec.viewBad (r : MRec) : Option Nat := r.addressWords.find? fun j => decide (6 ≤ viewOf (r.w j))

/-- A word whose address is misaligned (R333). -/
def MRec.misaligned (r : MRec) : Option Nat := r.addressWords.find? fun j => locOf (r.addr j) % 2 ^ r.alignLog j != 0

/-- The address of an `mrot` destination in another team's share (R198): the team field replaced. -/
def withTeam (ea : Word) (l : Nat) : Word :=
  let loc := locOf ea
  let o := loc - windowBase
  let n := if windowBase ≤ loc ∧ o < 2 ^ 31 then windowBase + l * 2 ^ 18 + o % 2 ^ 18
           else if windowBase ≤ loc ∧ 0x400000000 ≤ o ∧ o < 0x800000000 then windowBase + 0x400000000 + l * 2 ^ 21 + o % 2 ^ 21
           else loc
  BitVec.ofNat 64 (viewOf ea * 2 ^ 52 + n)

/-- The number of the double window of a team that a location of its share lies in. -/
def State.windowNo (s : State) (g l : Nat) (ea : Word) : Option Nat :=
  match s.keyNow g (locOf (withTeam ea l)) with
  | some k =>
    match s.areaOf k with
    | some (_, _, sp, off) => some ((s.teamD g l).windows.findIdx fun w => w.spad == sp && w.off == off)
    | none => none
  | none => none

/-- The destination words of an `mrot`, each with its block (0 A, 1 B, 2 SA, 3 SB). -/
def MRec.rotWords (r : MRec) : List (Nat × Nat) := if r.sc then [(0, 6), (1, 7), (2, 4), (3, 5)] else [(0, 6), (1, 7)]

/-- An `mrot` destination or scale base outside a double window (R198). -/
def State.rotBad (s : State) (r : MRec) : Option Word :=
  (r.rotWords.find? fun p => (s.windowNo r.tid.grid r.tid.team (r.addr p.2)).isNone).map fun p => r.addr p.2

/-- What a record's own fields violate as it runs (R332, R333): cause, DETAIL, FVAL. Views first, then the operand errors, then
alignment (log entry 20). One with an uncorrectable error is not looked at (R345). -/
def State.recBad (s : State) (r : MRec) : Option (Nat × Nat × Word) :=
  if s.poison.contains (mqErr r.id) then some (0x1A, 5, 0)
  else
  match r.viewBad with
  | some j => some (0x13, viewOf (r.w j) + 16 * (if r.kind = 6 ∧ j = 4 then 3 else 15), r.addr j)
  | none =>
    let tiles := (s.teamD r.tid.grid r.tid.team).tiles
    if tiles.length ≤ r.tc then some (0x16, 1, BitVec.ofNat 64 r.tc)
    else if r.kind ≤ 4 ∧ r.tcType ≠ some (s.tileType r.tid r.tc) then some (0x16, 3, r.w 0)
    else if r.kind = 3 ∧ r.k % 32 ≠ 0 then some (0x16, 4, r.w 0)
    else if r.kind = 4 ∧ (s.gridD r.tid.grid).desc.side = 0 then some (0x16, 5, r.addr 6)
    else
      match (if r.kind = 4 then s.rotBad r else none) with
      | some a => some (0x16, 5, a)
      | none => r.misaligned.map fun j => (0x12, 16 * r.alignLog j, r.addr j)

/-- Several reads of an engine, one after another; the first that gives no bytes stops them. -/
def State.engineReads (s : State) (who : Tid) (upto : Nat) : List (Word × Nat) → Except EngineRead (List Nat) × State
  | [] => (.ok [], s)
  | (ea, n) :: r =>
    let x := s.engineRead (.grid who.grid) who upto ea n
    match x.1 with
    | .bytes v =>
      let y := State.engineReads x.2 who upto r
      match y.1 with
      | .ok l => (.ok (v :: l), y.2)
      | e => (e, y.2)
    | e => (.error e, x.2)

/-- What a read of a command leads to when it gives no bytes. -/
def State.recStopped (s : State) (c : Nat) (r : MRec) : EngineRead → State
  | .fault a b v => s.failRec c r a b v
  | .absent va => s.pauseRec c r va
  | _ => s

/-- The bytes of a row of A as memory holds it. -/
def MRec.aBytes (r : MRec) : Nat := if r.kind = 3 then r.k / 32 * r.ns else r.k * viewSize (viewOf (r.w 1))

/-- The rows of B. -/
def MRec.bReads (r : MRec) : List (Word × Nat) :=
  (List.range r.k).map fun k => (strideAddr (r.w 2) (r.stride 1) k, r.n * viewSize (viewOf (r.w 2)))

/-- The alignments of what row i reads (R333), in the order of `MRec.rowReads`; words of 4 bytes between A and B. -/
def MRec.readAlign (r : MRec) (n i : Nat) : Nat :=
  if i = 0 ∨ n - r.k ≤ i then (viewSize (viewOf (r.w 1))).log2 else 2

/-- The rows of SB that a command uses: N is at most 64, one column block (R99). -/
def MRec.sbReads (r : MRec) : List (Word × Nat) := (List.range r.blocks).map fun k => (strideAddr (r.w 5) (r.stride 3) k, 4)

/-- What row i reads: A, the mask of R197, the scales of A, the scales of B when they are not yet held, the rows of B. -/
def MRec.rowReads (r : MRec) (i : Nat) : List (Word × Nat) :=
  [(strideAddr (r.w 1) (r.stride 0) i, r.aBytes)] ++
  (if r.kind = 3 then [(strideAddr (r.w 6) (BitVec.ofNat 64 (4 * (r.k / 32))) i, 4 * (r.k / 32))] else []) ++
  (if r.scaled then [(strideAddr (r.w 4) (r.stride 2) i, 4 * r.blocks)] else []) ++
  (if r.scaled && r.scalesB.isEmpty then r.sbReads else []) ++ r.bReads

/-- The first misaligned address that row i reads (R333), and the log2 of its alignment. -/
def MRec.readMisaligned (r : MRec) (i : Nat) : Option (Word × Nat) :=
  let l := r.rowReads i
  (l.zipIdx.find? fun p => locOf p.1.1 % 2 ^ r.readAlign l.length p.2 != 0).map fun p => (p.1.1, r.readAlign l.length p.2)

/-- The present elements of a group of 32 put where its mask says (R197). -/
def expandGroup (mask : Nat) : Nat → Nat → List Nat → List (Option Nat)
  | 0, _, _ => []
  | n + 1, p, l =>
    if mask / 2 ^ p % 2 = 1 then l.head? :: expandGroup mask n (p + 1) (l.drop 1) else none :: expandGroup mask n (p + 1) l

/-- A compressed row of A expanded along K (R197). -/
def expandRow (ns : Nat) : List Nat → List Nat → List (Option Nat)
  | m :: ms, l => expandGroup m 32 0 (l.take ns) ++ expandRow ns ms (l.drop ns)
  | [], _ => []

/-- The set bits of a mask word. -/
def bitCount (m : Nat) : Nat := ((List.range 32).filter fun p => m / 2 ^ p % 2 = 1).length

/-- The values that row i of a command uses. -/
structure RowData where
  a : List (Option Nat)
  sa : List Nat
  sb : List Nat
  b : List (List Nat)
  deriving DecidableEq, Repr

/-- The row's values from its reads; or the mask word that R197 refuses. -/
def MRec.rowData (r : MRec) (l : List Nat) : Except Nat RowData :=
  let z := viewSize (viewOf (r.w 1))
  let a := l.headD 0
  let l := l.drop 1
  let masks := if r.kind = 3 then elemsOf 4 (r.k / 32) (l.headD 0) else []
  let l := if r.kind = 3 then l.drop 1 else l
  let sa := if r.scaled then elemsOf 4 r.blocks (l.headD 0) else []
  let l := if r.scaled then l.drop 1 else l
  let fresh := r.scaled && r.scalesB.isEmpty
  let sb := if fresh then l.take r.blocks else r.scalesB.map (·.toNat)
  let l := if fresh then l.drop r.blocks else l
  let b := l.map fun v => elemsOf (viewSize (viewOf (r.w 2))) r.n v
  match masks.find? fun m => bitCount m != r.ns with
  | some m => .error m
  | none =>
    .ok { a := if r.kind = 3 then expandRow r.ns masks (elemsOf 1 r.aBytes a) else (elemsOf z r.k a).map some, sa := sa, sb := sb, b := b }

/-- Row i of the result, and OVF (R196). -/
def MRec.resultRow (r : MRec) (d : RowData) (old : List Nat) : List Nat × Bool :=
  let t := Elem.ofView (viewOf (r.w 1))
  let u := Elem.ofView (viewOf (r.w 2))
  let l := (List.range r.n).map fun j =>
    resultElem r.scaled (viewOf (r.w 1) == 4) (products t u d.a d.b j) d.sa d.sb (if r.z then 0 else old.getD j 0)
  (l.map (·.1), l.any (·.2))

/-! ### The exchange of a double window (R83) -/

/-- Does row i of a fill command read a byte of a window's area? -/
def State.fillReads (s : State) (r : MRec) (inArea : Nat → Bool) (i : Nat) : Bool :=
  let ea := r.rowAddr i
  [ea, eaPlus ea (rowBytes (s.tileElem r.tid r.tc) (viewOf ea) - 1)].any fun a =>
    match s.keyNow r.tid.grid (locOf a) with | some k => inArea k | none => false

/-- Does a request that must read one half only stand half performed in a window's area (R83): a load, or a fill that has read
rows of it and has others still to read? -/
def State.halfRead (s : State) (inArea : Nat → Bool) : Bool :=
  (s.fabric.any fun r => r.isLoad && (match r.dest with | .quad => true | .row _ _ _ => true | _ => false) &&
    (r.pieces.any fun p => inArea p.key) && (r.pieces.any (·.done)) && r.pieces.any fun p => !p.done) ||
  s.cores.any fun c => c.mq.any fun r =>
    r.running && r.kind == 5 && (List.range r.rows).any (s.fillReads r inArea) &&
    (List.range r.m).any fun i => decide (r.rows ≤ i) && s.fillReads r inArea i

/-- The two halves of the window that holds a location of a grid exchanged; nothing without such a window. A full/empty operation parked on
a word of the window waits from then on for the word that its address now reaches, and the exchange itself serves none, where R31, R49,
R83 and R166 are silent (DESIGN CHOICE, log entry 69). -/
def State.flipAt (s : State) (g loc : Nat) : Option State :=
  match (s.place g loc).1 with
  | .mem k _ _ =>
    match s.areaOf k with
    | some (tg, l, sp, off) =>
      if s.halfRead fun x => s.areaOf x == some (tg, l, sp, off) then none
      else
        some (s.modTeam tg l fun t =>
          { t with windows := t.windows.map fun w => if w.spad == sp && w.off == off then { w with flipped := !w.flipped } else w })
    | none => some s
  | _ => some s

/-- `WINDOW_EXCHANGE` (R83): the exchange of a thread's `publ`, after its release. -/
def execWindowExchange (who : Tid) (s : State) : Out :=
  .next (match s.thread? who with
    | some t =>
      match t.wait with
      | .publ .exchange upto loc =>
        match s.flipAt who.grid loc with
        | some f => f.modThread who fun x => { x with wait := .publ .done upto loc }
        | none => s
      | _ => s
    | none => s)

/-! ### Multiplying (R195, R196, R199) -/

/-- Does the command write the whole tile from zero (R173)? -/
def MRec.whole (r : MRec) : Bool := r.z && r.m == 64 && r.n == 64

/-- A tile of a record's team changed. -/
def State.modTc (s : State) (r : MRec) (f : Tile → Tile) : State :=
  match s.tileOf? r.tid r.tc with
  | some t => s.setTileOf r.tid r.tc (f t)
  | none => s

/-- The first row of a multiply clears OVF where R173 says so. -/
def State.startTc (s : State) (r : MRec) : State :=
  if r.whole && !r.running then s.modTc r fun t => { t with ovf := false } else s

/-- Bytes of a row of TC that a multiply writes. -/
def State.tcBytes (s : State) (r : MRec) : Nat := r.n * (s.tileElem r.tid r.tc).size

/-- A row of TC written by a command; fresh check bits clear an error there where all of it is written (R345). -/
def State.putTcRow (s : State) (r : MRec) (v : Row) (ovf full : Bool) : State :=
  let t := s.modTc r fun t => { t.putRow r.rows v with ovf := t.ovf || ovf }
  if full then t.clearError (tileErr r.tid r.tc r.rows) else t

/-- The checksum of TC after a multiply (R173). -/
def State.sealTc (s : State) (r : MRec) : State :=
  s.modTc r fun t => { t with valid := t.valid || r.whole, sumBad := t.valid && t.sumBad && !r.whole }

/-- Does a multiply read the old row of TC: to accumulate, or to write a word in part (R345)? -/
def State.tcReads (s : State) (r : MRec) : Bool := !r.z || s.tcBytes r % 8 != 0

/-- The old row of TC that is read meets an uncorrectable error (R345). -/
def State.tcError (s : State) (r : MRec) : Bool := s.tcReads r && s.poison.contains (tileErr r.tid r.tc r.rows)

/-- The next row of a multiplying command, and what follows its last (R195). -/
def State.multiplyRow (s : State) (c : Nat) (r : MRec) (last : State → State) : State :=
  match s.recBad r with
  | some (a, b, v) => s.failRec c r a b v
  | none =>
    if s.tcError r then s.failRec c r 0x1A 6 (BitVec.ofNat 64 (64 * r.tc + r.rows))
    else
      match r.readMisaligned r.rows with
      | some (ea, a) => s.failRec c r 0x12 (16 * a) ea
      | none =>
      let x := s.engineReads r.tid r.upto (r.rowReads r.rows)
      match x.1 with
      | .error e => x.2.recStopped c r e
      | .ok l =>
        match r.rowData l with
        | .error m => x.2.failRec c r 0x16 4 (BitVec.ofNat 64 m)
        | .ok d =>
          let s := (x.2.startTc r).correctRows r.tid (if s.tcReads r then [(r.tc, r.rows)] else [])
          let old := s.readRow r.tid r.tc r.rows
          let e := s.tileElem r.tid r.tc
          let v := r.resultRow d (rowElems old e)
          let s := s.putTcRow r (rowWith old e.size v.1) v.2 (s.tcBytes r == 256)
          let s := s.modRec c r.id fun x =>
            { x with running := true, rows := r.rows + 1, scalesA := x.scalesA ++ d.sa.map (BitVec.ofNat 64), scalesB := d.sb.map (BitVec.ofNat 64) }
          if r.rows + 1 < r.m then s else last (s.sealTc r)

/-- A step of an `mma` of a kind. -/
def State.mmaStep (s : State) (c kind : Nat) : State :=
  match s.head? c kind with
  | some r => (s.readRec c r).multiplyRow c r fun t => t.endRec c r
  | none => s

/-- `MMA` (R196, R97). -/
def execMma (c : Nat) (s : State) : Out := .next (s.mmaStep c 1)
/-- `MMA_S` (R196, R98). -/
def execMmaS (c : Nat) (s : State) : Out := .next (s.mmaStep c 2)
/-- `MMA_SP` (R197, R98). -/
def execMmaSp (c : Nat) (s : State) : Out := .next (s.mmaStep c 3)

/-! ### `mrot` (R198, R199) -/

/-- The team `dy` rows and `dx` columns on in its square of side d (R26). -/
def neighbour (d l dy dx : Nat) : Nat :=
  let q := l / (d * d)
  let y := l % (d * d) / d
  let x := l % d
  d * d * q + d * ((y + dy) % d) + (x + dx) % d

/-- The team that a block goes to: A and SA west, B and SB north. -/
def rotTeam (d l tag : Nat) : Nat := if tag = 0 ∨ tag = 2 then neighbour d l 0 (d - 1) else neighbour d l (d - 1) 0

/-- The units of a block of rows of `n` bytes at its destination, or what stops the writing of one. -/
def State.blockUnits (s : State) (g n : Nat) (dst stride : Word) : Nat → List Nat → Check ⊕ List Piece
  | _, [] => .inr []
  | i, v :: vs =>
    let ea := strideAddr dst stride i
    let us := units8 (locOf ea) n
    match checkPlaces true (s.places g (us.map fun u => eaPlus ea u.1)).1 with
    | .ok keys =>
      match State.blockUnits s g n dst stride (i + 1) vs with
      | .inr l => .inr (mkPieces ea v (zipUnits keys us) ++ l)
      | e => e
    | e => .inl e

/-- The rows of a block that the multiply has read, and that are read no more: the scales, each once (R99). -/
def MRec.heldRows (r : MRec) (tag : Nat) : Option (List Nat) :=
  match tag with
  | 2 => some ((List.range r.m).map fun i => packElems 4 (((r.scalesA.drop (i * r.blocks)).take r.blocks).map (·.toNat)))
  | 3 => some (r.scalesB.map (·.toNat))
  | _ => none

/-- What a block's send reads: the address and the bytes of each row. -/
def MRec.blockReads (r : MRec) (tag : Nat) : List (Word × Nat) :=
  let b := r.block tag
  if (r.heldRows tag).isSome then [] else (List.range b.2.2.2).map fun i => (strideAddr (r.w b.1) (r.stride b.2.1) i, b.2.2.1)

/-- The blocks of an `mrot` as sent: read once the multiply's reads are complete (R199). -/
def State.rotSends (s : State) (r : MRec) : List Nat → Except EngineRead (List (Nat × List Piece)) × State
  | [] => (.ok [], s)
  | tag :: rest =>
    let b := r.block tag
    let x := s.engineReads r.tid r.upto (r.blockReads tag)
    match x.1 with
    | .error e => (.error e, x.2)
    | .ok read =>
      let rows := (r.heldRows tag).getD read
      let d := (s.gridD r.tid.grid).desc.side
      let dst := withTeam (r.addr (rotWord tag)) (rotTeam d r.tid.team tag)
      match x.2.blockUnits r.tid.grid b.2.2.1 dst (r.stride b.2.1) 0 rows with
      | .inl (.fault a c v) => (.error (.fault a c v), x.2)
      | .inl (.absent va) => (.error (.absent va), x.2)
      | .inl _ => (.error (.fault 0x16 8 dst), x.2)
      | .inr ps =>
        let y := State.rotSends x.2 r rest
        match y.1 with
        | .ok l => (.ok ((tag, ps) :: l), y.2)
        | e => (e, y.2)

/-- The multiply of an `mrot` complete: its blocks stand ready to be sent. -/
def State.rotMultiplied (s : State) (c : Nat) (r : MRec) : State :=
  s.modRec c r.id fun x => { x with multiplied := true }

/-- The windows of a team that an `mrot` record's blocks go to, by their numbers; each team uses the same record (R198). -/
def State.rotWindows (s : State) (r : MRec) : List (Nat × Nat) :=
  r.rotWords.filterMap fun p => (s.windowNo r.tid.grid r.tid.team (r.addr p.2)).map fun w => (p.1, w)

/-- Has every window of the team that receives this step's data been exchanged (R199)? -/
def State.rotExchanged (s : State) (r : MRec) : Bool :=
  let t := s.teamD r.tid.grid r.tid.team
  (s.rotWindows r).all fun p => match t.windows[p.2]? with | some w => decide (t.mrotStep < w.step) | none => true

/-- A step of an `mrot` complete (R199). -/
def State.rotEnd (s : State) (c : Nat) (r : MRec) : State :=
  let ws := ((s.rotWindows r).map (·.2)).eraseDups
  (s.endRec c r).modTeam r.tid.grid r.tid.team fun t =>
    { t with mrotStep := t.mrotStep + 1, mrotWins := (ws.map fun w => (w, t.mrotStep)) ++ t.mrotWins.filter fun p => !ws.contains p.1 }

/-- `MROT` (R199): the next row of the multiply; after the last, the blocks are read; at the end, completion. -/
def execMrot (c : Nat) (s : State) : Out :=
  .next (match s.head? c 4 with
    | none => s
    | some r =>
      if r.rows < r.m then (s.readRec c r).multiplyRow c r fun t => t
      else if !r.multiplied then
        let x := s.rotSends r (r.rotWords.map (·.1))
        match x.1 with
        | .ok l => (x.2.rotMultiplied c r).modRec c r.id fun y => { y with sends := l }
        | .error e => x.2.recStopped c r e
      else if r.sends.isEmpty && s.rotExchanged r then s.rotEnd c r
      else s)

/-- The team and window that a block of a record goes to. -/
def State.rotTarget (s : State) (r : MRec) (tag : Nat) : Nat × Option Nat :=
  let l := rotTeam (s.gridD r.tid.grid).desc.side r.tid.team tag
  (l, ((s.rotWindows r).find? fun p => p.1 == tag).map (·.2))

/-- May a block be written into its neighbour's window: have the data of the last step that the window received been exchanged there, so
that none is overwritten that is not yet in view (R199)? Every team of a court runs the same records, so its own steps tell which window
received which. A block sent again after a stop is not written over one already exchanged into view. -/
def State.rotMaySend (s : State) (r : MRec) (tag : Nat) : Option Bool :=
  let x := s.rotTarget r tag
  let me := s.teamD r.tid.grid r.tid.team
  match x.2.bind fun w => (s.teamD r.tid.grid x.1).windows[w]? with
  | none => some true
  | some w =>
    if me.mrotStep < w.step then none
    else some (match me.mrotWins.find? fun p => some p.1 == x.2 with | some p => decide (p.2 < w.step) | none => true)

/-- A block that has arrived whole in a neighbour's window. -/
def State.rotArrived (s : State) (r : MRec) (tag : Nat) : State :=
  let x := s.rotTarget r tag
  match x.2 with
  | none => s
  | some n =>
    s.modTeam r.tid.grid x.1 fun t =>
      { t with windows := t.windows.modify n fun w => { w with recv := if w.recv.contains tag then w.recv else tag :: w.recv } }

/-- One unit of a block written; the last one makes it whole. -/
def State.rotUnit (s : State) (c : Nat) (r : MRec) (tag : Nat) (ps : List Piece) (rest : List (Nat × List Piece)) (n : Nat) : State :=
  match ps[n]? with
  | none => (s.rotArrived r tag).modRec c r.id fun x => { x with sends := rest }
  | some p =>
    match s.writeUnit r.tid true p with
    | .done t =>
      let left := ps.eraseIdx n
      if left.isEmpty then (t.rotArrived r tag).modRec c r.id fun x => { x with sends := rest }
      else t.modRec c r.id fun x => { x with sends := (tag, left) :: rest }
    | .held => s
    | .bad a b => s.failRec c r a b p.ea

/-- `MROT_SEND` (R199): one unit of the blocks still to be sent. -/
def execMrotSend (c : Nat) (s : State) : Out :=
  .next (match s.head? c 4 with
    | none => s
    | some r =>
      match r.sends with
      | [] => s
      | (tag, ps) :: rest =>
        match s.rotMaySend r tag with
        | none => s.modRec c r.id fun x => { x with sends := rest }
        | some false => s
        | some true =>
          let d := s.draw
          d.2.rotUnit c r tag ps rest (d.2.pickUnit true ps (d.1 % (ps.length + 1) % max ps.length 1)))

/-- The record of the `mrot` step that a team stands in, when its multiply has completed its reads. -/
def State.rotRecord (s : State) (g l : Nat) : Option MRec :=
  match (s.teamD g l).core with
  | some c => ((s.core c).mq.find? fun r => r.tid.grid == g && r.tid.team == l).filter fun r => r.kind == 4 && r.multiplied
  | none => none

/-- `MROT_EXCHANGE` (R199): a window that has received its whole step is exchanged, as one event at its home. -/
def execMrotExchange (g l win : Nat) (s : State) : Out :=
  .next (match s.rotRecord g l with
    | none => s
    | some r =>
      let t := s.teamD g l
      let want := ((s.rotWindows r).filter fun p => p.2 == win).map (·.1)
      match t.windows[win]? with
      | none => s
      | some w =>
        let ready := !want.isEmpty && want.all w.recv.contains && decide (w.step ≤ t.mrotStep)
        let busy := s.halfRead fun k => s.areaOf k == some (g, l, w.spad, w.off)
        if ready && !busy then
          s.modTeam g l fun x =>
            { x with windows := x.windows.modify win fun y => { y with flipped := !y.flipped, step := x.mrotStep + 1, recv := [] } }
        else s)

/-! ### `mfill`, `mdrain`, `mzero` (R200–R202) -/

/-- A row address that is misaligned under its view (R333). -/
def MRec.rowMisaligned (r : MRec) : Bool := locOf (r.rowAddr r.rows) % 2 ^ rowAlign (viewOf (r.w 1)) != 0

/-- Has the thread of a fill an earlier load of `n` bytes at an address that is not yet performed (R73, R200)? -/
def State.fillBehind (s : State) (r : MRec) (ea : Word) (n : Nat) : Bool :=
  let us := s.unitsNow r.tid.grid ea n
  let touch := fun p : Piece => us.any fun u => p.overlaps (piece u.1 u.2 0)
  (s.fabric.any fun q => q.tid == r.tid && decide (q.id < r.id) && q.isLoad && q.pieces.any fun p => !p.done && touch p) ||
  (s.threads.any fun t => t.id == r.tid && (s.replayUnits t r.id).any fun u => !u.1 && touch (piece u.2.1 u.2.2 0))

/-- `MFILL` (R200): the next row, loaded as `vld` loads it; its reads are loads for R73. -/
def execMfill (c : Nat) (s : State) : Out :=
  .next (match s.head? c 5 with
    | none => s
    | some r =>
      let s := s.readRec c r
      match s.recBad r with
      | some (a, b, v) => s.failRec c r a b v
      | none =>
        let ea := r.rowAddr r.rows
        let e := s.tileElem r.tid r.tc
        if r.rowMisaligned then s.failRec c r 0x12 (16 * rowAlign (viewOf ea)) ea
        else
          if s.fillBehind r ea (rowBytes e (viewOf ea)) then s
          else
          let x := s.engineRead (.grid r.tid.grid) r.tid r.upto ea (rowBytes e (viewOf ea))
          match x.1 with
          | .bytes v =>
            let s := x.2.putTcRow r (memToRow (x.2.readRow r.tid r.tc r.rows) v e (viewOf ea)) false true
            let s := s.modRec c r.id fun y => { y with running := true, rows := r.rows + 1 }
            if r.rows + 1 < r.m then s
            else (if r.m = 64 then s.modTc r fun t => { t with valid := true, sumBad := false } else s).endRec c r
          | o => x.2.recStopped c r o)

/-- The status word of R201. -/
def drainStatus (t : Tile) (m : Nat) : Nat := 1 + bit t.valid 1 + bit (t.valid && t.sumBad) 2 + bit t.ovf 3 + m * 2 ^ 8

/-- The end of a drain (R201, R346): the status word, then completion. -/
def State.drainEnd (s : State) (c : Nat) (r : MRec) : State :=
  let k := s.engineCheck (.grid r.tid.grid) (r.addr 4) 8 true
  match k.1 with
  | .fault a b v => k.2.failRec c r a b v
  | .absent va => k.2.pauseRec c r va
  | .queueWindow _ => k.2.failRec c r 0x16 8 (r.addr 4)
  | .ok keys =>
    match k.2.tileOf? r.tid r.tc with
    | none => k.2
    | some t =>
      match k.2.writeUnit r.tid false (pieceAt (r.addr 4) (keys.headD 0) 8 (BitVec.ofNat 64 (drainStatus t r.m))) with
      | .done u => (if t.valid && t.sumBad then u.telemetry 2 6 c r.tc 0 else u).endRec c r
      | .held => k.2
      | .bad a b => k.2.failRec c r a b (r.addr 4)

/-- The next row of a drain, read and put among the units to write. -/
def State.drainRow (s : State) (c : Nat) (r : MRec) : State :=
  let ea := r.rowAddr r.rows
  let e := s.tileElem r.tid r.tc
  let n := rowBytes e (viewOf ea)
  if s.poison.contains (tileErr r.tid r.tc r.rows) then s.failRec c r 0x1A 6 (BitVec.ofNat 64 (64 * r.tc + r.rows))
  else if r.rowMisaligned then s.failRec c r 0x12 (16 * rowAlign (viewOf ea)) ea
  else
    let k := s.engineCheck (.grid r.tid.grid) ea n true
    match k.1 with
    | .fault a b v => k.2.failRec c r a b v
    | .absent va => k.2.pauseRec c r va
    | .queueWindow _ => k.2.failRec c r 0x16 8 ea
    | .ok keys =>
      let k := (k.2.correctRows r.tid [(r.tc, r.rows)])
      let ps := mkPieces ea (rowToMem (k.readRow r.tid r.tc r.rows) e (viewOf ea)) (zipUnits keys (units8 (locOf ea) n))
      k.modRec c r.id fun x => { x with running := true, writes := ps }

/-- One unit of a drain's row written; ROWPROG counts the rows written whole (R337). -/
def State.drainUnit (s : State) (c : Nat) (r : MRec) (n : Nat) : State :=
  match r.writes[n]? with
  | none => s
  | some p =>
    match s.writeUnit r.tid false p with
    | .done t =>
      let left := r.writes.eraseIdx n
      t.modRec c r.id fun x => { x with writes := left, rows := if left.isEmpty then r.rows + 1 else r.rows }
    | .held => s
    | .bad a b => s.failRec c r a b p.ea

/-- `MDRAIN` (R201): one step of a drain. -/
def execMdrain (c : Nat) (s : State) : Out :=
  .next (match s.head? c 6 with
    | none => s
    | some r =>
      let s := s.readRec c r
      match s.recBad r with
      | some (a, b, v) => s.failRec c r a b v
      | none =>
        if !r.writes.isEmpty then
          let d := s.draw
          d.2.drainUnit c r (d.2.pickUnit false r.writes (d.1 % r.writes.length))
        else if r.rows < r.m then s.drainRow c r
        else s.drainEnd c r)

/-- `MZERO` (R202). -/
def execMzero (c : Nat) (s : State) : Out :=
  .next (match s.head? c 7 with
    | none => s
    | some r =>
      let s := s.readRec c r
      match s.recBad r with
      | some (a, b, v) => s.failRec c r a b v
      | none =>
        ((s.modTc r Tile.cleared).clearTileErrors r.tid r.tc).endRec c r)

/-! ### The rein (R20, R203, R270, R303) -/

/-- Does a step of the rein begin (R203)? -/
def State.reinStep (s : State) : Bool := s.cycle.toNat % 4 == 0

/-- The core of a list with the least time, the first on a tie (R203, R303). -/
def earliest (time : Nat → Option Nat) : List Nat → Option Nat
  | [] => none
  | c :: r =>
    match time c, earliest time r with
    | none, o => o
    | some _, none => some c
    | some t, some d => match time d with | some u => if u < t then some d else some c | none => some c

/-- `REIN_ADMISSION` (R203): at most one unit in a step, in order of request. -/
def execReinAdmission (cl : Nat) (s : State) : Out :=
  let taken := (clusterCores cl).any fun c => (s.core c).unit == .active s.cycle
  .next (if !s.reinStep || taken then s
    else
      match earliest (fun c => match (s.core c).unit with | .requesting t => some t.toNat | _ => none) (clusterCores cl) with
      | some c => s.setCore { s.core c with unit := .active s.cycle }
      | none => s)

/-- `REIN_STEP_DOWN` (R203, R303): at most one unit in a step, in the order of the steps in which the queues emptied. The slot is that
step; it is given as the step ends, since all queues that empty in it count. -/
def execReinStepDown (cl : Nat) (s : State) : Out :=
  let slot := s.cycle - 4
  let taken := (clusterCores cl).any fun c => (s.core c).unit == .steppingDown slot
  .next (if taken || !s.reinStep then s
    else
      match earliest (fun c => let k := s.core c; if k.unitActive && k.mq.isEmpty && decide (k.emptied < s.cycle)
              then some (k.emptied.toNat / 4) else none)
          (clusterCores cl) with
      | some c => s.setCore { s.core c with unit := .steppingDown slot }
      | none => s)

/-- `STEP_DOWN_COMPLETE` (R270): 16 steps after the slot the unit is inactive; a record that waits asks anew. -/
def execStepDownComplete (c : Nat) (s : State) : Out :=
  let k := s.core c
  .next (match k.unit with
    | .steppingDown t =>
      if t.toNat + 64 ≤ s.cycle.toNat then s.setCore { k with unit := if k.mq.isEmpty then .inactive else .requesting s.cycle } else s
    | _ => s)

/-- `REIN_TABLE_CHANGE` (R20): in a cluster, at the first step in which none of its units is active. -/
def execReinTableChange (cl : Nat) (s : State) : Out :=
  let busy := (clusterCores cl).any fun c => (s.core c).unit.on
  .next (if s.reinStep && !busy then s.setCluster { s.cluster cl with fast := s.host.fast } else s)

end Sys2Proof.Machine
end

