-- ==== Sys2Proof/Machine/Grids.lean ====
section
/-! DEFINITION. The referee and the life of a grid: start (R24–R27, R204, R261), the end of parked threads (R35), completion
(R28, R239, R266), the end by a fault (R315–R319), pre-emption and resumption (R43, R259, R324), descriptor writes (R205), the
watchdog (R322, R323). Each step whose object or condition is missing leaves the machine as it is. -/

namespace Sys2Proof.Machine

/-! ### Placing teams (R15, R24, R25, R261) -/

/-- Free thread slots of a core. -/
def State.freeSlots (s : State) (c : Nat) : List Nat := (List.range 8).filter fun n => !s.slotTaken c n

/-- Do the demands of one more team of a grid stay within a core's resources (R17, R24, R51), alone on it in replay mode (R261),
and in no other court (R15)? A team demands a slot for each of its threads, also those that have ended, and with it the eight entries of
the deque that R32 gives each of its threads. -/
def State.coreFits (s : State) (g : Grid) (c : Nat) : Bool :=
  let d := g.desc
  let on := s.teamsOn c
  let near := s.teams.filter fun t => match t.core with | some k => clusterOf k == clusterOf c | none => false
  decide (c < 8192) && decide ((on.map (·.nthread)).sum + d.threads ≤ 8) && decide (d.threads ≤ (s.freeSlots c).length) && decide ((on.map fun t => t.tiles.length).sum + d.tiles ≤ 16) &&
  decide ((on.map (·.pool)).sum + d.pool ≤ 32768) && decide ((on.map (·.tcm)).sum + d.tcm ≤ 262144) &&
  decide ((near.map (·.spad)).sum + d.spad ≤ 2 ^ 21) && !(s.core c).exchanging &&
  !(on.any fun t => (s.gridD t.grid).replayOn) && (!g.replayOn || (on.isEmpty && decide ((s.freeSlots c).length = 8))) &&
  (d.side == 0 || !(on.any fun t => (s.gridD t.grid).desc.side != 0))

/-- Do the cores of a grid's teams stand as its court asks (R15, R26)? -/
def courtOk (d : Nat) (cores : List Nat) : Bool :=
  d == 0 ||
  (List.range cores.length).all fun l =>
    let b := cores.getD (l / (d * d) * (d * d)) 0
    let i := l % (d * d)
    rowOf b % d == 0 && colOf b % d == 0 && cores.getD l 0 == b + 32 * (i / d) + i % d

/-- A thread at the start cycle (R27, R246). -/
def Grid.newThread (g : Grid) (l n c slot : Nat) : Thread :=
  let args := g.desc.args
  { Thread.vacant with
    id := ⟨g.num, l, n⟩, pc := g.desc.entry, tvec := g.desc.tvec,
    regs := Vector.ofFn fun i : Fin 16 => if 1 ≤ i.val ∧ i.val ≤ 7 then args.getD (i.val - 1) 0 else 0,
    wait := .running, core := c, slot := slot, homeSlot := slot }

/-- A team at the start cycle (R24, R27). -/
def Grid.newTeam (g : Grid) (l c : Nat) (now : Word) : Team :=
  let d := g.desc
  { Team.vacant with
    grid := g.num, lteam := l, core := some c, tiles := List.replicate d.tiles Tile.zero, pool := d.pool, tcm := d.tcm,
    spad := d.spad, spill := d.spill, nthread := d.threads, windows := g.windows, placedAt := now }

/-- One team placed on a core with fresh threads. -/
def State.placeNew (s : State) (g : Grid) (l c : Nat) : Option State :=
  if !s.coreFits g c then none
  else
    let slots := s.freeSlots c
    some { s with teams := s.teams ++ [g.newTeam l c s.cycle]
                  rest := s.rest ++ (List.range g.desc.threads).map fun n => g.newThread l n c (slots.getD n 0) }

/-- A slot pair back among the spares of a core's tower: the one that a core gives up for that of the team it resumes, or that of a
team that will not be resumed (R43, log entry 46). -/
def State.returnPair (s : State) (c : Nat) : State :=
  { s with spares := s.spares.set (towerOf c) (s.spares.getD (towerOf c) 0 + 1) }

/-- The slot pair of a core given up for that of the team it resumes. -/
def State.adoptPair (s : State) (c : Nat) : State :=
  if s.mramBad.contains (noPair c) then { s with mramBad := s.mramBad.filter (· != noPair c) } else s.returnPair c

/-- A saved team placed on a core (R43): its threads take slots there, its records go behind the core's, and the core adopts the team's
saddlebag. Where the core's matrix queue lacks the entries (R17), it does not fit. -/
def State.placeSaved (s : State) (g : Grid) (l c : Nat) : Option State :=
  if !s.coreFits g c || decide (8 < (s.core c).mq.length + (s.teamD g.num l).savedMq.length) then none
  else
    let slots := s.freeSlots c
    let put := fun t : Thread =>
      if t.id.grid = g.num ∧ t.id.team = l then { t with core := c, slot := slots.getD t.id.thread 0, homeSlot := slots.getD t.id.thread 0 } else t
    let mq := (s.teamD g.num l).savedMq
    let k := s.core c
    let unit := if k.mq.isEmpty ∧ !mq.isEmpty ∧ k.unit = .inactive then UnitState.requesting s.cycle else k.unit
    some ((((s.adoptPair c).mapThreads put).modTeam g.num l fun t =>
      { t with core := some c, savedMq := [], placedAt := s.cycle }).setCore { k with mq := k.mq ++ mq, unit := unit })

/-- Teams from `l` on placed on the cores of a list. -/
def State.placeAll (s : State) (place : State → Nat → Nat → Option State) : Nat → List Nat → Option State
  | _, [] => some s
  | l, c :: cs => match place s l c with | some t => State.placeAll t place (l + 1) cs | none => none

/-- The instruction caches of cores without lines of an address space (R62). -/
def State.dropICache (s : State) (cores : List Nat) (q : Nat) : State :=
  cores.foldl (fun t c => let k := t.core c; t.setCore { k with icache := k.icache.filter fun l => l.queue != q }) s

/-- The region descriptors at the start cycle (R204): ORIGIN counts from it. -/
def startRegions (l : List (Word × Word)) (start : Word) : List (Word × Word) :=
  l.map fun p => (p.1, setBits p.2 41 0 ((bits p.2 41 0 + start.toNat) % 2 ^ 42))

/-- Does an earlier launch entry of the same queue still wait to be placed (R256)? -/
def State.launchBefore (s : State) (g : Grid) : Bool :=
  match g.entry with
  | none => false
  | some (q, n) => s.grids.any fun x => x.state == .queued && (match x.entry with | some (p, m) => p == q && decide (m < n) | none => false)

/-! ### The order of launches (R258) -/

/-- Does a launch come before another: priority, then the time from which it is ready, then the queue; children of one time in the order
of `CALLIX` (R264)? For what R258 leaves in no order beyond that the model takes the lower `CALLIX` among children, else the lower grid
number (DESIGN CHOICE, log entry 75). -/
def Grid.before (x y : Grid) : Bool :=
  if x.prio ≠ y.prio then decide (y.prio < x.prio)
  else if x.readyAt ≠ y.readyAt then decide (x.readyAt < y.readyAt)
  else if x.queue ≠ y.queue then decide (x.queue < y.queue)
  else if x.parent.isSome ∧ y.parent.isSome ∧ x.callix ≠ y.callix then decide (x.callix < y.callix)
  else decide (x.num < y.num)

/-- A launch put into its place. -/
def insertGrid (x : Grid) : List Grid → List Grid
  | [] => [x]
  | y :: r => if y.before x then y :: insertGrid x r else x :: y :: r

/-- Does the commit that queued a child still have one to queue that comes before it in the order of `CALLIX` (R264)? -/
def State.siblingFirst (s : State) (g : Grid) : Bool :=
  g.parent.any fun p => (s.gridD p).replay.committing && (s.gridD p).replay.deferred.any fun d =>
    match d with | .launch _ _ _ _ callix => decide (callix < g.callix) | _ => false

/-- Is a launch ready to be placed (R256, R258, R264, R274)? -/
def State.launchReady (s : State) (g : Grid) : Bool :=
  (g.state == .queued && g.held.isEmpty && !s.launchBefore g && !s.siblingFirst g) || (g.state == .saved && g.faults.isEmpty)

/-- The launches that are ready, in their order. -/
def State.ranked (s : State) : List Grid := (s.grids.filter s.launchReady).foldl (fun l g => insertGrid g l) []

/-- The cores of a court whose first core is given; a single core for a grid without courts (R15). -/
def square (d b : Nat) : List Nat := (List.range (d * d)).map fun i => b + 32 * (i / d) + i % d

/-- Cores for the teams from `l` on, each court in the first place from core `c` on that fits. The teams of a grid demand the same, so
where any placement exists this finds one. -/
def State.fit (s : State) (place : State → Nat → Nat → Option State) (d n l c : Nat) : Nat → List Nat
  | 0 => []
  | fuel + 1 =>
    if n ≤ l then []
    else if rowOf c % d ≠ 0 ∨ colOf c % d ≠ 0 then State.fit s place d n l (c + 1) fuel
    else
      match s.placeAll place l (square d c) with
      | some t => square d c ++ State.fit t place d n (l + d * d) c fuel
      | none => State.fit s place d n l (c + 1) fuel

/-- A team of a grid placed: a new one, or one that was saved. -/
def State.placeTeam (g : Grid) (s : State) (l c : Nat) : Option State :=
  if g.state == .saved then s.placeSaved g l c else s.placeNew g l c

/-- The first cores that fit a grid; fewer than its teams where it does not fit. -/
def State.fitGrid (s : State) (g : Grid) : List Nat := s.fit (State.placeTeam g) (max g.desc.side 1) g.desc.nteam 0 0 16400

/-- Can a grid be placed on the cores that are free (R25)? -/
def State.canPlace (s : State) (g : Grid) : Bool := (s.fitGrid g).length == g.desc.nteam

/-- May a ready launch be placed now: no launch before it can be (R258, R259)? -/
def State.mayPlace (s : State) (g : Grid) : Bool :=
  s.launchReady g && !(s.ranked.any fun x => x.num != g.num && x.before g && s.canPlace x)

/-- `GRID_START` (R25): every team at once, on the cores that the referee chose. -/
def execGridStart (gn : Nat) (cores : List Nat) (s : State) : Out :=
  .next (match s.grid? gn with
    | some g =>
      if g.state == .queued && s.mayPlace g && cores.length == g.desc.nteam && courtOk g.desc.side cores then
        match s.placeAll (State.placeTeam g) 0 cores with
        | some t =>
          (t.dropICache cores g.queue).modGrid gn fun x =>
            { x with state := .placed, start := s.cycle, placedSince := s.cycle, live := false, mreg := startRegions x.regions s.cycle }
        | none => s
      else s
    | none => s)

/-! ### Parked threads (R35) -/

/-- Is nothing left of a grid but threads parked in `next` and threads that ended? -/
def State.allParked (s : State) (g : Grid) : Bool :=
  ((s.threadsOf g.num).all fun t => match t.wait with | .next _ => true | .ended => true | _ => false) &&
  (s.teams.all fun t => t.grid != g.num || t.deque.isEmpty) && g.pushes.isEmpty && g.replay.apart.isNone && !g.replay.committing

/-- `NEXT_PARK_END` (R35): each parked thread ends as if it had retired `exit`. -/
def execNextParkEnd (gn : Nat) (s : State) : Out :=
  .next (match s.grid? gn with
    | some g =>
      if g.state == .placed && g.faults.isEmpty && s.allParked g then
        s.mapThreads fun t =>
          if t.id.grid = gn then (match t.wait with | .next _ => { t with wait := .exiting s.fresh } | _ => t) else t
      else s
    | none => s)

/-! ### Records (R239, R255, R266, R319) -/

/-- Where a word at a location of a queue's address space can be written (R239, R320). -/
def State.doneKey (s : State) (q loc : Nat) : Option Nat :=
  if windowBase ≤ loc then none else match s.walkQueue q loc with | .mem k true _ => some k | _ => none

/-- A word that the referee stores at its home; no cache keeps a copy (R61). -/
def State.putWord (s : State) (k v : Nat) : State := (s.invalidate k 8 none).homeStore ⟨0, 0, 0⟩ 0 0 k 8 v

/-- A word filled (R239): stored, set full, and its waiters served. -/
def State.fillWord (s : State) (k : Nat) (v : Nat) : State :=
  let t := (s.putWord k v).setFull k true
  t.serveList k t.fabric.length

/-- A completion record (R255) in the entry at `addr`. -/
def State.completionRecord (s : State) (addr status cause grid seq : Nat) : State :=
  (s.putWord (addr + 48) (status + cause * 2 ^ 8 + grid * 2 ^ 16 + 2 ^ 31 + seq % 2 ^ 32 * 2 ^ 32)).putWord (addr + 56) s.cycle.toNat

/-- The accounting block of R266. -/
def Grid.accounting (g : Grid) (now : Word) : List Nat :=
  [g.consumed.toNat, g.start.toNat, now.toNat, g.tasks, g.qwait, g.search, g.run,
   g.steals % 2 ^ 32 + min g.failed (2 ^ 32 - 1) * 2 ^ 32]

/-- The fault record of R319; `f` is the fault reported, if any. -/
def Grid.faultWords (g : Grid) (now : Word) (f : Option FaultRec) : List Nat :=
  let who := match f with
    | some r => if r.byThread then (r.fpc.toNat, r.fval.toNat, r.team % 2 ^ 13 + r.thread * 2 ^ 13 + r.detail * 2 ^ 16 + 2 ^ 24)
                else (0, r.fval.toNat, r.detail * 2 ^ 16)
    | none => (0, 0, 0)
  [g.consumed.toNat, g.start.toNat, now.toNat, who.1, who.2.1, who.2.2, g.tasks, g.nfault]

/-- Consecutive words stored at a key. -/
def State.storeWords (s : State) (k : Nat) : List Nat → State
  | [] => s
  | v :: r => State.storeWords (s.putWord k v) (k + 8) r

/-- Consecutive words stored at a location of a queue's address space, where it can be written. -/
def State.storeVirtual (s : State) (q loc : Nat) : List Nat → State
  | [] => s
  | v :: r => State.storeVirtual (match s.doneKey q loc with | some k => s.putWord k v | none => s) q (loc + 8) r

/-- The completion word of a grid (R239). -/
def State.completionWord (s : State) (g : Grid) (status : Nat) : State :=
  if g.desc.done = 0 then s
  else match s.doneKey g.queue (locOf g.desc.done) with | some k => s.fillWord k (status + g.num * 2 ^ 8) | none => s

/-- The records of a grid that ends: the accounting block or the fault record, then the completion record, then the completion
word (R239, R266, R316, R319). `block` is what bytes 192–255 of the entry take. -/
def State.writeRecords (s : State) (g : Grid) (status cause : Nat) (block : List Nat) : State :=
  let s :=
    match g.entry with
    | some (q, n) =>
      match (s.queue q).entries.find? fun e : QEntry => e.id == n with
      | some e =>
        ((s.storeWords (e.addr + 192) block).completionRecord e.addr status cause g.num e.num).modEntry q n fun x =>
          { x with done := true, grid := g.num, status := status, cause := cause, written := true }
      | none => s
    | none => if g.desc.done ≠ 0 ∧ status ≠ 0 then s.storeVirtual g.queue (locOf g.desc.done + 8) block else s
  s.completionWord g status

/-! ### What a grid held is freed (R28, R316) -/

/-- Does a key lie in a TCM share or scratchpad partition of a grid? -/
def ofGrid (g k : Nat) : Bool :=
  match homeOf k with
  | .tcm x _ => x == g
  | .spad x _ => x == g
  | _ => false

/-- Is a number of the error list a tile row or register of a grid? -/
def errorOf (g n : Nat) : Bool :=
  if 2 ^ 61 ≤ n then (n - 2 ^ 61) / 64 / 8 / 8192 == g
  else if 2 ^ 60 ≤ n then (n - 2 ^ 60) / 64 / 16 / 8192 == g else ofGrid g (n * 8)

/-- A grid's cores, slots, tiles, shares, partitions, records, requests and hint ranges freed. An exchange that it took part in is
abandoned, and its cores are frozen (R316, R325). A breakpoint no longer holds it (R291). -/
def State.freeGrid (s : State) (g : Nat) : State :=
  let gone := fun t : Thread => t.id.grid == g
  let held := (s.teams.filter fun t => t.grid == g).filterMap (·.core)
  let pairs := s.exchanges.filter fun p => held.contains p.1 || held.contains p.2
  let inPair := fun c : Nat => pairs.any fun p => p.1 == c || p.2 == c
  let s := (s.teams.filter fun t => t.grid == g && t.core.isNone).foldl (fun u t => u.returnPair t.savedFrom) s
  State.setHits { s with
    cur := if gone s.cur then Thread.vacant else s.cur
    rest := s.rest.filter fun t => !gone t
    teams := s.teams.filter fun t => t.grid != g
    grids := s.grids.filter fun x => x.num != g
    cores := s.cores.map fun c =>
      let q := c.mq.filter fun r => r.tid.grid != g
      { c with mq := q, emptied := if q.isEmpty ∧ !c.mq.isEmpty then s.cycle else c.emptied, exchanging := c.exchanging && !inPair c.num,
               frozen := if inPair c.num then 4 else c.frozen }
    exchanges := s.exchanges.filter fun p => !(held.contains p.1 || held.contains p.2)
    copies := s.copies.filter fun c => c.entry.isSome || c.grid != g
    mem := Memory.keep (fun k => !ofGrid g k) s.mem
    empty := s.empty.filter fun w => !ofGrid g (w * 8)
    poison := s.poison.filter fun n => !errorOf g n
    soft := s.soft.filter fun n => !errorOf g n
    fabric := s.fabric.filter fun r => r.tid.grid != g
    fs := s.fs.filter fun f => f.tid.grid != g }

/-- Has a grid completed (R28)? -/
def State.gridDone (s : State) (g : Grid) : Bool :=
  g.state == .placed && g.faults.isEmpty && ((s.threadsOf g.num).all fun t => t.wait == .ended) &&
  (s.copies.all fun c => c.entry.isSome || c.grid != g.num) && (s.cores.all fun c => c.mq.all fun r => r.tid.grid != g.num) &&
  (s.grids.all fun x => x.parent != some g.num) && g.replay.apart.isNone && !g.replay.committing && g.pushes.isEmpty &&
  (s.fabric.all fun r => r.tid.grid != g.num || r.performed)

/-- `GRID_COMPLETE` (R28): the records, and everything freed. -/
def execGridComplete (gn : Nat) (s : State) : Out :=
  .next (match s.grid? gn with
    | some g => if s.gridDone g then (s.freeGrid gn).writeRecords g 0 0 (g.accounting s.cycle) else s
    | none => s)

/-! ### The end by a fault (R315, R316) -/

/-- Is fault `x` reported rather than `y` (R315)? -/
def FaultRec.before (x y : FaultRec) : Bool :=
  if x.cycle ≠ y.cycle then decide (x.cycle < y.cycle)
  else if x.byThread ≠ y.byThread then x.byThread
  else if x.team ≠ y.team then decide (x.team < y.team)
  else decide (x.thread < y.thread)

/-- The fault that the referee reports (R315). -/
def chosenFault : List FaultRec → Option FaultRec
  | [] => none
  | x :: r => match chosenFault r with | some y => if y.before x then some y else some x | none => some x

/-- Does an operation store (R316)? -/
def ReqOp.stores : ReqOp → Bool
  | .read => false
  | .ldf => false
  | .festat => false
  | .sense _ _ => false
  | .bankRead => false
  | .mark .rd _ _ => false
  | _ => true

/-- A piece of a request of an ending grid: a store is performed at its home, where nothing stops it; all else is discarded. -/
def State.finishPiece (s : State) (n k : Nat) : State :=
  match s.req? n with
  | some r =>
    match r.pieces[k]? with
    | some p =>
      let a := s.mapKey p.key
      if p.done || r.parked || r.dataFrom.isSome || !r.op.stores || !feMeets r.op (s.isFull a) || s.meetsError r k p a ||
         (match s.carveState p.key with | .bad _ _ => true | _ => false) then s
      else
        let t := s.performNow r k p a
        if r.op.isFe then t.serveList a t.fabric.length else t
    | none => s
  | none => s

/-- The wait-list entries of a grid removed (R43, R316), and the appends that wait for their values. -/
def State.dropParked (s : State) (g : Nat) : State :=
  { s with fabric := s.fabric.filter fun r => !(r.tid.grid == g && (r.parked || r.dataFrom.isSome)) }

/-- Every store of a grid already issued performed at its home (R316). -/
def State.finishStores (s : State) (g : Nat) : State :=
  let ids := (s.fabric.filter fun r => r.tid.grid == g).flatMap fun r => (List.range r.pieces.length).map fun k => (r.id, k)
  ids.foldl (fun t p => t.finishPiece p.1 p.2) s

/-- The units that a grid's copies have read and not yet written, written (R316). -/
def State.finishCopies (s : State) (g : Nat) : State :=
  let ps := (s.copies.filter fun c => c.entry.isNone && c.grid == g).flatMap fun c => c.writes.map fun p => (c.tid, p)
  ps.foldl (fun t x => match t.writeUnit x.1 true x.2 with | .done u => u | _ => t) s

/-- Is a grid the descendant of another (R41), within 15 levels? -/
def State.under (s : State) (g : Nat) : Nat → Nat → Bool
  | 0, _ => false
  | fuel + 1, x =>
    match (s.gridD x).parent with
    | some p => p == g || State.under s g fuel p
    | none => false

/-- The descendants of a grid. -/
def State.descendants (s : State) (g : Nat) : List Grid := s.grids.filter fun x => s.under g 16 x.num

/-- Is a grid to end by a fault, its own or that of a grid it descends from (R316)? -/
def State.ending (s : State) (g : Nat) : Bool := s.grids.any fun x => !x.faults.isEmpty && (x.num == g || s.under x.num 16 g)

/-- One grid ended under R316: what it has issued, then its children, each with its records, then what it held and its own records. Its
threads had stopped at `now` (R319); grids nest 15 levels deep (R41). -/
def State.endGrid (s : State) (g : Grid) (now : Word) (status cause : Nat) (f : Option FaultRec) : Nat → State
  | 0 => s
  | fuel + 1 =>
    let t := ((s.dropParked g.num).finishStores g.num).finishCopies g.num
    let t := (t.grids.filter fun k => k.parent == some g.num).foldl (fun u k => State.endGrid u k u.cycle 6 0 none fuel) t
    let x := t.gridD g.num
    (t.freeGrid g.num).writeRecords x status cause (x.faultWords now f)

/-- Must the end of a grid still wait: a store held at its home (R65, R294), a replayed store still to be issued, a row that a command
has begun to write, or a chunk not yet committed (R327)? -/
def State.endWaits (s : State) (g : Nat) : Bool :=
  (s.gridD g).replay.apart.isSome || (s.gridD g).replay.committing ||
  (s.cores.any fun k => k.mq.any fun r => r.tid.grid == g && r.midRow) ||
  (s.fabric.any fun r => r.tid.grid == g && r.op.stores && !r.parked && r.dataFrom.isNone && r.pieces.any fun p => !p.done && s.engineHeld p.key) ||
  (s.copies.any fun c => c.entry.isNone && c.grid == g && c.writes.any fun p => s.engineHeld p.key) ||
  ((s.threadsOf g).any fun t =>
    match t.vreplay with
    | some v => match v.entries[v.k]? with | some e => s.replayReady t v e | none => false
    | none => false)

/-- `GRID_FAULT_END` (R315, R316): the fault chosen among those of the earliest cycle, once that is over, ends the grid. -/
def execGridFaultEnd (gn : Nat) (s : State) : Out :=
  .next (match s.grid? gn with
    | some g =>
      match chosenFault g.faults with
      | some f =>
        if f.cycle = s.cycle ∨ s.endWaits gn ∨ (s.descendants gn).any (fun k => s.endWaits k.num) then s
        else s.endGrid g f.cycle f.status f.cause (some f) 17
      | none => s
    | none => s)

/-! ### Pre-emption (R43, R258–R260, R324) -/

/-- Does R51 protect a grid from pre-emption: bank rights, and a carve-out in force at a bank of one of its teams? -/
def State.carveProtected (s : State) (g : Grid) : Bool :=
  g.desc.flag 8 && s.teams.any fun t =>
    t.grid == g.num && match t.core with | some c => (s.bank (clusterOf c)).cur != 0 | none => false

/-- Are there spare slot pairs for the cores of a grid's teams (R43, R352)? -/
def State.pairsFor (s : State) (g : Nat) : Bool :=
  let cs := (s.teams.filter fun t => t.grid == g).filterMap (·.core)
  (List.range 4).all fun w => decide ((cs.filter fun c => towerOf c == w).length ≤ s.spares.getD w 0)

/-- The machine as it would be with the grids gone that are being quiesced. -/
def State.withoutQuiescing (s : State) : State :=
  let going := fun g : Nat => match (s.gridD g).state with | .quiescing _ => true | _ => false
  { s with teams := s.teams.filter fun t => !going t.grid, rest := s.rest.filter fun t => !going t.id.grid,
           cur := if going s.cur.id.grid then Thread.vacant else s.cur }

/-- May the referee pre-empt a grid: for the first ready launch, which cannot be placed, nor once the grids that are being quiesced are
gone; of lower priority, and of those the lowest, most recently started (R259); not while an exchange is under way (R260)? -/
def State.mayPreempt (s : State) (g : Grid) : Bool :=
  let able := fun x : Grid => x.state == .placed && x.faults.isEmpty && !s.carveProtected x && s.pairsFor x.num
  match s.ranked with
  | [] => false
  | w :: _ =>
    able g && s.exchanges.isEmpty && decide (g.prio < w.prio) &&
    (s.grids.all fun x => !(able x && x.num != g.num && (decide (x.prio < g.prio) || (x.prio == g.prio && decide (g.start < x.start))))) &&
    !s.withoutQuiescing.canPlace w

/-- Has a thread quiesced (R43): between bundles, its phases complete, its replays performed, its replies delivered? -/
def State.quiet (s : State) (t : Thread) : Bool :=
  t.closed.isEmpty && t.vreplay.isNone && (match t.wait with | .migrating _ => false | .faulted => false | _ => true) &&
  s.fabric.all fun r => r.tid != t.id || r.parked || r.dataFrom.isSome

/-- Has a grid quiesced (R43)? -/
def State.quiesced (s : State) (g : Nat) : Bool :=
  (s.threadsOf g).all s.quiet && (s.copies.all fun c => c.entry.isSome || c.grid != g) && s.exchanges.isEmpty &&
  s.cores.all fun c => c.mq.all fun r => r.tid.grid != g || !r.midRow

/-- What a saved thread goes on with (R43): one parked by R30 issues its instruction again alone, and what a parked request had raised
is lowered. One whose word has been served, or that waits for something else, goes on from there. -/
def State.savedThread (s : State) (t : Thread) : Thread :=
  match t.wait with
  | .word n => match s.req? n with | some r => if r.parked then t.saved.lower r.counter else t | none => t
  | .sleep _ _ => t.saved
  | .waitc _ _ _ _ => t.saved
  | .vpop _ => t.saved
  | .next _ => t.saved
  | _ => t

/-- A thread saved (R43): it leaves its slot; 8,192 is no core. -/
def State.saveThread (s : State) (t : Thread) : Thread := { s.savedThread t with core := 8192 }

/-- A team of a grid saved into its core's saddlebag, which it takes along; the core is given a fresh pair (R43, R84, R324). `none`: its
pair is bad, and there is no spare to which the save could move; the pre-emption is then abandoned (DESIGN CHOICE, log entry 79). -/
def State.saveTeam (s : State) (g : Nat) (t : Team) : Option State :=
  match t.core with
  | none => some s
  | some c =>
    let r := s.slotPair c
    if s.pairLost c then none
    else if !r.1 then some (r.2.faultGrid g 1 0x1D 0 0)
    else
      let k := r.2.core c
      let mine := k.mq.filter fun x => x.tid.grid == g && x.tid.team == t.lteam
      let left := k.mq.filter fun x => !(x.tid.grid == g && x.tid.team == t.lteam)
      some <| ((r.2.freshPair c).setCore { k with mq := left, slotA := none, slotB := none, commitB := false,
                                                     emptied := if left.isEmpty ∧ !k.mq.isEmpty then s.cycle else k.emptied }).modTeam g t.lteam fun x =>
        { x with core := none, savedMq := mine, savedFrom := c }

/-- Teams of a grid saved one after another. -/
def State.saveTeams (s : State) (g : Nat) : List Team → Option State
  | [] => some s
  | t :: ts => (s.saveTeam g t).bind fun u => State.saveTeams u g ts

/-- A pre-emption abandoned (R324): the teams resume where they stopped, and telemetry counts it. -/
def State.abandon (s : State) (g : Nat) : State := (s.modGrid g fun x => { x with state := .placed }).telemetry 11 0 0 0 g

/-- A quiesced grid saved (R43). A save that fails twice ends the grid (R324); where a tower's pool is empty the grid is not pre-empted
(R352). R258 has the grid ready from the moment of its pre-emption, which the model takes to be the cycle in which it is saved (DESIGN
CHOICE, log entry 74). -/
def State.saveGrid (s : State) (g : Nat) : State :=
  let t := (s.mapThreads fun t => if t.id.grid = g then s.saveThread t else t).dropParked g
  match t.saveTeams g (t.teams.filter fun t => t.grid == g) with
  | some u => u.modGrid g fun x => { x with state := if x.faults.isEmpty then .saved else .placed, readyAt := s.cycle }
  | none => s.abandon g

/-- `PREEMPT` (R43): the teams begin to quiesce; once they have, within 2^22 cycles (R324), the grid is saved. A grid that R51 comes to
protect meanwhile, or for which the spare slot pairs no longer suffice (R352), goes on. -/
def execPreempt (gn : Nat) (s : State) : Out :=
  .next (match s.grid? gn with
    | some g =>
      match g.state with
      | .placed => if s.mayPreempt g then s.modGrid gn fun x => { x with state := .quiescing s.cycle } else s
      | .quiescing t =>
        if s.carveProtected g || !s.pairsFor gn then s.modGrid gn fun x => { x with state := .placed }
        else if g.faults.isEmpty && s.quiesced gn && decide (s.cycle.toNat ≤ t.toNat + 2 ^ 22) then s.saveGrid gn
        else s
      | _ => s
    | none => s)

/-- `PREEMPT_ABANDON` (R324): after 2^22 cycles without quiescing the teams resume where they stopped. -/
def execPreemptAbandon (gn : Nat) (s : State) : Out :=
  .next (match s.grid? gn with
    | some g =>
      match g.state with
      | .quiescing t =>
        if t.toNat + 2 ^ 22 < s.cycle.toNat then s.abandon gn else s
      | _ => s
    | none => s)

/-- `RESUME` (R43): every team of a saved grid placed at once under R25. -/
def execResume (gn : Nat) (cores : List Nat) (s : State) : Out :=
  .next (match s.grid? gn with
    | some g =>
      if g.state == .saved && s.mayPlace g && cores.length == g.desc.nteam && courtOk g.desc.side cores then
        match s.placeAll (State.placeTeam g) 0 cores with
        | some t => (t.dropICache cores g.queue).modGrid gn fun x => { x with state := .placed, placedSince := s.cycle }
        | none => s
      else s
    | none => s)

/-! ### Descriptor writes, the watchdog -/

/-- `MREG_WRITE_APPLY` (R205): the oldest write under way applied at every core of the grid; its `wrsr` completes. -/
def execMregWriteApply (gn : Nat) (s : State) : Out :=
  .next (match s.grid? gn with
    | some g =>
      match g.mregPend with
      | (n, v, who) :: rest =>
        (s.modGrid gn fun x => { x with mreg := setHalf x.mreg n v, mregPend := rest }).modThread who fun t =>
          if t.wait = .mregWrite then t.goOn else t
      | [] => s
    | none => s)

/-- The window exponent of `WDOG` (R322). -/
def HostRegs.window (h : HostRegs) : Nat :=
  let w := (h.wdog.setWidth 6).toNat
  if 24 ≤ w ∧ w ≤ 40 then w else 31

/-- Is every thread that has not ended parked on a full/empty word, waiting for fault service, or sleeping on a promise (R323)? -/
def State.waitsOnly (s : State) (g : Nat) : Bool :=
  (s.threadsOf g).all fun t =>
    match t.wait with
    | .ended => true
    | .word _ => true
    | .service _ => true
    | .sleep _ p => p
    | _ => false

/-- Is a grid held by a debugger's halt now? -/
def State.gridHalted (s : State) (g : Nat) : Bool :=
  s.teams.any fun t => t.grid == g && match t.core with | some c => (s.cluster (clusterOf c)).halted | none => false

/-- Does a window that ends now judge a grid, and was the grid not live in it (R323)? -/
def State.watchdogEnds (s : State) (g : Grid) : Bool :=
  (match g.state with | .queued => false | .saved => false | _ => true) && g.faults.isEmpty &&
  decide (g.placedSince.toNat + 2 ^ s.host.window ≤ s.cycle.toNat) && !s.gridHalted g.num && !g.live && !s.waitsOnly g.num

/-- `WATCHDOG_WINDOW_END` (R323). -/
def execWatchdogWindowEnd (s : State) : Out :=
  .next (if s.cycle.toNat % 2 ^ s.host.window ≠ 0 then s
    else
      let t := if s.host.wdog.getLsbD 6 then s
               else (s.grids.filter s.watchdogEnds).foldl (fun u g => u.faultGrid g.num 2 0 0 0) s
      { t with grids := t.grids.map fun g => { g with live := false } })

end Sys2Proof.Machine
end

