-- ==== Sys2Proof/Machine/Swaps.lean ====
section
/-! DEFINITION. Placement swaps (R44–R48, R325, R326) and the commit of replay-mode chunks (R262–R264, R327). -/

namespace Sys2Proof.Machine

/-! ### Candidates and costs (R44, R45) -/

/-- Are two cores adjacent (R44)? -/
def adjacent (p q : Nat) : Bool :=
  if p / 512 == q / 512 then
    (rowOf p == rowOf q && ((colOf q == colOf p + 1 && colOf p % 4 == 3) || (colOf p == colOf q + 1 && colOf q % 4 == 3) ||
      (colOf p == 31 && colOf q == 0) || (colOf q == 31 && colOf p == 0))) ||
    (colOf p == colOf q && ((rowOf q == rowOf p + 1 && rowOf p % 2 == 1) || (rowOf p == rowOf q + 1 && rowOf q % 2 == 1) ||
      (rowOf p == 15 && rowOf q == 0) || (rowOf q == 15 && rowOf p == 0)))
  else
    towerOf p == towerOf q && p % 512 == q % 512 && (layerOf q == layerOf p + 1 || layerOf p == layerOf q + 1)

/-- The length of the shorter way round a ring of `n`. -/
def ringDist (n a b : Nat) : Nat := let d := if a < b then b - a else a - b; min d (n - d)

/-- D(p, h) of R45, from a core to a cluster. -/
def clusterDist (p h : Nat) : Nat :=
  let c := clusterOf p
  ringDist 8 (c % 64 / 8) (h % 64 / 8) + ringDist 8 (c % 8) (h % 8) +
  (let a := c / 64 % 4; let b := h / 64 % 4; if a < b then b - a else a - b) + 16 * ringDist 4 (c / 256) (h / 256)

/-- Does a count stand for messages to the TCM share of a team (R45)? -/
def SentTo.toShare (x : SentTo) (t : Team) : Bool := x.share == t.grid * 8192 + t.lteam + 1

/-- The messages of an interval to homes in a cluster, without those to the TCM shares of the pair (R45). -/
def intervalCount (a b : Team) (h : Nat) (l : List SentTo) : Nat :=
  ((l.filter fun x => x.cluster == h && !x.toShare a && !x.toShare b).map (·.n)).sum

/-- c(X, h) of R45: the messages of the last interval, and half of the count before it. -/
def sentCount (a b : Team) (h : Nat) : List (List SentTo) → Nat
  | [] => 0
  | l :: r => intervalCount a b h l + sentCount a b h r / 2

/-- The cost of a team at a core (R45); `a` and `b` are the pair. -/
def swapCost (a b x : Team) (p : Nat) : Nat :=
  ((x.hist.flatten.map (·.cluster)).eraseDups.map fun h => sentCount a b h x.hist * clusterDist p h).sum

/-- The counts at an instant (R45): an interval ends. A team that is not placed has none. -/
def Team.formCounts (t : Team) : Team := { t with hist := if t.core.isSome then t.sent :: t.hist else [], sent := [] }

/-- Does every occupied slot of a core belong to a team (R44)? -/
def State.slotsOwn (s : State) (t : Team) (c : Nat) : Bool :=
  s.threads.all fun x => x.id.grid == 0 || x.wait == .ended || x.core != c || (x.id.grid == t.grid && x.id.team == t.lteam)

/-- May a core take part in a swap at this instant (R44, R260)? The answer is its team. -/
def State.swapTeam (s : State) (c : Nat) : Option Team :=
  match s.teamsOn c with
  | [t] =>
    let g := s.gridD t.grid
    let b := s.bank (clusterOf c)
    let ok := g.desc.flag 3 && g.swapOn && t.spad == 0 && g.desc.side == 0 && b.cur == 0 && b.busy.isNone &&
      decide (t.placedAt.toNat + 2 ^ 22 < s.cycle.toNat) && (s.core c).frozen == 0 && s.slotsOwn t c && g.state == .placed &&
      g.faults.isEmpty && !(s.core c).exchanging
    if ok then some t else none
  | _ => none

/-- A pair that saves enough: the saving and the cores (R45). -/
def State.swapPair (s : State) (p q : Nat) : Option (Nat × Nat × Nat) :=
  match s.swapTeam p, s.swapTeam q with
  | some a, some b =>
    let old := swapCost a b a p + swapCost a b b q
    let new := swapCost a b a q + swapCost a b b p
    if old < new + 1024 ∨ 8 * (old - new) ≤ old then none else some (old - new, p, q)
  | _, _ => none

/-- The pairs that save enough, in the order of R45: a pair put behind those with a larger saving, or the same and a lower
core. Of two that share saving and lower core, the one found first comes first: the rule leaves it open (DESIGN CHOICE, log entry 41). -/
def insertPair (x : Nat × Nat × Nat) : List (Nat × Nat × Nat) → List (Nat × Nat × Nat)
  | [] => [x]
  | y :: r => if y.1 < x.1 ∨ (y.1 = x.1 ∧ x.2.1 < y.2.1) then x :: y :: r else y :: insertPair x r

/-- Pairs taken in order, each core at most once (R45). -/
def takePairs : List Nat → List (Nat × Nat × Nat) → List (Nat × Nat)
  | _, [] => []
  | used, (_, p, q) :: r => if used.contains p || used.contains q then takePairs used r else (p, q) :: takePairs (p :: q :: used) r

/-- The pairs that the referee exchanges at an instant. -/
def State.chosenPairs (s : State) : List (Nat × Nat) :=
  let cs := s.teams.filterMap (·.core)
  let all := cs.flatMap fun p => cs.filterMap fun q => if p < q ∧ adjacent p q then s.swapPair p q else none
  takePairs [] (all.foldl (fun l x => insertPair x l) [])

/-- A core whose `exchanging` is set or cleared. -/
def State.setExchanging (s : State) (v : Bool) (c : Nat) : State := s.setCore { s.core c with exchanging := v }

/-- `SWAP_INSTANT` (R44, R45, R48): the counts are formed, the pairs are chosen, and both teams of each stop. -/
def execSwapInstant (s : State) : Out :=
  .next (if s.cycle.toNat % 2 ^ 22 ≠ 0 then s
    else
      let s := { s with teams := s.teams.map Team.formCounts }
      let ps := s.chosenPairs
      let s := { s with cores := s.cores.map fun c => { c with frozen := c.frozen - 1 }, exchanges := s.exchanges ++ ps }
      ps.foldl (fun t p => (t.setExchanging true p.1).setExchanging true p.2) s)

/-! ### Exchanges (R46, R47, R325) -/

/-- Has every thread of a core's teams completed its closed phases, and does its matrix unit stand at a row boundary? -/
def State.stoppedFor (s : State) (c : Nat) : Bool :=
  (s.threads.all fun t => !s.ofCore c t || (t.closed.isEmpty && match t.wait with | .migrating _ => false | _ => true)) &&
  (s.core c).mq.all fun r => !r.midRow

/-- An uncorrectable error in the state that a team takes along, its matrix records included (R46, R325): its DETAIL. -/
def State.movedError (s : State) (t : Team) : Option Nat :=
  let queued := ((t.core.map fun c => (s.core c).mq).getD []).any fun r =>
    r.tid.grid == t.grid && r.tid.team == t.lteam && s.poison.contains (mqErr r.id)
  if queued then some 5
  else
  (s.poison.find? fun n => errorOf t.grid n &&
    (if 2 ^ 61 ≤ n then (n - 2 ^ 61) / 64 / 8 % 8192 == t.lteam
     else if 2 ^ 60 ≤ n then (n - 2 ^ 60) / 64 / 16 % 8192 == t.lteam
     else match homeOf (n * 8) with | .tcm _ l => l == t.lteam | _ => false)).map
    fun n => if 2 ^ 61 ≤ n then 5 else if 2 ^ 60 ≤ n then 6 else 1

/-- The grids of teams that would move with an error ended (R325). -/
def State.failMoved (s : State) (c : Nat) : State :=
  (s.teamsOn c).foldl (fun u t => match s.movedError t with | some d => u.faultGrid t.grid 1 0x1A d 0 | none => u) s

/-- Does a request go to, or its reply come back to, a team on one of the cores (R47)? -/
def State.toMoved (s : State) (p q : Nat) (r : Req) : Bool :=
  let on := fun t : Team => t.core == some p || t.core == some q
  on (s.teamD r.tid.grid r.tid.team) ||
  r.pieces.any fun x => match homeOf x.key with | .tcm g l => on (s.teamD g l) | _ => false

/-- The state of two cores' teams moved to each other's core (R46), where it is their first commit (R350). Messages under way are
forwarded (R47). -/
def State.moveTeams (s : State) (p q : Nat) : State :=
  let other := fun c : Nat => if c = p then q else if c = q then p else c
  let mine := fun t : Thread => (s.teamD t.id.grid t.id.team).core == some p || (s.teamD t.id.grid t.id.team).core == some q
  let a := s.core p
  let b := s.core q
  let unit := fun (k : Core) (mq : List MRec) => if !mq.isEmpty ∧ k.unit = .inactive then UnitState.requesting s.cycle else k.unit
  let s : State := { s with fabric := s.fabric.map fun r => if s.toMoved p q r then { r with misrouted := true } else r }
  let s : State := s.mapThreads fun t => if mine t then { t with core := other t.core } else t
  let s : State := { s with teams := s.teams.map fun t => { t with core := t.core.map other } }
  let gone := fun (k : Core) (mq : List MRec) => if mq.isEmpty ∧ !k.mq.isEmpty then s.cycle else k.emptied
  let s := s.setCore { a with mq := b.mq, unit := unit a b.mq, emptied := gone a b.mq, forwardSince := some s.cycle }
  let s := s.setCore { b with mq := a.mq, unit := unit b a.mq, emptied := gone b a.mq, forwardSince := some s.cycle }
  let qs := (s.teamsOn p ++ s.teamsOn q).map fun t : Team => (s.gridD t.grid).queue
  let s := qs.foldl (fun t n => t.dropICache [p, q] n) s
  ((s.saveCore p).2.saveCore q).2

/-- Both cores of a pair released, and frozen for four instants (R48). -/
def State.endExchange (s : State) (p q : Nat) : State :=
  let s := { s with exchanges := s.exchanges.filter fun x => x != (p, q) }
  let s := s.setCore { s.core p with exchanging := false, frozen := 4 }
  s.setCore { s.core q with exchanging := false, frozen := 4 }

/-- `EXCHANGE` (R46): both teams moved, or, where the exchange cannot finish, neither (R325); which of the two is open. A fault of one of
their grids abandons it (R316). -/
def execExchange (p q : Nat) (s : State) : Out :=
  .next (if s.exchanges.contains (p, q) && (s.teamsOn p ++ s.teamsOn q).any fun t => s.ending t.grid then s.endExchange p q
    else if s.exchanges.contains (p, q) && s.stoppedFor p && s.stoppedFor q then
      let d := s.draw
      if d.1 % 2 = 1 then d.2.endExchange p q
      else (((d.2.failMoved p).failMoved q).moveTeams p q).endExchange p q
    else s)

/-- `FORWARDING_WITHDRAW` (R47): after 65,536 cycles, once no message under an older map is under way. -/
def execForwardingWithdraw (c : Nat) (s : State) : Out :=
  let k := s.core c
  .next (match k.forwardSince with
    | some t =>
      if t.toNat + 65536 ≤ s.cycle.toNat && s.fabric.all fun r => !r.misrouted then s.setCore { k with forwardSince := none } else s
    | none => s)

/-! ### The commit of a chunk (R262–R264, R327) -/

/-- The bytes that a chunk changed or stored; a store counts also where it leaves the value (R262). -/
def Apart.bytes (x : Apart) : List Nat :=
  let stored := x.writes.flatMap fun w => (List.range w.2).map fun i => w.1 + i
  stored ++ ((x.mem.map (·.1)) ++ x.mem0.map (·.1)).filter fun k => Memory.get x.mem k != Memory.get x.mem0 k

/-- They are put into another memory. -/
def mergeCells (x : Apart) (now : List Host.Cell) : List Host.Cell :=
  x.bytes.foldl (fun m k => Memory.set m k (Memory.get x.mem k)) now

/-- The words that a chunk has emptied, and those that it has filled. -/
def Apart.emptied (x : Apart) : List Nat := x.empty.filter fun w => !x.empty0.contains w
/-- See `Apart.emptied`. -/
def Apart.filled (x : Apart) : List Nat := x.empty0.filter fun w => !x.empty.contains w

/-- The changes to full/empty bits. -/
def mergeEmpty (x : Apart) (now : List Nat) : List Nat :=
  (x.emptied.filter fun w => !now.contains w) ++ now.filter fun w => !x.filled.contains w

/-- Does a running reach program hold something that a chunk has written (R294)? -/
def State.reachHolds (s : State) (x : Apart) : Bool := (x.bytes ++ (x.emptied ++ x.filled).map (8 * ·)).any s.reachHeld

/-- The keep-region stores of a chunk numbered after all that have been performed (R86). -/
def renumber (n : Nat) (l : List KeepStore) : List KeepStore := l.map fun x => { x with id := n + x.id - (l.headD x).id }

/-- What a chunk kept apart put into memory; the commit of its other effects begins (R262, R327). -/
def State.mergeApart (s : State) (g : Nat) (x : Apart) : State :=
  let keep := renumber s.fresh x.keep
  let s := { s with mem := mergeCells x s.mem, empty := mergeEmpty x s.empty, keepPending := s.keepPending ++ keep,
                    fresh := keep.foldl (fun n (y : KeepStore) => max n (y.id + 1)) s.fresh }
  s.modGrid g fun y => { y with replay := { y.replay with apart := none, committing := true, commitAt := s.cycle } }

/-- Are the copy and matrix counters of a thread zero (R83, R85)? -/
def State.countersZero (s : State) (who : Tid) : Bool :=
  match s.thread? who with | some t => decide (t.cntC = 0) && decide (t.cntM = 0) | none => true

/-- An effect that a chunk's commit performs (R327), or none while it must wait: for a copy slot, a grid number, or what a `publ` or
`pfence keep` waits for. A push is stamped with the cycle of the turn at which the chunk ended, the last of the innings for a whole
chunk; the spec does not give the stamp (DESIGN CHOICE, log entry 62). -/
def State.commitOne (s : State) (g : Nat) : Deferred → Option State
  | .push l t =>
    let x := s.gridD g
    some (s.pushTask g l t (x.start + BitVec.ofNat 64 (512 * x.replay.innings + x.replay.turn)))
  | .launch who d regions windows callix => s.queueChild who d regions windows callix (s.gridD g).replay.commitAt
  | .record who fpc words => some (s.queueRecord ((s.teamD who.grid who.team).core.getD 0) who fpc words)
  | .copy who kind fpc ops id p =>
    match s.thread? who with
    | some t =>
      if 32 ≤ s.copySlots (clusterOf t.core) then none
      else
        let r := ({ s with fresh := id } : State).acceptCopy kind who t.core ops p fpc
        some { r with fresh := s.fresh }
    | none => some s
  | .publ who loc => if s.countersZero who then s.flipAt who.grid loc else none
  | .pfence who keep =>
    if !keep then some (s.saveCore ((s.teamD who.grid who.team).core.getD 0)).2
    else if s.countersZero who then some { (s.focus who).keepDone.focus s.cur.id with aborted := s.aborted }
    else none
  | .mreg n v => some (s.modGrid g fun x => { x with mreg := setHalf x.mreg n v })
  | .bank core _ v => some (s.setBank ((s.bank (clusterOf core)).write v))
  | .live => some (s.modGrid g fun x => { x with live := true })

/-- Does an effect not take place any more once its grid is to end: a `publ` or `pfence keep` still waiting (R316)? -/
def Deferred.dropped : Deferred → Bool
  | .publ _ _ => true
  | .pfence _ k => k
  | _ => false

/-- The next effect of a chunk's commit; `none` while it must wait. -/
def State.commitNext (s : State) (g : Grid) (d : Deferred) : Option State :=
  match s.commitOne g.num d with
  | some t => some t
  | none => if !g.faults.isEmpty && d.dropped then some s else none

/-- The threads of a team that waited for the commit go on. -/
def State.wakeCommit (s : State) (g l : Nat) : State :=
  s.mapThreads fun t => if t.id.grid = g ∧ t.id.team = l ∧ t.wait = .commit then t.goOn else t

/-- The next chunk: of the next team, or of team 0 in the next innings. -/
def Replay.nextChunk (r : Replay) (nteam : Nat) : Replay :=
  let next : Replay := { r with turn := 0, deferred := [], committing := false }
  if r.team + 1 < nteam then { next with team := r.team + 1 } else { next with team := 0, innings := r.innings + 1 }

/-- The regions whose tick ends with an innings swept, in the tick that ends (R208, R263): nothing while the innings goes on with its next
chunk. -/
def State.sweepInnings (s : State) (gn : Nat) : State :=
  match s.grid? gn with
  | some g =>
    let n := g.replay.innings
    let c := fun n : Nat => g.start + BitVec.ofNat 64 (512 * n)
    if (g.replay.nextChunk g.desc.nteam).innings = n then s else s.sweepGrid g fun r => r.tick (c n) != r.tick (c (n + 1))
  | none => s

/-- One step of a commit under way: its next effect, in program order (R327), or its end. -/
def State.commitStep (s : State) (g : Grid) : State :=
  match g.replay.deferred with
  | d :: rest =>
    match s.commitNext g d with
    | some t => t.modGrid g.num fun y => { y with replay := { y.replay with deferred := rest } }
    | none => s
  | [] => (((s.wakeCommit g.num g.replay.team).sweepInnings g.num).modGrid g.num fun y => { y with replay := y.replay.nextChunk y.desc.nteam }).pumpFs

/-- `INNINGS_COMMIT` (R262): the chunk that has run, or whose team's thread has faulted (R327), is committed: its writes, once no reach
program holds what they write (R294), then its other effects one by one. Chunks run one after another here, each against the state its forerunners left, so none has to be squashed. -/
def execInningsCommit (gn : Nat) (s : State) : Out :=
  .next (match s.grid? gn with
    | some g =>
      if g.replay.committing then s.commitStep g
      else
        match g.replay.apart with
        | some x => if (g.replay.turn = 512 || !g.faults.isEmpty) && !s.reachHolds x then s.mergeApart gn x else s
        | none => s
    | none => s)

end Sys2Proof.Machine
end

