-- ==== Sys2Proof/Machine/Queues.lean ====
section
/-! DEFINITION. Host queues and their entries (R252–R257, R274, R288, R320, R345), invalidation (R55), package modes (R20, R290),
replies to fault service (R289, R311, R337, R339), the end of a bank's change (R65, R357). Each step whose object or condition is
missing leaves the machine as it is. -/

namespace Sys2Proof.Machine

/-! ### Queue registers (R288) -/

/-- An uncorrectable error that a read of the referee meets at a key, reported (R343, R345). -/
def State.reportBad (s : State) (k : Nat) : State := s.telemetry 2 (s.errDetail k) (s.whereBad k) k 0

/-- `QTAIL_DOORBELL` (R252): a queue that waits at a NEXT of 0 reads it again; an error there is reported (R344, R345). -/
def execQtailDoorbell (q : Nat) (_v : Word) (s : State) : Out :=
  let x := s.queue q
  .next (if x.pos = 0 ∧ x.link ≠ 0 then
      let t := s.correctWords x.link 8
      (if t.poisoned x.link 8 then t.reportBad x.link else t).setQueue { x with pos := bits (s.load x.link 8) 52 8 * 256 }
    else s)

/-- `QUEUE_ENABLE` (R288): numbering starts at 1; a queue already enabled changes its priority and SIRQ. What an earlier enabling left
under way goes on, a wait-value entry too. -/
def execQueueEnable (q : Nat) (v : Word) (s : State) : Out :=
  let x := { s.queue q with prio := v.extractLsb' 1 3, sirq := v.getLsbD 4 }
  .next (s.setQueue (if x.en then x
    else { x with en := true, pos := bits x.head 52 8 * 256, link := 0, number := 0, seqDone := 0, passed := false,
                  entries := x.entries.map fun e => { e with old := true } }))

/-- `QUEUE_DISABLE` (R288): consumption stops after the entry being consumed; grids already queued run on. -/
def execQueueDisable (q : Nat) (v : Word) (s : State) : Out :=
  .next (s.setQueue { s.queue q with en := false, prio := v.extractLsb' 1 3, sirq := v.getLsbD 4 })

/-- `QLAT_WRITE` (R288): a core that is now too deep falls due for a wake (R268). -/
def execQlatWrite (q : Nat) (v : Word) (s : State) : Out := .next (s.setQueue { s.queue q with lat := v.setWidth 32 })

/-- `INVALIDATION_COMMAND` (R55, R288): a write of LEN. -/
def execInvalidationCommand (q : Nat) (v : Word) (s : State) : Out :=
  .next (s.setQueue { s.queue q with invl := v.setWidth 36, invBusy := true, invUpto := s.fresh })

/-- Does a held translation lie in a queue's invalidation range? -/
def Queue.covers (x : Queue) (t : TlbEntry) : Bool :=
  let lo := bits x.inva 51 16 * 65536
  t.queue == x.num && decide (t.base < lo + x.invl.toNat * 65536) && decide (lo < t.base + t.size)

/-- Is an access that used a translation still to be performed (R55)? -/
def State.usesTranslation (s : State) (t : TlbEntry) : Bool :=
  let hit := fun p : Piece => decide (t.base ≤ locOf p.ea) && decide (locOf p.ea < t.base + t.size)
  (s.fabric.any fun r => r.queue == t.queue && r.pieces.any fun p => !p.done && hit p) ||
  (s.copies.any fun c => (match c.entry with | some (q, _) => q | none => (s.gridD c.grid).queue) == t.queue && c.writes.any hit) ||
  s.cores.any fun c => c.mq.any fun r => (s.gridD r.tid.grid).queue == t.queue && r.writes.any hit

/-- `INVALIDATION_COMPLETE` (R55): no TLB holds a translation of the range, and every access that used one is performed. -/
def execInvalidationComplete (q : Nat) (s : State) : Out :=
  let x := s.queue q
  .next (if x.invBusy && !(s.tlb.any fun t => x.covers t && s.usesTranslation t) then
      ({ s with tlb := s.tlb.filter fun t => !x.covers t } : State).setQueue { x with invBusy := false }
    else s)

/-! ### Consuming an entry (R252–R256) -/

/-- KIND of the entry at an address. -/
def State.entryKind (s : State) (a : Nat) : Nat := bits (s.load a 8) 3 0

/-- NDEP. -/
def State.entryDeps (s : State) (a : Nat) : Nat := bits (s.load a 8) 10 8

/-- Word j of an entry's body. -/
def State.entryBody (s : State) (a j : Nat) : Word := s.load (a + 64 + 8 * j) 8

/-- The sequence word of a queue as it reads (R253, R254). -/
def State.sequenceWord (s : State) (q : Nat) : Nat := (s.load (bits (s.queue q).seq 52 3 * 8) 8).toNat

/-- Do the dependences of an entry hold (R253)? -/
def State.depsHold (s : State) (a : Nat) : Bool :=
  (List.range (min (s.entryDeps a) 4)).all fun j =>
    let d := s.load (a + 16 + 8 * j) 8
    decide (bits d 63 16 ≤ s.sequenceWord (bits d 10 0))

/-- Does the entry wait for all earlier ones: BAR, or a graph, wait-value or signal entry (R253, R256)? -/
def State.entryBar (s : State) (a : Nat) : Bool :=
  bits (s.load a 8) 4 4 == 1 || s.entryKind a == 2 || s.entryKind a == 3 || s.entryKind a == 4

/-- Has every earlier-consumed entry of a queue completed, also one of an earlier enabling? -/
def Queue.allDone (x : Queue) : Bool := x.entries.all (·.done)

/-- The launch descriptor of an entry (R237, R256). -/
def State.entryLaunch (s : State) (a : Nat) : Descriptor := Descriptor.ofWords ((List.range 16).map (s.entryBody a))

/-- Do an entry's dependences name a queue above 2,047, or more than four of them (R320)? -/
def State.depsBad (s : State) (a : Nat) : Bool :=
  decide (4 < s.entryDeps a) || (List.range (s.entryDeps a)).any fun j => bits (s.load (a + 16 + 8 * j) 8) 15 11 != 0

/-- What rejects an entry by its header, or by a reserved bit of its body (R320). -/
def State.headerBad (s : State) (a : Nat) : Option Nat :=
  let h := s.load a 8
  let k := s.entryKind a
  if k = 0 ∨ 5 < k then some 0x30
  else if s.depsBad a ∨ bits h 7 5 ≠ 0 ∨ bits h 63 11 ≠ 0 then some 0x31
  else if k = 1 ∧ (s.entryLaunch a).reservedBad then some 0x31
  else none

/-- May the referee consume the entry at which a queue stands: enabled, not held (R274), its dependences and BAR met, no
wait-value entry pending (R256), no stop under way (R320)? An entry whose dependences R320 rejects names none to wait for. -/
def State.mayConsume (s : State) (q : Nat) : Bool :=
  let x := s.queue q
  s.powered && x.en && x.pos != 0 && x.held.isEmpty && (s.grids.all fun g => g.queue != q || g.held.isEmpty) && x.waitKind.isNone &&
  (!x.entries.any fun e => (!e.done && e.kind == 3) || (!e.old && e.stops)) &&
  (s.depsBad x.pos || s.depsHold x.pos) && (!s.entryBar x.pos || x.allDone)

/-- An uncorrectable error in what the referee reads of an entry (R345): its address. -/
def State.entryPoison (s : State) (a : Nat) : Option Nat :=
  ([0, 8] ++ ((List.range (min (s.entryDeps a) 4)).map fun j => 16 + 8 * j) ++ (List.range 16).map fun j => 64 + 8 * j).findSome? fun o =>
    if s.poisoned (a + o) 8 then some (a + o) else none

/-- An entry consumed: it takes the next number, the queue goes on to `link`, and its grids are live (R254, R323). The answer is
its identity. -/
def State.consume (s : State) (q kind link : Nat) (done : Bool) (status cause : Nat) : Nat × State :=
  let x := s.queue q
  let e : QEntry := { id := s.fresh, num := x.number + 1, old := false, addr := x.pos, kind := kind, grid := 0, done := done,
                      status := status, cause := cause, written := false, stops := cause == 0x32 }
  let s := s.setQueue { x with number := x.number + 1, entries := x.entries ++ [e], pos := bits (s.load link 8) 52 8 * 256,
                               link := link, passed := false }
  (e.id, { s with fresh := s.fresh + 1, grids := s.grids.map fun g => if g.queue = q then { g with live := true } else g })

/-- An entry rejected (R320); after 0x32 the queue stops, and EN is cleared with the record. -/
def State.rejectEntry (s : State) (q cause : Nat) : State :=
  let x := s.queue q
  (s.consume q (s.entryKind x.pos) (x.pos + 8) true 5 cause).2

/-- An entry whose read meets an uncorrectable error at a key (R345): STATUS 1, CAUSE 0x1A, and the queue goes on to NEXT. -/
def State.errorEntry (s : State) (q a : Nat) : State :=
  let x := s.queue q
  (s.consume q (s.entryKind x.pos) (x.pos + 8) true 1 0x1A).2.reportBad a

/-- The same for an error met on the way to an address of the entry, or at it. -/
def State.errorOnWay (s : State) (q : Nat) (ea : Word) : State :=
  s.errorEntry q (((s.walkErrorKey q (locOf ea)).or (s.keyIn (.queue q) (locOf ea))).getD 0)

/-- An entry of a kind at which a queue stands, run by `k` when it may be consumed and nothing is wrong with its header. -/
def State.onEntry (s : State) (q kind : Nat) (k : State → Nat → State) : State :=
  let a := (s.queue q).pos
  if !s.mayConsume q || s.entryKind a != kind then s
  else
    match s.entryPoison a with
    | some w => s.errorEntry q w
    | none =>
      let s := s.correctWords a 192
      match s.headerBad a with
      | some c => s.rejectEntry q c
      | none => k s a

/-- `ILLEGAL_KIND_ENTRY` (R320). -/
def execIllegalKindEntry (q : Nat) (s : State) : Out :=
  let a := (s.queue q).pos
  .next (if s.mayConsume q && s.headerBad a == some 0x30 then
      (match s.entryPoison a with | some w => s.errorEntry q w | none => (s.correctWords a 192).rejectEntry q 0x30)
    else s)

/-! ### The referee's reads in a queue's address space -/

/-- Words read by the referee one after another, or what keeps it from reading one. -/
def State.refereeWords (s : State) (q : Nat) : List Word → Except EngineRead (List Word) × State
  | [] => (.ok [], s)
  | ea :: r =>
    let x := s.engineRead (.queue q) ⟨0, 0, 0⟩ 0 ea 8
    match x.1 with
    | .bytes v =>
      let y := State.refereeWords x.2 q r
      (match y.1 with | .ok l => .ok (BitVec.ofNat 64 v :: l) | .error e => .error e, y.2)
    | e => (.error e, x.2)

/-- Words read by the referee at a location, or what keeps it from reading them. -/
def State.refereeRead (s : State) (q : Nat) (ea : Word) (n : Nat) : Except EngineRead (List Word) × State :=
  if locOf ea % 8 ≠ 0 ∨ 6 ≤ viewOf ea then (.error (.fault 0x12 0x30 ea), s)
  else s.refereeWords q ((List.range n).map fun j => eaPlus ea (8 * j))

/-! ### Launch entries (R237, R238, R256) -/

/-- Teams that an empty package could place (R15, R24, R25, R51): up to eight in a cluster, fewer by their scratchpad partitions,
whole squares of a court. -/
def Descriptor.capacity (d : Descriptor) : Nat :=
  let k := if d.spad = 0 then 8 else min 8 (2 ^ 21 / d.spad)
  match d.side with
  | 0 => 1024 * k
  | 2 => 4096 * (if k = 8 then 2 else if 4 ≤ k then 1 else 0)
  | _ => if k = 8 then 8192 else 0

/-- A table of a launch entry; an address of 0 gives the default. -/
def State.entryTable (s : State) (q : Nat) (ea : Word) (n : Nat) (none_ : List (Word × Word)) :
    Except EngineRead (List (Word × Word)) × State :=
  if ea = 0 then (.ok none_, s)
  else
    let r := s.refereeRead q ea n
    (r.1.map pairUp, r.2)

/-- What a table that cannot be read does to its launch entry (R320, R345). -/
def State.tableBad (s : State) (q : Nat) : EngineRead → State
  | .fault 0x1A _ va => s.errorOnWay q va
  | .wait => s
  | _ => s.rejectEntry q 0x33

/-- A launch whose descriptor and tables have been read: rejected, or its grid queued once there is a number for it. -/
def State.launchFrom (s : State) (q a : Nat) (d : Descriptor) (regions windows : List (Word × Word)) : State :=
  match launchBad none d regions windows with
  | some _ => s.rejectEntry q 0x33
  | none =>
    if d.capacity < d.nteam then s.rejectEntry q 0x36
    else
      let c := s.consume q 1 (a + 8) false 0 0
      match c.2.queueGrid q (s.queue q).prio.toNat none 0 d regions (windows.filterMap DWindow.ofEntry) (some (q, c.1)) s.cycle with
      | some r => r.2
      | none => s

/-- The launch entry at `a` (R256). -/
def State.launchEntry (s : State) (q a : Nat) : State :=
  let d := s.entryLaunch a
  let hits := if (s.queue q).passed then [] else s.host.breakpoints d.entry q
  if hits != [] then ((s.setQueue { s.queue q with held := hits, passed := true }).setHits).interrupt 3 q
  else
    if d.fieldBad then s.rejectEntry q 0x33
    else
      let r := s.entryTable q d.mregp 16 mregReset
      match r.1 with
      | .error e => r.2.tableBad q e
      | .ok regions =>
        let w := r.2.entryTable q d.dwin 8 []
        match w.1 with
        | .error e => w.2.tableBad q e
        | .ok windows => w.2.launchFrom q a d regions windows

/-- `LAUNCH_ENTRY` (R256). -/
def execLaunchEntry (q : Nat) (s : State) : Out := .next (s.onEntry q 1 fun t a => t.launchEntry q a)

/-! ### Graph entries (R257) -/

/-- A graph node that R320 refuses by its OP. -/
def graphBad (op : Word) : Bool :=
  bits op 1 0 == 3 || bits op 7 2 != 0 || bits op 63 12 != 0 || (bits op 1 0 == 2 && (bits op 11 8 == 0 || bits op 11 8 == 15))

/-- The target that a node chooses (R257). -/
def graphTarget (op : Word) (w : Word) : Nat :=
  match bits op 1 0 with
  | 0 => if w = 0 then 0 else 1
  | 1 => if (0 : Word).slt w then 1 else 0
  | _ => min w.toNat (bits op 11 8 - 1)

/-- The graph entry at `a` (R257): the word is read, a loop decrements it, the queue goes on to the target. -/
def State.graphEntry (s : State) (q a : Nat) : State :=
  let op := s.entryBody a 1
  let ea := effAddr (s.entryBody a 0) 0
  if graphBad op || locOf ea % 8 != 0 || decide (6 ≤ viewOf ea) then s.rejectEntry q 0x32
  else
    let c := s.engineCheck (.queue q) ea 8 (bits op 1 0 == 1)
    match c.1 with
    | .ok (k :: _) =>
      let s := c.2
      if s.engineHeld k then s
      else if s.unreached k then s.rejectEntry q 0x32
      else if s.poisoned k 8 then s.errorEntry q k
      else
        let s := s.correctWords k 8
        let w := s.load k 8
        let t := graphTarget op w
        let s := if bits op 1 0 = 1 ∧ t = 1 then s.putWord k (w - 1).toNat else s
        (s.consume q 2 (a + 80 + 8 * t) true 0 0).2
    | .fault 0x1A _ va => c.2.errorOnWay q va
    | _ => c.2.rejectEntry q 0x32

/-- `GRAPH_ENTRY` (R257). -/
def execGraphEntry (q : Nat) (s : State) : Out := .next (s.onEntry q 2 fun t a => t.graphEntry q a)

/-! ### Wait-value and signal entries (R256) -/

/-- Does a word meet OP of a wait-value entry? -/
def waitMet (op : Nat) (w v : Word) : Bool :=
  match op with
  | 0 => w == v
  | 1 => v.ule w
  | 2 => w != v
  | _ => (w &&& v) != 0

/-- A body's address checked for an entry: where its word lies, or what the entry comes to (R320, R345). -/
def State.entryWord (s : State) (q a : Nat) (needW : Bool) : (Nat × State) ⊕ State :=
  let ea := effAddr (s.entryBody a 0) 0
  if locOf ea % 8 ≠ 0 ∨ 6 ≤ viewOf ea then .inr (s.rejectEntry q 0x35)
  else
    let c := s.engineCheck (.queue q) ea 8 needW
    match c.1 with
    | .ok (k :: _) => .inl (k, c.2)
    | .fault 0x1A _ va => .inr (c.2.errorOnWay q va)
    | _ => .inr (c.2.rejectEntry q 0x35)

/-- The wait-value entry in which a queue waits complete, with its STATUS and CAUSE. -/
def State.endWait (s : State) (q status cause : Nat) : State :=
  let x := s.queue q
  s.setQueue { x with waitKind := none, entries := x.entries.map fun e =>
    if e.kind = 3 ∧ !e.done then { e with done := true, status := status, cause := cause } else e }

/-- A read of the word of the wait-value entry in which a queue waits, as an acquire: met, or not yet. -/
def State.pollWait (s : State) (q : Nat) : State :=
  let x := s.queue q
  match x.waitKind with
  | some (loc, v, op) =>
    match s.walkErrorKey q loc.toNat, s.keyIn (.queue q) loc.toNat with
    | some k, _ => (s.endWait q 1 0x1A).reportBad k
    | none, some k =>
      if s.engineHeld k then s
      else if s.poisoned k 8 then (s.endWait q 1 0x1A).reportBad k
      else
        let s := s.correctWords k 8
        if waitMet op (s.load k 8) v then s.endWait q 0 0 else s.setQueue { x with polledAt := s.cycle }
    | none, none => s.endWait q 5 0x35
  | none => s

/-- The wait-value entry at `a` (R256). -/
def State.waitEntry (s : State) (q a : Nat) : State :=
  let op := s.entryBody a 2
  if 3 < op.toNat then s.rejectEntry q 0x31
  else
    match s.entryWord q a false with
    | .inr t => t
    | .inl w =>
      let c := w.2.consume q 3 (a + 8) false 0 0
      let t := c.2.setQueue { c.2.queue q with waitKind := some (BitVec.ofNat 64 (locOf (s.entryBody a 0)), s.entryBody a 1, op.toNat), polledAt := s.cycle }
      t.pollWait q

/-- `WAIT_VALUE_ENTRY` (R256). -/
def execWaitValueEntry (q : Nat) (s : State) : Out := .next (s.onEntry q 3 fun t a => t.waitEntry q a)

/-- `WAIT_VALUE_POLL` (R256): the word is read again, at least once every 4,096 cycles. -/
def execWaitValuePoll (q : Nat) (s : State) : Out := .next (s.pollWait q)

/-- The signal entry at `a` (R256): its write is performed and the entry is complete. A write into a lost stack is an access to it
(R355). -/
def State.signalEntry (s : State) (q a : Nat) : State :=
  let op := s.entryBody a 2
  let v := s.entryBody a 1
  if 2 < op.toNat then s.rejectEntry q 0x31
  else
    match s.entryWord q a true with
    | .inr t => t
    | .inl (k, s) =>
      if s.engineHeld k then s
      else if s.unreached k then s.rejectEntry q 0x35
      else if s.stackLost k || (op == 1 && s.poisoned k 8) then s.errorEntry q k
      else
        let t := match op.toNat with
          | 0 => s.putWord k v.toNat
          | 1 => let s := s.correctWords k 8; s.putWord k (s.load k 8 + v).toNat
          | _ => s.fillWord k v.toNat
        (t.consume q 4 (a + 8) true 0 0).2

/-- `SIGNAL_ENTRY` (R256). -/
def execSignalEntry (q : Nat) (s : State) : Out := .next (s.onEntry q 4 fun t a => t.signalEntry q a)

/-! ### Copy entries (R256) -/

/-- A copy engine that the referee chooses, with a free slot (R163, R256). -/
def State.freeEngine (s : State) : Option Nat × State :=
  let d := s.draw
  let c := d.1 % 1024
  ((List.range 1024).findSome? fun i => if d.2.copySlots ((c + i) % 1024) < 32 then some ((c + i) % 1024) else none, d.2)

/-- The copy entry at `a` (R256, R320). -/
def State.copyEntry (s : State) (q a : Nat) : State :=
  let ops := (List.range 6).map (s.entryBody a)
  if (copyOverLimit 0 ops).isSome ∨ (copyBadView 0 ops).isSome then s.rejectEntry q 0x34
  else if copyEmpty ops then (s.consume q 5 (a + 8) true 0 0).2
  else
    let e := s.freeEngine
    match e.1 with
    | none => s
    | some cl =>
      let c := e.2.consume q 5 (a + 8) false 0 0
      let t := c.2
      let x : Copy := { id := t.fresh, kind := 0, tid := ⟨0, 0, 0⟩, grid := 0, core := 8192, cluster := cl, ops := ops, next := 0, writes := [], promise := 0,
                        missed := false, paused := none, untilTret := false, counted := false, fpc := 0, upto := 0,
                        entry := some (q, c.1) }
      { t with copies := t.copies ++ [x], fresh := t.fresh + 1 }

/-- `COPY_ENTRY` (R256). -/
def execCopyEntry (q : Nat) (s : State) : Out := .next (s.onEntry q 5 fun t a => t.copyEntry q a)

/-! ### Completion (R254, R255) -/

/-- The entries that the sequence word counts, once their records are written: from the next number on, while there are any. -/
def Queue.advance (x : Queue) : Nat → Queue
  | 0 => x
  | fuel + 1 =>
    match x.entries.find? fun (e : QEntry) => !e.old && e.num == x.seqDone + 1 && e.done && e.written with
    | some e => Queue.advance { x with seqDone := e.num, entries := x.entries.filter fun (y : QEntry) => y.id != e.id } fuel
    | none => x

/-- `ENTRY_COMPLETE` (R254, R255): the record of a completed entry, with which a stop under 0x32 clears EN
(R320), then the sequence word once every lower number is complete. -/
def execEntryComplete (q n : Nat) (s : State) : Out :=
  let x := s.queue q
  .next (match x.entries.find? fun (e : QEntry) => e.num == n && e.done with
    | none => s
    | some e =>
      let s := if e.written then s else s.completionRecord e.addr e.status e.cause e.grid e.num
      let x := if e.stops && !e.old then { x with en := false } else x
      let x := { x with entries := (x.entries.map fun (y : QEntry) => if y.id = e.id then { y with written := true } else y).filter
                          fun (y : QEntry) => !(y.id == e.id && e.old) }
      let y := x.advance x.entries.length
      let s := s.setQueue y
      if y.seqDone = x.seqDone then s
      else
        let s := s.putWord (bits y.seq 52 3 * 8) y.seqDone
        if y.sirq then s.interrupt 1 q else s)

/-! ### Breakpoints, package modes -/

/-- `CPB_RELEASE` (R274, R291): what breakpoint `k` holds goes on as if it had never been held, and HIT clears. -/
def execCpbRelease (k : Nat) (s : State) : Out := .next (s.letGo k).setHits

/-- `PKGMODE_WRITE` (R290). -/
def execPkgmodeWrite (v : Word) (s : State) : Out := .next { s with host := { s.host with budget := v.setWidth 2, fast := v.getLsbD 2 } }

/-- `BUDGET_CHANGE` (R20): at the next cycle at which CYCLE[19:0] = 0. -/
def execBudgetChange (s : State) : Out :=
  .next (if s.cycle.toNat % 2 ^ 20 = 0 then { s with host := { s.host with budgetInForce := s.host.budget } } else s)

/-! ### Fault service (R289, R311, R337, R339, R362) -/

/-- `FSQPTR_WRITE` (R362): SIZE and HEAD; records that waited may now be written. -/
def execFsqptrWrite (v : Word) (s : State) : Out :=
  .next ({ s with host := { s.host with fsqSize := v.setWidth 12, fsqHead := v.extractLsb' 16 12 } } : State).pumpFs

/-- The outstanding record with a TOKEN. -/
def State.fsRec? (s : State) (tok : Nat) : Option FsRec := s.fs.find? fun f => f.token == tok

/-- A record of a matrix queue changed, wherever it is queued or saved. -/
def State.modRecAll (s : State) (n : Nat) (f : MRec → MRec) : State :=
  let g := fun r : MRec => if r.id = n then f r else r
  { s with cores := s.cores.map fun c => { c with mq := c.mq.map g }, teams := s.teams.map fun t => { t with savedMq := t.savedMq.map g } }

/-- What waited for a reply goes on (RESULT 0), or waits for the thread's `tret` (RESULT 1). -/
def State.unpause (s : State) (who : FsWho) (held : Bool) : State :=
  match who with
  | .thread t => s.modThread t fun x => match x.wait with | .service _ => { x with wait := .running } | _ => x
  | .seek t since => s.modThread t fun x => match x.wait with | .service _ => { x with wait := .next since } | _ => x
  | .replay t => s.modThread t fun x => { x with vreplay := x.vreplay.map fun v => { v with paused := none, untilTret := held } }
  | .record _ n => s.modRecAll n fun r => { r with paused := none, untilTret := held }
  | .copy n => s.modCopy n fun c => { c with paused := none, untilTret := held }

/-- A reply taken: its record is no longer outstanding. -/
def State.takeReply (s : State) (tok : Nat) : State := { s with fs := s.fs.filter fun f => f.token != tok }

/-- `FSREPLY_RETRY` (R289, R311): RESULT 0. -/
def execFsreplyRetry (tok : Nat) (s : State) : Out :=
  .next (match s.fsRec? tok with
    | some f => (s.takeReply tok).unpause f.who false
    | none => s)

/-- Trap 0x01 of a thread whose own access found the page absent (R310): TPC names the trapping bundle. For the append of a task that
the thread obtained after a `join`, that is the bundle of the `join`, which its `tret` issues again, and so decrements again: which bundle
traps there R36 and R335 leave open (DESIGN CHOICE, log entry 61). -/
def State.serviceTrap (s : State) (t : Tid) (va : Word) : State :=
  match s.thread? t with
  | some x =>
    match x.wait with
    | .service _ =>
      let f := (s.focus t)
      let r := ({ f with cur := { f.cur with wait := .running } } : State).takeTrap 1 0 va x.pc
      ({ r with aborted := false } : State).focus s.cur.id
    | _ => s
  | none => s

/-- `FSREPLY_TRAP` (R311, R337, R339): RESULT 1. -/
def execFsreplyTrap (tok : Nat) (s : State) : Out :=
  .next (match s.fsRec? tok with
    | some f =>
      let s := s.takeReply tok
      match f.who with
      | .thread t => s.serviceTrap t f.va
      | .seek t _ => s.serviceTrap t f.va
      | w => (s.unpause w true).modThread f.tid fun x => { x with traps := ⟨1, f.va, s.cycle⟩ :: x.traps }
    | none => s)

/-- The bundle that issued what waits for a reply (R336). -/
def State.servicePc (s : State) (f : FsRec) : Word :=
  let pc := ((s.thread? f.tid).map (·.pc)).getD 0
  match f.who with
  | .thread _ => pc
  | .seek _ _ => pc
  | .replay _ => ((s.thread? f.tid).bind fun t => t.vreplay.map (·.fpc)).getD pc
  | .record _ n => ((((s.cores.flatMap (·.mq)) ++ s.teams.flatMap (·.savedMq)).find? fun r => r.id == n).map (·.fpc)).getD pc
  | .copy n => ((s.copies.find? fun c => c.id == n).map (·.fpc)).getD pc

/-- `FSREPLY_END` (R311): RESULT 2: the grid ends with STATUS HOSTEND. -/
def execFsreplyEnd (tok : Nat) (s : State) : Out :=
  .next (match s.fsRec? tok with
    | some f =>
      let pc := s.servicePc f
      let s := (s.takeReply tok).recordFault f.tid.grid ⟨s.cycle, true, f.tid.team, f.tid.thread, 4, 0, 0, pc, 0⟩
      s.modThread f.tid fun x => { x with wait := .faulted }
    | none => s)

/-! ### Bank changes (R65, R357) -/

/-- Keys of the megabytes [lo, hi) of a bank's carve-out. -/
def inMegabytes (b lo hi k : Nat) : Bool := decide (carveKey b (lo * 2 ^ 20) ≤ k) && decide (k < carveKey b (hi * 2 ^ 20))

/-- A bank whose change is done: CUR. -/
def Bank.changed (b : Bank) (w : Nat) : Bank := { b with cur := w, withdrawn := b.withdrawn.filter fun p => !decide (p.1 < w) }

/-- A bank's change at its end: the value that waited starts the next change. -/
def Bank.changeEnd (b : Bank) (w : Nat) : Bank :=
  let x := { b.changed w with busy := none, waiting := none }
  match b.waiting with
  | some v => x.write (BitVec.ofNat 64 v)
  | none => x

/-- Has an access that a growing change held at the bank still to be performed (R65, R357)? -/
def State.heldStill (s : State) (b w : Nat) : Bool :=
  s.fabric.any fun r => r.held && !r.parked && r.pieces.any fun p => !p.done && inMegabytes b 0 w p.key

/-- `BANKPART_CHANGE_END` (R65): new megabytes read zeros and full, so that what had been parked there is served (R31); withdrawn ones are
discarded. Requests parked on a word of a withdrawn megabyte stay parked: the spec does not give their fate (DESIGN CHOICE, log entry 43).
Which lines stand in the ways that a growing change takes from the cache is not architected: the model takes none of which a core holds a
copy (DESIGN CHOICE, log entry 60). Before a value that waited starts the next change, what the growth has held is performed (R357): the
step comes again. -/
def execBankpartChangeEnd (b : Nat) (s : State) : Out :=
  let x := s.bank b
  .next (match x.busy with
    | some w =>
      let lo := min x.cur w
      let hi := max x.cur w
      let t := ({ s with mem := Memory.keep (fun k => !inMegabytes b lo hi k) s.mem
                         empty := s.empty.filter fun n => !inMegabytes b lo hi (n * 8)
                         poison := s.poison.filter fun n => !inMegabytes b lo hi (placeWord n * 8)
                         soft := s.soft.filter fun n => !inMegabytes b lo hi (placeWord n * 8) } : State).setBank
        (if x.waiting.isSome && s.heldStill b w then x.changed w else x.changeEnd w)
      if x.cur < w then t.serveParked (inMegabytes b x.cur w) else t
    | none => s)

end Sys2Proof.Machine
end

