-- ==== Sys2Proof/Machine/Debug.lean ====
section
/-! DEFINITION. The debug modules (R269, R273, R292): halting and resuming a cluster, and the debugger's accesses. -/

namespace Sys2Proof.Machine

/-! ### Halting and resuming -/

/-- `DEBUG_HALT` (R273, R292): the host writes HALT. -/
def execDebugHalt (cl : Nat) (s : State) : Out := .next (s.haltCluster cl 1 0)

/-- Has a grid a team in a cluster? -/
def State.gridIn (s : State) (cl g : Nat) : Bool :=
  s.teams.any fun t => t.grid == g && match t.core with | some c => clusterOf c == cl | none => false

/-- `DEBUG_RESUME` (R292): every halted core goes on; a window of which a grid was halted in part does not judge it (R323). -/
def execDebugResume (cl : Nat) (s : State) : Out :=
  let c := s.cluster cl
  .next (if c.halted then
      ({ s with grids := s.grids.map fun g => if s.gridIn cl g.num then { g with placedSince := s.cycle } else g } : State).setCluster
        { c with halted := false, why := 0, who := 0 }
    else s)

/-! ### Items (R292) -/

/-- What `DSEL` selects: the core, the slot, the item, the index within it. -/
structure Selection where
  core : Nat
  slot : Nat
  item : Nat
  index : Nat
  deriving DecidableEq, Repr

/-- The selection of a cluster. -/
def Cluster.selection (c : Cluster) : Selection :=
  ⟨coreAt c.num (bits c.dsel 2 0), bits c.dsel 5 3, bits c.dsel 31 16, bits c.dsel 63 40⟩

/-- The numbers of R118. -/
def sysregAssigned (m : Nat) : Bool :=
  [0x000, 0x001, 0x002, 0x003, 0x004, 0x005, 0x006, 0x008, 0x009, 0x010, 0x011, 0x012, 0x013, 0x020, 0x021, 0x040, 0x041, 0x0F0].contains m ||
  (decide (0x030 ≤ m) && decide (m ≤ 0x03F))

/-- A 64-bit unit of a row. -/
def rowUnit (r : Row) (u : Nat) : Word := BitVec.ofNat 64 (elemAt r 8 u)

/-- The system register of a number as a thread reads it, if it may read it (R118, R241). -/
def State.debugSys (s : State) (t : Thread) (m : Nat) : Option Word :=
  if !sysregAssigned m || (m == 0x0F0 && !(s.gridD t.id.grid).desc.flag 9) then none else some ((s.focus t.id).sysreg m)

/-- Unit `u` of tile `n` of a thread's team. -/
def State.debugTile (s : State) (t : Thread) (n u : Nat) : Option Word :=
  match s.tileOf? t.id n with
  | some x => if u < 2048 then some (rowUnit (x.row (u / 32)) (u % 32)) else none
  | none => none

/-- The state word of tile `n`. -/
def State.debugTileState (s : State) (t : Thread) (n : Nat) : Option Word :=
  (s.tileOf? t.id n).map fun x => BitVec.ofNat 64 (x.type.toNat + bit x.valid 2 + bit x.ovf 3)

/-- Unit `u` of the TCM share of a thread's team. -/
def State.debugTcm (s : State) (t : Thread) (u : Nat) : Option Word :=
  if 8 * u < (s.teamD t.id.grid t.id.team).tcm then some (s.load (s.mapKey (tcmKey t.id.grid t.id.team (8 * u))) 8) else none

/-- The selected 8 bytes of the thread in the slot; none where the item or the index does not exist. -/
def State.debugItem (s : State) (t : Thread) (item idx : Nat) : Option Word :=
  if item < 0x10 then (if idx = 0 then some (t.reg (BitVec.ofNat 4 item)) else none)
  else if item = 0x10 then (if idx = 0 then some t.pc else none)
  else if 0x100 ≤ item ∧ item < 0x200 then (if idx = 0 then s.debugSys t (item - 0x100) else none)
  else if 0x200 ≤ item ∧ item < 0x208 then (t.freg (BitVec.ofNat 3 (item - 0x200))).image[idx]?
  else if 0x300 ≤ item ∧ item < 0x310 then s.debugTile t (item - 0x300) idx
  else if 0x310 ≤ item ∧ item < 0x320 then (if idx = 0 then s.debugTileState t (item - 0x310) else none)
  else if item = 0x400 then s.debugTcm t idx
  else none

/-- `DSTAT` after an access: DONE, SHADOW (which tells of the last read), ERR. -/
def dstatWord (shadow err : Bool) : Word := BitVec.ofNat 64 (1 + bit shadow 1 + bit err 2)

/-- `DDATA_READ` (R269, R292): from the saddlebag of a core that is shadowed-off. -/
def execDdataRead (cl : Nat) (s : State) : Out :=
  let c := s.cluster cl
  let x := c.selection
  .next (match (s.inSlot x.core x.slot).bind fun t => s.debugItem t x.item x.index with
    | some v => s.setCluster { c with ddata := v, dstat := dstatWord ((s.core x.core).power == .shadowedOff) false }
    | none => s.setCluster { c with dstat := dstatWord false true })

/-! ### Writes (R292) -/

/-- A function register with a coefficient replaced. -/
def FReg.setCoef (f : FReg) (j : Nat) (v : Word) : FReg := { f with coef := f.coef.set j v }

/-- A tile with a unit replaced: its checksum becomes stale (R173). -/
def Tile.setUnit (t : Tile) (u : Nat) (v : Word) : Tile :=
  let r := t.row (u / 32)
  let old := elemAt r 8 (u % 32)
  t.setRow (u / 32) (BitVec.ofNat 2048 (r.toNat - old * 2 ^ (64 * (u % 32)) + v.toNat * 2 ^ (64 * (u % 32))))

/-- A write to a selected item; none where R292 refuses it. -/
def State.debugWrite (s : State) (t : Thread) (item idx : Nat) (v : Word) : Option State :=
  if 1 ≤ item ∧ item < 0x10 then
    (if idx = 0 then some ((s.modThread t.id fun x => x.setReg (BitVec.ofNat 4 item) v).clearError (regErr t.id item)) else none)
  else if item = 0x10 then (if idx = 0 ∧ v.toNat % 8 = 0 then some (s.modThread t.id fun x => { x with pc := v, half := none }) else none)
  else if item = 0x108 then (if idx = 0 then some (s.modThread t.id fun x => x.writeSys 0x008 v) else none)
  else if 0x200 ≤ item ∧ item < 0x208 then
    (let n : FRegN := BitVec.ofNat 3 (item - 0x200)
     if 4 ≤ idx ∧ idx - 4 < (t.freg n).coef.length then some (s.modThread t.id fun x => x.setFreg n ((x.freg n).setCoef (idx - 4) v)) else none)
  else if 0x300 ≤ item ∧ item < 0x310 then
    match s.tileOf? t.id (item - 0x300) with
    | some x => if idx < 2048 then some (s.setTileOf t.id (item - 0x300) (x.setUnit idx v)) else none
    | none => none
  else if item = 0x400 then
    (let k := s.mapKey (tcmKey t.id.grid t.id.team (8 * idx))
     if 8 * idx < (s.teamD t.id.grid t.id.team).tcm then some ((s.store k 8 v.toNat).intoShadow k 8) else none)
  else none

/-- `DDATA_WRITE` (R292): only while the cluster is halted. -/
def execDdataWrite (cl : Nat) (v : Word) (s : State) : Out :=
  let c := s.cluster cl
  let x := c.selection
  .next (match (if c.halted then (s.inSlot x.core x.slot).bind fun t => s.debugWrite t x.item x.index v else none) with
    | some t => t.setCluster { c with dstat := dstatWord (c.dstat.getLsbD 1) false }
    | none => s.setCluster { c with dstat := dstatWord (c.dstat.getLsbD 1) true })

end Sys2Proof.Machine
end

