-- ==== Sys2Proof/Machine/Registers.lean ====
section
/-! DEFINITION. The host's side of the device registers (R285–R292, R295, R299, R322, R343): reads, writes without behaviour of
their own, the telemetry pointer, attestation, and boot (R297, R298). -/

namespace Sys2Proof.Machine

/-! ### Reads (R285) -/

/-- `STACKCFG` (R286). -/
def HostRegs.stackcfg (h : HostRegs) : Word := BitVec.ofNat 64 (h.nstacks % 16 + h.cap % 16 * 16)

/-- `FSQPTR` (R286). -/
def HostRegs.fsqptr (h : HostRegs) : Word := BitVec.ofNat 64 (h.fsqSize.toNat + h.fsqHead.toNat * 2 ^ 16 + h.fsqTail.toNat * 2 ^ 32)

/-- `TELPTR` (R343). -/
def HostRegs.telptr (h : HostRegs) : Word :=
  BitVec.ofNat 64 (h.telSize.toNat + h.telHead.toNat * 2 ^ 16 + h.telTail.toNat * 2 ^ 32 + h.telDrop.toNat * 2 ^ 48)

/-- `PKGMODE` (R290): PEND while the budget, or the rein table of a cluster, is not yet the one written. -/
def State.pkgmode (s : State) : Word :=
  let h := s.host
  let pend := h.budget != h.budgetInForce || (List.range 1024).any fun c => (s.cluster c).fast != h.fast
  BitVec.ofNat 64 (h.budget.toNat + bit h.fast 2 + bit pend 3)

/-- `ATTCTL` (R299). -/
def HostRegs.attctl (h : HostRegs) : Word := BitVec.ofNat 64 (bit h.attBusy 1 + bit h.attDone 2 + bit h.attErr 3)

/-- A global register (R286, R290, R291, R299, R322, R343); a write-only register reads as log entry 5 says. -/
def State.readGlobal (s : State) (o : Nat) : Word :=
  let h := s.host
  match o with
  | 0x000 => h.pkgnum.setWidth 64
  | 0x008 => h.stackcfg
  | 0x010 => h.fsqbase
  | 0x018 => h.fsqptr
  | 0x020 => Config.freeWord s.fresh
  | 0x028 => h.irqaddr
  | 0x030 => h.wdog.setWidth 64
  | 0x038 => h.telbase
  | 0x040 => h.telptr
  | 0x048 => s.pkgmode
  | 0x050 => h.attctl
  | 0x058 => h.attaddr
  | _ =>
    if 0x060 ≤ o ∧ o < 0x080 then h.attnonce.getD ((o - 0x060) / 8) 0
    else if 0x080 ≤ o ∧ o < 0x0C0 then (if o / 8 % 2 = 0 then h.cpba else h.cpbc).getD ((o - 0x080) / 16) 0
    else 0

/-- A register of a queue block (R288). -/
def Queue.readReg (x : Queue) (s : State) (o : Nat) : Word :=
  match o with
  | 0x00 => x.head
  | 0x08 => Config.freeWord s.fresh
  | 0x10 => x.seq
  | 0x18 => BitVec.ofNat 64 (bit x.en 0 + x.prio.toNat * 2 + bit x.sirq 4)
  | 0x20 => x.lat.setWidth 64
  | 0x28 => x.pt
  | 0x30 => x.inva
  | _ => BitVec.ofNat 64 (x.invl.toNat + bit x.invBusy 63)

/-- A register of a reach block (R295). -/
def Reach.readReg (r : Reach) (o : Nat) : Word :=
  match o with
  | 0x00 => r.rbase
  | 0x08 => r.rlen
  | 0x10 => r.rpc
  | 0x18 => BitVec.ofNat 64 (bit r.run 1 + r.status.toNat * 16)
  | _ => r.args.getD ((o - 0x20) / 8) 0

/-- A register of a debug block (R292). -/
def Cluster.readReg (c : Cluster) (o : Nat) : Word :=
  match o with
  | 0x00 => BitVec.ofNat 64 (c.arm.toNat + bit c.halted 10 + c.why.toNat * 2 ^ 11 + c.who.toNat * 2 ^ 14)
  | 0x08 => c.dsel
  | 0x10 => c.ddata
  | _ => c.dstat

/-- What a host read of an aligned offset returns (R285); that of `TELPTR` and of `DDATA` is a step besides. -/
def State.readDevice (s : State) (o : Nat) : Word :=
  if o % 8 ≠ 0 then 0
  else if o < 0x10000 then s.readGlobal o
  else if o < 0x10000 + 64 * 2048 then (s.queue ((o - 0x10000) / 64)).readReg s (o % 64)
  else if 0x40000 ≤ o ∧ o < 0x40000 + 64 * 8 then (if o % 64 < 0x40 then (s.reachOf ((o - 0x40000) / 64)).readReg (o % 64) else 0)
  else if 0x100000 ≤ o ∧ o < 0x100000 + 32 * 1024 then (s.cluster ((o - 0x100000) / 32)).readReg (o % 32)
  else 0

/-! ### Writes without behaviour of their own (R285) -/

/-- A field of a register kept from a written value. -/
def field (v : Word) (hi lo : Nat) : Word := BitVec.ofNat 64 (bits v hi lo * 2 ^ lo)

/-- A write of `CPBCk` (R291): HIT stays; clearing EN while HIT is 1 releases what it holds, and HIT clears. -/
def State.writeCpbc (s : State) (k : Nat) (v : Word) : State :=
  let h := s.host
  let old := h.cpbc.getD k 0
  let t : State := { s with host := { h with cpbc := h.cpbc.set k ((v &&& 0x707FF) ||| (old &&& 0x80000)) } }
  if bits v 16 16 = 0 ∧ bits old 19 19 = 1 then (t.letGo k).setHits else t

/-- A write of a global register (R286, R299, R322, R343). -/
def State.writeGlobal (s : State) (o : Nat) (v : Word) : State :=
  let h := s.host
  match o with
  | 0x010 => { s with host := { h with fsqbase := field v 52 5 } }
  | 0x028 => { s with host := { h with irqaddr := field v 52 2 } }
  | 0x030 => { s with host := { h with wdog := v.setWidth 7 } }
  | 0x038 => { s with host := { h with telbase := field v 52 5 } }
  | 0x040 => { s with host := { h with telSize := v.setWidth 12, telHead := v.extractLsb' 16 12 } }
  | 0x058 => { s with host := { h with attaddr := field v 52 3 } }
  | _ =>
    if 0x060 ≤ o ∧ o < 0x080 then { s with host := { h with attnonce := h.attnonce.set ((o - 0x060) / 8) v } }
    else if 0x080 ≤ o ∧ o < 0x0C0 then
      (if o / 8 % 2 = 0 then { s with host := { h with cpba := h.cpba.set ((o - 0x080) / 16) (field v 55 3) } }
       else s.writeCpbc ((o - 0x080) / 16) v)
    else s

/-- A write to a queue block (R288): `QHEAD` only while EN is 0. -/
def Queue.writeReg (x : Queue) (o : Nat) (v : Word) : Queue :=
  match o with
  | 0x00 => if x.en then x else { x with head := field v 52 8 }
  | 0x10 => { x with seq := field v 52 3 }
  | 0x28 => { x with pt := field v 52 16 }
  | 0x30 => { x with inva := field v 51 16 }
  | _ => x

/-- A write to a reach block (R295): window and start are ignored while a program runs. -/
def Reach.writeReg (r : Reach) (o : Nat) (v : Word) : Reach :=
  match o with
  | 0x00 => if r.run then r else { r with rbase := field v 35 8 }
  | 0x08 => if r.run then r else { r with rlen := field v 35 8 }
  | 0x10 => if r.run then r else { r with rpc := field v 35 3 }
  | 0x18 => r
  | _ => { r with args := r.args.set ((o - 0x20) / 8) v }

/-- A write to a debug block (R292): ARM and the selection. -/
def Cluster.writeReg (c : Cluster) (o : Nat) (v : Word) : Cluster :=
  match o with
  | 0x00 => { c with arm := v.setWidth 8 }
  | 0x08 => { c with dsel := v &&& 0xFFFFFF00FFFF003F }
  | _ => c

/-- `DEVICE_REGISTER_WRITE` (R285): fields without behaviour of their own; the others have steps of their own. -/
def execDeviceRegisterWrite (o : Nat) (v : Word) (s : State) : Out :=
  .next (if o % 8 ≠ 0 then s
    else if o < 0x10000 then s.writeGlobal o v
    else if o < 0x10000 + 64 * 2048 then s.setQueue ((s.queue ((o - 0x10000) / 64)).writeReg (o % 64) v)
    else if 0x40000 ≤ o ∧ o < 0x40000 + 64 * 8 then s.setReach ((s.reachOf ((o - 0x40000) / 64)).writeReg (o % 64) v)
    else if 0x100000 ≤ o ∧ o < 0x100000 + 32 * 1024 then s.setCluster ((s.cluster ((o - 0x100000) / 32)).writeReg (o % 32) v)
    else s)

/-- `TELPTR_READ` (R343): DROP clears when it is read. -/
def execTelptrRead (s : State) : Out := .next { s with host := { s.host with telDrop := 0 } }

/-! ### Attestation and boot (R297–R299) -/

/-- `ATTESTATION_REQUEST` (R299): the nonce and the address are taken as they stand. -/
def execAttestationRequest (s : State) : Out :=
  let h := s.host
  .next (if h.attBusy then s
    else { s with host := { h with attBusy := true, attDone := false, attErr := false, attTaken := (h.attaddr, h.attnonce) } })

/-- The bytes of a number, little-endian. -/
def bytesOf (v : Nat) : Nat → List Byte
  | 0 => []
  | n + 1 => BitVec.ofNat 8 v :: bytesOf (v / 256) n

/-- Bytes 0–183 of a report (R298); its numbers stand with their low bytes first (log entry 47). -/
def State.reportBody (s : State) : List Byte :=
  let h := s.host
  bytesOf (s.firmware.getD 0).toNat 48 ++ (h.attTaken.2.flatMap fun w => bytesOf w.toNat 8) ++
    bytesOf (h.pkgnum.toNat + h.stackcfg.toNat * 2 ^ 32) 8 ++ bytesOf (publicKey Config.identitySecret).toNat 96

/-- The signature of the identity key over bytes (R298). -/
def identitySign (l : List Byte) : BitVec 768 := ecdsaSign Config.identitySecret (Config.signNonce (sha384 l)) (sha384 l)

/-- `ATTESTATION_DONE` (R298, R299). -/
def execAttestationDone (s : State) : Out :=
  let h := s.host
  let a := h.attTaken.1.toNat
  .next (if !h.attBusy then s
    else if Config.hostWritable a then
      let body := s.reportBody
      let t := s.storeBytes a (body ++ bytesOf (identitySign body).toNat 96)
      ({ t with host := { h with attBusy := false, attDone := true } } : State).interrupt 6 0
    else { s with host := { h with attBusy := false, attErr := true } })

/-- Does the boot ROM accept an image (R297): its key has the fused digest, and its signature over the image's digest verifies? -/
def firmwareAccepted (image : List Byte) : Bool :=
  leNat (sha384 (bytesOf (Config.imageKey image).toNat 96)) == Config.fusedDigest.toNat &&
  ecdsaVerify (Config.imageKey image) (sha384 image) (Config.imageSignature image)

/-- `FIRMWARE_BOOT` (R297): the ROM accepts an image whose signature verifies. -/
def execFirmwareBoot (image : List Byte) (s : State) : Out :=
  .next (if firmwareAccepted image then { s with firmware := some (BitVec.ofNat 384 (leNat (sha384 image))), powered := true } else s)

end Sys2Proof.Machine
end

