-- ==== Sys2Proof/Machine/Nolend.lean ====
section
/-! DEFINITION. The Nolend base dies: the packet protocol (R293), and starting and stopping a reach program (R294, R295). -/

namespace Sys2Proof.Machine

/-! ### Stack addresses (R287) -/

/-- The bytes of one stack (R286). -/
def State.stackBytes (s : State) : Nat := [24, 36, 48, 64].getD s.host.cap 0 * 2 ^ 30

/-- The key of stack address `a` of stack `st` (R287). -/
def State.stackKey (s : State) (st a : Nat) : Nat :=
  s.host.pkgnum.toNat * 2 ^ 40 + 4096 * (a / 4096 * s.host.nstacks + st) + a % 4096

/-- Does the stack exist, with its link up and the bytes within it (R286, R355)? -/
def State.stackHas (s : State) (st a n : Nat) : Bool :=
  decide (st < s.host.nstacks) && decide (a + n ≤ s.stackBytes) && !s.linksDown.contains (256 * st)

/-! ### Responses (R293) -/

/-- A response: it takes the place of an earlier one with its TAG. -/
def State.respond (s : State) (r : Response) : State :=
  { s with nolend := (s.nolend.filter fun x => !(x.stack == r.stack && x.tag == r.tag)) ++ [r] }

/-- An answer with error status. -/
def State.respondError (s : State) (st tag : Nat) : State := s.respond ⟨st, tag % 256, true, [], []⟩

/-- Does an uncorrectable error stand in a DRAM block that `n` bytes from a key touch, under the base die's own code (R344, R355)? -/
def State.dramBad (s : State) (k n : Nat) : Bool := s.poison.any fun w => decide (w < 2 ^ 50) && unitTouches k n w

/-- Those blocks read by the base die: errors of one bit corrected (R344). -/
def State.correctDram (s : State) (k n : Nat) : State := s.correctAll (s.soft.filter fun w => decide (w < 2 ^ 50) && unitTouches k n w)

/-- A command on `n` bytes from a stack address, done by `f` with their key; what the stack does not hold, or an address that the
command's layout forbids, is answered with error status. -/
def State.command (s : State) (st adr tag n : Nat) (f : Nat → State) : State :=
  let a := 64 * adr
  if !s.stackHas st a n || a % n != 0 then s.respondError st tag else f (s.stackKey st a)

/-- `n` bytes returned; an uncorrectable error answers with error status (R355). -/
def State.readCommand (s : State) (st adr tag n : Nat) : State :=
  s.command st adr tag n fun k => (s.correctDram k n).respond ⟨st, tag % 256, s.dramBad k n, s.loadBytes k n, []⟩

/-- Whole words written from a key: full/empty bits stay, errors there clear (R66, R345). -/
def State.writeWords (s : State) (k v : Nat) : Nat → State
  | 0 => s
  | n + 1 => State.writeWords (s.putWord k (v % 2 ^ 64)) (k + 8) (v / 2 ^ 64) n

/-- `n` bytes written. -/
def State.writeCommand (s : State) (st adr tag n v : Nat) : State :=
  s.command st adr tag n fun k => (s.writeWords k v (n / 8)).respond ⟨st, tag % 256, false, [], []⟩

/-- `RD64` (R293). -/
def execRd64 (st adr tag : Nat) (s : State) : Out := .next (s.readCommand st adr tag 64)
/-- `RD256` (R293). -/
def execRd256 (st adr tag : Nat) (s : State) : Out := .next (s.readCommand st adr tag 256)
/-- `WR64` (R293). -/
def execWr64 (st adr tag : Nat) (data : BitVec 512) (s : State) : Out := .next (s.writeCommand st adr tag 64 data.toNat)
/-- `WR256` (R293). -/
def execWr256 (st adr tag : Nat) (data : BitVec 2048) (s : State) : Out := .next (s.writeCommand st adr tag 256 data.toNat)

/-- `FEOP` with SUB[3] = 0 (R293): the word and its full/empty bit. -/
def execFeopRead (st adr tag sub : Nat) (s : State) : Out :=
  .next (s.command st adr tag 64 fun k =>
    let w := k + 8 * (sub % 8)
    (s.correctDram w 8).respond ⟨st, tag % 256, s.dramBad w 8, s.loadBytes w 8, [s.isFull w]⟩)

/-- `FEOP` with SUB[3] = 1 (R293): the bit set to data bit 0; the word's waiters are served (R31). -/
def execFeopSet (st adr tag sub : Nat) (v : Bool) (s : State) : Out :=
  .next (s.command st adr tag 64 fun k =>
    let w := k + 8 * (sub % 8)
    ((s.setFull w v).serveList w s.fabric.length).respond ⟨st, tag % 256, false, [], []⟩)

/-- `METARD` (R293): the eight full/empty bits, then whether the block holds an uncorrectable error. -/
def execMetard (st adr tag : Nat) (s : State) : Out :=
  .next (s.command st adr tag 64 fun k =>
    s.respond ⟨st, tag % 256, false, [], ((List.range 8).map fun j => s.isFull (k + 8 * j)) ++ [s.dramBad k 64]⟩)

/-- `NOLEND_ILLEGAL_COMMAND` (R293): CMD 0 and 7 to 15. -/
def execNolendIllegalCommand (st tag cmd : Nat) (s : State) : Out :=
  .next (if cmd = 0 ∨ (7 ≤ cmd ∧ cmd < 16) then s.respondError st tag else s)

/-- A request to a base die with its 64-bit header (R293): CMD, TAG, SUB and ADDR, and the data of a write. -/
def State.packet (s : State) (st : Nat) (header : Word) (data : BitVec 2048) : Out :=
  let tag := bits header 11 4
  let sub := bits header 15 12
  let adr := bits header 45 16
  match bits header 3 0 with
  | 1 => execRd64 st adr tag s
  | 2 => execRd256 st adr tag s
  | 3 => execWr64 st adr tag (data.setWidth 512) s
  | 4 => execWr256 st adr tag data s
  | 5 => if sub < 8 then execFeopRead st adr tag sub s else execFeopSet st adr tag sub (data.getLsbD 0) s
  | 6 => execMetard st adr tag s
  | c => execNolendIllegalCommand st tag c s

/-! ### Reach programs (R294, R295) -/

/-- A register of a reach program: `s0` reads 0 (R108). -/
def Reach.reg (r : Reach) (n : Reg) : Word := if n = 0 then 0 else r.regs[n.toNat]'n.isLt

/-- A register of a reach program written. -/
def Reach.setReg (r : Reach) (n : Reg) (v : Word) : Reach := if n = 0 then r else { r with regs := r.regs.set n.toNat v n.isLt }

/-- Registers from `n` on written. -/
def Reach.setRegs (r : Reach) (n : Nat) : List Word → Reach
  | [] => r
  | v :: vs => Reach.setRegs (r.setReg (BitVec.ofNat 4 n) v) (n + 1) vs

/-- A program started: `s1`–`s4` from the arguments, all other registers 0. -/
def Reach.begin (r : Reach) : Reach :=
  ({ r with run := true, stopping := 0, regs := Vector.replicate 16 0, pc := r.rpc } : Reach).setRegs 1 r.args

/-- The lines of banks that hold the words of some keys written back and gone (R294): errors of one bit are corrected (R344), and an
uncorrectable one in a changed line goes with it to DRAM. -/
def State.bypassLines (s : State) (p : Nat → Bool) : State :=
  let mine := fun n => decide (2 ^ 110 ≤ n) && p (8 * placeWord n)
  let t := s.correctAll (s.soft.filter fun n => mine n && !inBankClean n)
  { t with soft := t.soft.filter fun n => !mine n,
           poison := (t.poison.filter fun n => !mine n) ++ (t.poison.filter fun n => mine n && !inBankClean n).map placeWord }

/-- `REACH_GO` (R295), for a stack that is populated (R1): the lines of the window leave the caches and the banks (R294). -/
def execReachGo (st : Nat) (s : State) : Out :=
  let r := s.reachOf st
  .next (if r.run ∨ s.host.nstacks ≤ st then s
    else
      let t := s.setReach r.begin
      ((t.readLines fun l => t.reachHeld (32 * l.num)).dropLines fun l => t.reachHeld (32 * l.num)).bypassLines t.reachHeld)

/-- `REACH_STOP` (R295): STATUS 5 at the next bundle boundary. -/
def execReachStop (st : Nat) (s : State) : Out :=
  let r := s.reachOf st
  .next (if r.run ∧ r.stopping = 0 then s.setReach { r with stopping := 5 } else s)

/-- `REACH_PROGRAM_STOP` (R295): RUN clears, the arguments take the final `s1`–`s4`, interrupt cause 5. What the program held goes on,
also on the wait lists (R294). -/
def execReachProgramStop (st : Nat) (s : State) : Out :=
  let r := s.reachOf st
  .next (if r.run ∧ r.stopping ≠ 0 then
      let t := (s.setReach { r with run := false, status := r.stopping, stopping := 0, args := [r.reg 1, r.reg 2, r.reg 3, r.reg 4] }).interrupt 5 st
      t.serveParked fun k => s.reachHeld k && !t.reachHeld k
    else s)

/-- The keys of `n` bytes of a program's access; none outside the window or the stack, or where the address has a view (R294, R295). -/
def State.reachKeys (s : State) (r : Reach) (ea : Word) (n : Nat) : Option (List Nat) :=
  let a := ea.toNat
  let lo := bits r.rbase 35 8 * 256
  if r.num < s.host.nstacks ∧ a + n ≤ s.stackBytes ∧ lo ≤ a ∧ a + n ≤ lo + bits r.rlen 35 8 * 256 then some ((List.range n).map fun j => s.stackKey r.num (a + j)) else none

/-- Bytes at keys, little-endian. -/
def State.gather (s : State) : List Nat → Nat
  | [] => 0
  | k :: r => (s.byte k).toNat + 256 * State.gather s r

/-- Bytes written at consecutive keys, little-endian; a write of a whole word clears an error there (R345). -/
def State.scatter (s : State) (v : Nat) (ks : List Nat) : State := s.storeBytes (ks.headD 0) (bytesOf v ks.length)

/-- A program that stops at its next boundary, with a STATUS of R295. -/
def Reach.halting (r : Reach) (status : BitVec 4) : Reach := { r with stopping := status }

/-- A load of a program: STATUS 3 or 4, or `f` with the bytes. -/
def State.reachLoad (s : State) (r : Reach) (ea : Word) (n : Nat) (f : Nat → Reach) : State × Reach :=
  if ea.toNat % n ≠ 0 then (s, r.halting 3)
  else
    match s.reachKeys r ea n with
    | none => (s, r.halting 3)
    | some ks => if ks.any fun k => s.poisoned k 1 then (s, r.halting 4) else (s.correctWords (ks.headD 0) n, f (s.gather ks))

/-- A store of a program; one of less than a word reads the word first (R345). -/
def State.reachStore (s : State) (r : Reach) (ea : Word) (n v : Nat) : State × Reach :=
  if ea.toNat % n ≠ 0 then (s, r.halting 3)
  else
    match s.reachKeys r ea n with
    | none => (s, r.halting 3)
    | some ks =>
      if ks.any fun k => s.stackLost k || (n < 8 && s.poisoned k 1) then (s, r.halting 4) else (s.scatter v ks, r)

end Sys2Proof.Machine
end

