-- ==== Sys2Proof/Machine/Power.lean ====
section
/-! DEFINITION. Power: which waits are over, idle cores, gating and waking (R267, R268, R349), the continuous cadence (R23), losses
of power (R350, R351), and the temperature (R353, R354). -/

namespace Sys2Proof.Machine

/-! ### Waits that are over (R30, R43) -/

/-- Has an ending thread no replay left that its result queue has room for (R184, R187)? R234 does not say whether the end waits for
them (DESIGN CHOICE, log entry 52). -/
def Thread.replaysOver (t : Thread) : Bool :=
  match t.vreplay with
  | some v => (v.entries[v.k]?).any fun e => decide (8 < t.resq.length + postsOf e.instr)
  | none => true

/-- Is the wait of a thread over? -/
def State.waitOver (s : State) (t : Thread) : Bool :=
  match t.wait with
  | .word n => (s.req? n).isNone && s.allPerformed t.id n true
  | .sleep v _ => decide (v ≤ s.obsOf t)
  | .next _ => (s.focus t.id).taskInReach
  | .again => true
  | .waitc l sn cn m => t.countersBelow l sn cn m
  | .vpop _ => !t.resq.isEmpty
  | .performed upto loads => s.allPerformed t.id upto loads && (loads || t.closed.isEmpty)
  | .publ .counters _ _ => t.cntC == 0 && t.cntM == 0 && decide (t.closed.length < 3)
  | .publ .release upto _ => s.allPerformed t.id upto false && t.closed.isEmpty
  | .publ .done _ _ => true
  | .pfenceTile => true
  | .pfenceKeep _ false => t.cntC == 0 && t.cntM == 0 && decide (t.closed.length < 3)
  | .pfenceKeep upto true => s.allPerformed t.id upto false && t.closed.isEmpty
  | .bankWrite n => match s.req? n with | some r => r.performed | none => true
  | .exiting upto => s.allPerformed t.id upto false && t.closed.isEmpty && t.replaysOver
  | .fence _ _ => !t.phaseFull
  | .released upto => t.closed.all fun c => decide (upto < c.upto)
  | .acquire upto => s.allPerformed t.id upto true
  | .migr _ => t.cntL == 0 && t.cntS == 0 && t.closed.isEmpty
  | _ => false

/-- Is a thread ready (R267): it runs and R8 does not hold it, its wait is over, or it waits where R267 names no wait? -/
def State.ready (s : State) (t : Thread) : Bool :=
  match t.wait with
  | .running => !(s.focus t.id).heldNow || !t.traps.isEmpty
  | .mregWrite => true
  | .bankWrite _ => true
  | .commit => true
  | _ => s.waitOver t

/-- The threads that stand on a core. -/
def State.coreThreads (s : State) (c : Nat) : List Thread :=
  s.threads.filter fun t => t.id.grid != 0 && t.core == c && t.wait != .ended

/-- Is a core idle (R267)? -/
def State.idle (s : State) (c : Nat) : Bool :=
  !((s.coreThreads c).any s.ready) && (s.core c).unit == .inactive && !s.copies.any fun y => y.core == c

/-! ### States and tolerances (R267, R268) -/

/-- The depth of a power state. -/
def powerDepth : PowerLevel → Nat
  | .run => 0
  | .nap => 1
  | .drowsy => 2
  | .shadowedOff => 3

/-- The wake latency of a state (R267). -/
def wakeTime : PowerLevel → Nat
  | .run => 0
  | .nap => 20
  | .drowsy => 2000
  | .shadowedOff => 24000

/-- The entry time of a state (R267). -/
def entryTime : PowerLevel → Nat
  | .run => 0
  | .nap => 1
  | .drowsy => 200
  | .shadowedOff => 14000

/-- The smallest tolerance among the grids on a core (R267); none without a team. -/
def State.tolerance (s : State) (c : Nat) : Option Nat :=
  ((s.teamsOn c).map fun t => (s.queue (s.gridD t.grid).queue).lat.toNat).min?

/-- The sensor of a column: 32 to a core layer (R353). -/
def State.sensor (s : State) (col : Nat) : Sensor := (s.sensors.find? (·.col == col)).getD ⟨col, 25, 0, false, 25, 0⟩

/-- The column of a core. -/
def columnOf (c : Nat) : Nat := 32 * (c / 512) + colOf c

/-- The thermal level of a core's column (R354). -/
def State.heat (s : State) (c : Nat) : Nat := (s.sensor (columnOf c)).level

/-- May a core be shadowed-off: its tower has spare slot pairs (R352)? -/
def State.mayShadow (s : State) (c : Nat) : Bool := s.spares.getD (towerOf c) 0 != 0

/-- Does every thread of a core sleep for at least a time (R268)? -/
def State.allSleep (s : State) (c n : Nat) : Bool :=
  (s.coreThreads c).all fun t => match t.wait with | .sleep v _ => decide (s.cycle.toNat + n ≤ v.toNat) | _ => false

/-- Is a reply or an acknowledgement held for a thread of a core that does not sleep (R349)? -/
def State.replyHeld (s : State) (c : Nat) : Bool :=
  s.fabric.any fun r => r.core == c && r.performed && !r.misrouted && !r.orphan &&
    match s.thread? r.tid with | some t => (match t.wait with | .sleep _ _ => false | _ => true) | none => false

/-- The state in which the thermal response (R354) or the host (R268) asks a core to be, whatever its idleness. -/
def State.asked (s : State) (c : Nat) : PowerLevel :=
  let want := if 3 ≤ s.heat c then PowerLevel.shadowedOff else ((s.gateReq.find? (·.1 == c)).map (·.2)).getD .run
  if want = .shadowedOff ∧ !s.mayShadow c then .drowsy else want

/-- Does a wake fall due on a core that is in a state or enters it (R268)? Not while the core is asked to be gated; where the tower has no
spare slot pair no core stays shadowed-off (R352). -/
def State.wakeDue (s : State) (c : Nat) (l : PowerLevel) : Bool :=
  (l == .shadowedOff && !s.mayShadow c) || s.asked c == .run &&
  ((s.coreThreads c).any (fun t => s.ready t ||
      match t.wait with
      | .sleep v _ => decide (v.toNat ≤ s.cycle.toNat + wakeTime l)
      | .migrating _ => true
      | _ => false) ||
    s.replyHeld c || match s.tolerance c with | some n => decide (n < wakeTime l) | none => false)

/-- May an idle core be placed in a state (R267, R268)? Not in one that it would be woken from at once. -/
def State.mayEnter (s : State) (c : Nat) (l : PowerLevel) : Bool :=
  (match s.tolerance c with | some n => decide (wakeTime l ≤ n) | none => true) &&
  (l != .shadowedOff || s.mayShadow c) && !s.wakeDue c l &&
  (decide (powerDepth l ≤ 1) || s.allSleep c (entryTime l + wakeTime l) ||
    decide ((s.core c).idleSince.toNat + 4 * (entryTime l + wakeTime l) ≤ s.cycle.toNat))

/-- The deepest state that an idle core may be placed in. -/
def State.deepest (s : State) (c : Nat) : PowerLevel :=
  if s.mayEnter c .shadowedOff then .shadowedOff else if s.mayEnter c .drowsy then .drowsy
  else if s.mayEnter c .nap then .nap else .run

/-- The state that the power manager puts a core in now: as it is asked, or because it is idle (R267). -/
def State.target (s : State) (c : Nat) : PowerLevel :=
  if s.asked c != .run then s.asked c
  else if s.idle c then s.deepest c else .run

/-- The host asks for a core to be gated, or no longer (R268). -/
def State.hostGate (s : State) (c : Nat) (l : PowerLevel) : State :=
  let rest := s.gateReq.filter fun p => p.1 != c
  { s with gateReq := if l = .run then rest else rest ++ [(c, l)] }

/-! ### Gating (R267, R268) -/

/-- An entry complete: a core that is shadowed-off has saved its state and keeps only its saddlebag (R87, R349). Without a spare slot pair
in its tower it stays in run (R352). -/
def State.enterState (s : State) (c : Nat) (l : PowerLevel) : State :=
  let r := if l = .shadowedOff ∧ s.mayShadow c then s.saveCore c else (l != .shadowedOff, s)
  let on := r.1 && (l != .shadowedOff || r.2.mayShadow c)
  let t := if on && l == .shadowedOff then r.2.dropLines fun x => x.core == c else r.2
  let k := t.core c
  if on then t.setCore { k with power := l, entering := none, icache := if l = .shadowedOff then [] else k.icache }
  else t.setCore { k with entering := none }

/-- `POWER_GATE` (R267, R268): an entry begins, or is complete. -/
def execPowerGate (c : Nat) (l : PowerLevel) (s : State) : Out :=
  let k := s.core c
  .next (if !s.powered then s
    else
      match k.entering with
      | some (m, since) =>
        if m = l ∧ since.toNat + entryTime l ≤ s.cycle.toNat ∧ (s.idle c ∨ s.asked c ≠ .run) then s.enterState c l else s
      | none =>
        if powerDepth k.power < powerDepth l ∧ k.waking.isNone ∧ l = s.target c then s.setCore { k with entering := some (l, s.cycle) } else s)

/-! ### Waking (R268, R349) -/

/-- The number that stands for a core's saddlebag in the list of uncorrectable errors (R345). -/
def saddleErr (c : Nat) : Nat := 2 ^ 62 + c

/-- The grids on a core ended because the slot read holds an uncorrectable error (R345). -/
def State.slotError (s : State) (c : Nat) : State :=
  if s.poison.contains (saddleErr c) then (s.teamsOn c).foldl (fun t x => t.faultGrid x.grid 1 0x1A 7 0) s else s

/-- The committed slot of a core read: an error of one bit corrected (R344), one that cannot be ends the core's grids (R345). -/
def State.readSlot (s : State) (c : Nat) : State := (s.correctPlace (saddleErr c) 7 c 0).slotError c

/-- A core back in run: what the slot that the commit word names holds is what its threads, held replies and deques have been
since (R349). -/
def State.backInRun (s : State) (c : Nat) : State :=
  let k := s.core c
  (if k.power = .shadowedOff then s.readSlot c else s).setCore { k with power := .run, waking := none, idleSince := s.cycle }

/-- `WAKE` (R268): an entry under way is abandoned, a wake begins, or its latency is over. -/
def execWake (c : Nat) (s : State) : Out :=
  let k := s.core c
  .next (match k.entering with
    | some (l, _) =>
      if s.wakeDue c l then
        s.setCore { k with entering := none, waking := if k.power = .run then none else some s.cycle, idleSince := s.cycle }
      else s
    | none =>
      if k.power = .run then s
      else
        match k.waking with
        | some since => if since.toNat + wakeTime k.power ≤ s.cycle.toNat then s.backInRun c else s
        | none => if s.wakeDue c k.power then s.setCore { k with waking := some s.cycle } else s)

/-- `CONTINUOUS_SHADOW_COPY` (R23, R350, R352): a core with a team of continuous cadence. -/
def execContinuousShadowCopy (c : Nat) (s : State) : Out :=
  .next (if s.powered && s.coreAwake c && s.mayShadow c && (s.teamsOn c).any fun t => (s.gridD t.grid).desc.flag 7 then (s.saveCore c).2
    else s)

/-! ### Time -/

/-- The sweeper's deadline (R208): words over 2,048 ticks old are swept by the end of the tick. -/
def State.sweepDue (s : State) : State :=
  s.grids.foldl (fun t g => if g.replayOn then t else t.sweepGrid g fun r => r.tick s.cycle != r.tick (s.cycle + 1)) s

/-- A core that is not idle starts its idle time anew (R268). -/
def State.markBusy (s : State) : State :=
  ((s.teams.filterMap (·.core)).filter fun c => !s.idle c).foldl (fun u c => u.setCore { u.core c with idleSince := u.cycle }) s

/-- The next cycle. -/
def State.tick (s : State) : State := (({ s.sweepDue with cycle := s.cycle + 1, issued := [] } : State)).markBusy

/-! ### Losses of power (R350, R351) -/

/-- Does a slot hold a team's state since its placement (R350)? -/
def Snapshot.has (x : Snapshot) (t : Team) : Bool :=
  decide (t.placedAt ≤ x.cycle) && x.teams.any fun y => y.grid == t.grid && y.lteam == t.lteam

/-- What a slot holds of some teams. -/
def Snapshot.only (x : Snapshot) (p : Team → Bool) : Snapshot :=
  let mine := fun id : Tid => x.teams.any fun y => p y && y.grid == id.grid && y.lteam == id.team
  { x with teams := x.teams.filter p, threads := x.threads.filter fun t => mine t.id, mq := x.mq.filter fun r => mine r.tid,
           pushes := x.pushes.filter fun p => mine p.tid }

/-- What the core's teams had sent and had not left the core at its loss is never performed (R350): requests from a number on that no home
has begun, the number being drawn, and what goes to the TCM of the core itself. -/
def State.neverLeft (s : State) (c : Nat) : State :=
  let d := s.draw
  let mine := fun r : Req => r.core == c && (s.teamD r.tid.grid r.tid.team).core == some c
  let own := fun p : Piece => match homeOf p.key with | .tcm g l => (s.teamD g l).core == some c | _ => false
  let stays := fun r : Req => decide (d.1 % (s.fresh + 1) ≤ r.id) && !(r.pieces.any (·.done)) && !r.parked
  { d.2 with fabric := (d.2.fabric.filter fun r => !(mine r && stays r)).map fun r =>
      if mine r then { r with pieces := r.pieces.map fun p => { p with done := p.done || own p } } else r }

/-- The teams of a core rolled back to a slot: KIND 4 for each (R350). -/
def State.rollBack (s : State) (c : Nat) (x : Snapshot) : State :=
  let ok := (s.teamsOn c).filter fun t => x.has t
  let s := s.restoreFrom c (x.only fun y => ok.any fun t => t.grid == y.grid && t.lteam == y.lteam)
  ok.foldl (fun u t => u.telemetry 4 0 c 0 t.grid) s

/-- `CORE_POWER_LOSS` (R350): the teams go on from the committed slot; one that it does not hold has nothing to go back to. They go on once
what had left the core is performed (`orphansLeft`). A thread of another team that runs on the core goes on: the spec does not give its
fate (DESIGN CHOICE, log entry 64). -/
def execCorePowerLoss (c : Nat) (s : State) : Out :=
  .next (if !s.powered then s
    else
      let s := (s.neverLeft c).readSlot c
      let x := (s.core c).committed
      let lost := (s.teamsOn c).filter fun t => match x with | some y => !y.has t | none => true
      let s := lost.foldl (fun u t => u.faultGrid t.grid 1 0x1D 1 0) s
      let s := match x with | some y => s.rollBack c y | none => { s with fabric := s.fabric.filter fun r => !(r.core == c && r.parked) }
      let s := s.dropLines fun l => l.core == c
      let k := s.core c
      s.setCore { k with power := .run, entering := none, waking := none, icache := [], idleSince := s.cycle,
                         unit := if x.isSome then k.unit else .inactive, mq := if x.isSome then k.mq else [] })

/-- `PACKAGE_POWER_LOSS` (R86, R351): what stays is the keep region, bytes and full/empty bits, with what of the stores named had reached
MRAM before the loss and where MRAM is worn. -/
def execPackagePowerLoss (durable : List Nat) (s : State) : Out :=
  let worn := s.remapAll (s.durableSet fun x => durable.contains x.id)
  let kept := worn.makeDurable fun x => durable.contains x.id && !worn.keepFails x.key
  let h := s.host
  .next { State.reset with
    mem := kept.keepDurable, empty := kept.keepEmpty, keepDurable := kept.keepDurable, keepEmpty := kept.keepEmpty,
    poison := s.poison.filter fun w => decide (w < 2 ^ 60) && isKeep (8 * w), soft := s.soft.filter fun w => decide (w < 2 ^ 60) && isKeep (8 * w),
    spares := kept.spares, keepSpares := kept.keepSpares, mramBad := kept.mramBad, powered := false,
    host := { HostRegs.reset with pkgnum := h.pkgnum, nstacks := h.nstacks, cap := h.cap },
    agenda := s.agenda, oracle := s.oracle, fresh := s.fresh }

/-! ### Temperature (R353, R354) -/

/-- The columns beside a column, and those above and below it (R353). -/
def neighbours (col : Nat) : List Nat :=
  let layer := col / 32
  let q := col % 32
  (if q = 0 then [] else [col - 1]) ++ (if q = 31 then [] else [col + 1]) ++
  (if layer % 4 = 0 then [] else [col - 32]) ++ (if layer % 4 = 3 then [] else [col + 32])

/-- The largest of some temperatures. -/
def maxInt : List Int → Option Int
  | [] => none
  | x :: r => some (r.foldl max x)

/-- Which rule of R353 a reading fails, `n` being the number of the sample. -/
def sensorFails (x : Sensor) (reading : Int) (same n : Nat) : Option Nat :=
  if reading < -40 ∨ 150 < reading then some 1
  else if 15 < (reading - Config.powerModel n).natAbs then some 2
  else if 64 ≤ same ∧ Config.powerMoved n ∧ reading = x.reading then some 3
  else none

/-- The temperature of a failed column (R353). -/
def State.failedTemp (s : State) (col n : Nat) : Int :=
  match maxInt (((neighbours col).map s.sensor).filterMap fun x => if x.failed then none else some x.temp) with
  | some t => t + 10
  | none => Config.powerModel n + 10

/-- The level of a column at a temperature (R354): entered at its threshold, left 5 °C below it. -/
def levelAt (cur : Nat) (t : Int) : Nat :=
  let on := fun (l : Nat) (thr : Int) => decide (thr ≤ t) || (decide (l ≤ cur) && decide (thr - 5 < t))
  if on 3 115 then 3 else if on 2 105 then 2 else if on 1 95 then 1 else 0

/-- The physical core number by which telemetry names a column: its core in row 0. -/
def columnCore (col : Nat) : Nat := col / 32 * 512 + col % 32

/-- `TEMPERATURE_SAMPLE` (R353, R354). -/
def execTemperatureSample (col : Nat) (reading : Int) (s : State) : Out :=
  let n := s.fresh
  let x := s.sensor col
  let same := if reading = x.reading then x.same + 1 else 0
  let bad := if x.failed then none else sensorFails x reading same n
  let failed := x.failed || bad.isSome
  let temp := if failed then s.failedTemp col n else reading
  let lvl := levelAt x.level temp
  let s : State := { s with fresh := n + 1, sensors := upsert Sensor.col ⟨col, reading, same, failed, temp, lvl⟩ s.sensors }
  let s := match bad with | some r => s.telemetry 7 0 (columnCore col) 0 r | none => s
  .next (if lvl = x.level then s else s.telemetry 8 lvl (columnCore col) 0 (BitVec.ofInt 64 temp).toNat)

end Sys2Proof.Machine
end

