-- ==== Sys2Proof/Machine/Background.lean ====
section
/-! DEFINITION. Background work (R208, R271, R272, R344, R345, R352), a failed vertical bus (R347, R348), and the links (R296, R355). -/

namespace Sys2Proof.Machine

/-! ### The sweeper (R208) -/

/-- The index that a copy reads next. -/
def State.indexAt (s : State) (c : Copy) : Nat :=
  match s.keyIn c.space (locOf c.indexAddr) with | some k => s.loadNat (s.mapKey k) 4 | none => 0

/-- What a copy reads next. -/
def State.copyReads (s : State) (c : Copy) : List (Word × Nat) :=
  if c.next < c.count then (c.source (s.indexAt c), c.unit) :: (if c.kind = 0 then [] else [(c.indexAddr, 4)]) else []

/-- What a record reads next: a row, or the blocks that an `mrot` will send. -/
def State.recReads (s : State) (r : MRec) : List (Word × Nat) :=
  if r.rows < r.m then
    if r.kind = 5 then [(r.rowAddr r.rows, rowBytes (s.tileElem r.tid r.tc) (viewOf (r.rowAddr r.rows)))]
    else if r.kind = 6 ∨ r.kind = 7 then [] else r.rowReads r.rows
  else if r.kind = 4 ∧ !r.multiplied then
    (r.rotWords.map (·.1)).flatMap r.blockReads
  else []

/-- What a record writes next beside the units of its rows: the status word of a drain. -/
def MRec.statusWrite (r : MRec) : List (Word × Nat) := if r.kind = 6 ∧ r.m ≤ r.rows then [(r.addr 4, 8)] else []

/-- `SWEEPER_NORMALISE` (R208): a word of an enabled region. A background access comes after the foreground accesses of its cycle (R272):
the step keeps it until then. -/
def execSweeperNormalise (g rg w : Nat) (s : State) : Out :=
  let x := s.gridD g
  let r := x.regionNo rg
  .next (if x.sweeps rg && decide (4 * w < r.size) && x.replay.apart.isNone then s.sweepWord g r w else s)

/-! ### Scrubs and wear (R271, R344, R345, R352) -/

/-- The grid to whose tile, register, share or partition a place of the list of errors belongs. -/
def State.ownerOf (s : State) (n : Nat) : Option Grid := s.grids.find? fun g => errorOf g.num n

/-- The storage kind of a place of the list of errors (R345). -/
def placeKind (n : Nat) : Nat :=
  if 2 ^ 110 ≤ n then 3 else if 2 ^ 100 ≤ n then 4 else if 2 ^ 99 ≤ n then 5 else if 2 ^ 90 ≤ n then 10 else if 2 ^ 80 ≤ n then 4 else if 2 ^ 62 ≤ n then 7 else if 2 ^ 61 ≤ n then 5 else if 2 ^ 60 ≤ n then 6 else storageKind (8 * n)

/-- Does R345 end the grid of a place in which scrub finds an uncorrectable error: a TCM share, a partition? -/
def scrubEnds (n : Nat) : Bool := placeKind n == 1 || placeKind n == 2

/-- The core whose matrix queue holds the record of a place. -/
def State.recCore (s : State) (n : Nat) : Option Nat := (s.cores.find? fun k => k.mq.any fun r => mqErr r.id == n).map (·.num)

/-- WHERE of a place. -/
def State.placeWhere (s : State) (n : Nat) : Nat :=
  if 2 ^ 110 ≤ n then s.whereOf (8 * placeWord n)
  else if 2 ^ 100 ≤ n then (n - 2 ^ 100) / 2 ^ 60
  else if 2 ^ 99 ≤ n then (s.recCore n).getD 0
  else if 2 ^ 90 ≤ n then 0
  else if 2 ^ 80 ≤ n then (n - 2 ^ 80) / 2 ^ 52
  else if 2 ^ 62 ≤ n then n - 2 ^ 62
  else if 2 ^ 61 ≤ n then (s.teamD ((n - 2 ^ 61) / 64 / 8 / 8192) ((n - 2 ^ 61) / 64 / 8 % 8192)).core.getD 0
  else if 2 ^ 60 ≤ n then (s.teamD ((n - 2 ^ 60) / 64 / 16 / 8192) ((n - 2 ^ 60) / 64 / 16 % 8192)).core.getD 0
  else s.whereOf (8 * n)

/-- ADDR of a place: an address or a register number. -/
def State.placeAddr (s : State) (n : Nat) : Nat :=
  if 2 ^ 110 ≤ n then s.addrOf (8 * placeWord n)
  else if 2 ^ 100 ≤ n then 8 * ((n - 2 ^ 100) % 2 ^ 60)
  else if 2 ^ 90 ≤ n then 0
  else if 2 ^ 80 ≤ n then 8 * ((n - 2 ^ 80) % 2 ^ 52)
  else if 2 ^ 62 ≤ n then 0 else if 2 ^ 60 ≤ n then n % 64 else s.addrOf (8 * n)

/-- Does an error stand in a clean line of a data cache (R345)? -/
def State.cleanLine (s : State) (n : Nat) : Bool :=
  decide (2 ^ 80 ≤ n) && decide (n < 2 ^ 90) &&
  s.lines.any fun l => l.core == (n - 2 ^ 80) / 2 ^ 52 && l.num == (n - 2 ^ 80) % 2 ^ 52 / 4 && !l.st.dirty

/-- A clean copy with an uncorrectable error recovered (R345): a line of a bank, or of an instruction cache, which is dropped. -/
def State.recoverCopy (s : State) (n : Nat) : State :=
  let t := if inInstrCache n then s.dropInstr ((n - 2 ^ 100) / 2 ^ 60) ((n - 2 ^ 100) % 2 ^ 60) else s
  t.recovered n (placeKind n) (s.placeWhere n) (s.placeAddr n)

/-- A word read by scrub: a single-bit error is corrected; one that cannot be corrected is reported, and ends a live grid whose
share or partition it is in (R345). -/
def State.scrub (s : State) (n : Nat) : State :=
  if decide (2 ^ 99 ≤ n) && decide (n < 2 ^ 100) && (s.recCore n).isNone then s.clearError n
  else if s.poison.contains n && s.cleanLine n then s.recoverLines (8 * ((n - 2 ^ 80) % 2 ^ 52))
  else if s.poison.contains n && (inBankClean n || inInstrCache n) then s.recoverCopy n
  else if s.poison.contains n then
    match s.ownerOf n with
    | some g =>
      if scrubEnds n then s.recordAt g.num (s.placeWhere n) ⟨s.cycle, false, 0, 0, 1, 0x1A, placeKind n, 0, BitVec.ofNat 64 (s.addrOf (8 * n))⟩
      else s.telemetry 2 (placeKind n) (s.placeWhere n) (s.placeAddr n) 0
    | none => s.telemetry 2 (placeKind n) (s.placeWhere n) (s.placeAddr n) 0
  else if s.soft.contains n then s.correct n (placeKind n) (s.placeWhere n) (s.placeAddr n)
  else s

/-- Is a place one that the SRAM patrol reads (R271, R344): not in MRAM or DRAM, not a message? -/
def patrolled (n : Nat) : Bool := placeKind n != 7 && placeKind n != 8 && placeKind n != 9 && placeKind n != 10

/-- `PATROL_SCRUB` (R271, R344): any word of SRAM, after the foreground accesses of its cycle (R272). -/
def execPatrolScrub (n : Nat) (s : State) : Out := .next (if patrolled n then s.scrub n else s)

/-- The patrol's rounds (R271): every 2^30 cycles it has read every word; those without an error stay as they are. -/
def State.patrolRound (s : State) : State :=
  if s.cycle.toNat % 2 ^ 30 = 2 ^ 30 - 1 then ((s.poison ++ s.soft).filter patrolled).foldl State.scrub s else s

/-- `MRAM_SCRUB` (R271, R344): the unit of a word of the keep region, or a saddlebag, whose grids end on an uncorrectable error (R345). -/
def execMramScrub (n : Nat) (s : State) : Out :=
  .next (if placeKind n = 8 then
      (match (codeWords n).find? s.poison.contains with | some w => s.scrub w | none => (codeWords n).foldl State.scrub s)
    else if placeKind n ≠ 7 then s
    else if s.poison.contains n then
      (if (s.teamsOn (n - 2 ^ 62)).isEmpty then s.telemetry 2 7 (n - 2 ^ 62) 0 0 else s.slotError (n - 2 ^ 62))
    else s.scrub n)

/-- `WEAR_LEVELLING` (R271, R352): a slot pair moves through the spare pool, which keeps its size; content stays (R272), and which pair
stands in which place of MRAM is not part of the model (log entry 46). A pair that fails verification is retired instead. -/
def execWearLevelling (c : Nat) (s : State) : Out :=
  .next (if s.mayShadow c && s.mramBad.contains c then s.retirePair (towerOf c) c else s)

/-- `CALIBRATION` (R271, R272): it changes time only. -/
def execCalibration (s : State) : Out := .next s

/-! ### A vertical bus (R347, R348) -/

/-- A bank with a quadrant retired: a carve-out too large for the live ways is cut from its top. -/
def Bank.retire (b : Bank) (q : Nat) : Bank :=
  let x := { b with retired := q :: b.retired }
  let top := x.liveWays - 2
  if x.cur ≤ top then { x with busy := x.busy.map (min top), waiting := x.waiting.map (min top) }
  else
    { x with cur := top, busy := x.busy.map (min top), waiting := x.waiting.map (min top),
             withdrawn := ((List.range (x.cur - top)).map fun i => (top + i, Withdrawal.cut)) ++
               x.withdrawn.filter fun p => !(decide (top ≤ p.1) && decide (p.1 < x.cur)) }

/-- `VERTICAL_BUS_FAILURE` (R347): lines are written back, carve-out megabytes moved or cut, the quadrant reported. -/
def execVerticalBusFailure (n q : Nat) (s : State) : Out :=
  let b := s.bank n
  .next (if 4 ≤ q ∨ b.retired.contains q then s
    else
      let x := b.retire q
      let gone := fun k => inMegabytes n x.cur b.cur k
      ({ s with mem := Memory.keep (fun k => !gone k) s.mem, empty := s.empty.filter fun w => !gone (8 * w),
                poison := s.poison.filter fun w => !gone (8 * w), soft := s.soft.filter fun w => !gone (8 * w) } : State).setBank x |>.telemetry 3 3 n 0
        (q + x.cur * 2 ^ 8 + (x.liveWays - x.cur) * 2 ^ 16))

/-! ### Links (R296, R355): link number kind + 256 · port, kind 0 Nolend, 1 UCIe, 2 span -/

/-- Flits replayed on a link since its last training. -/
def State.flits (s : State) (l : Nat) : Nat := countAt l s.linkErrors

/-- A link trained afresh. -/
def State.trained (s : State) (l : Nat) : State := { s with linkErrors := s.linkErrors.filter fun p => p.1 != l }

/-- `LINK_FLIT_ERROR` (R355): the flit is replayed. -/
def execLinkFlitError (l : Nat) (s : State) : Out :=
  .next (if s.linksDown.contains l then s else { s with linkErrors := bump l 1 s.linkErrors })

/-- `LINK_RETRAIN` (R355): a Nolend link only after 8 replays; KIND 9. -/
def execLinkRetrain (l : Nat) (s : State) : Out :=
  .next (if s.linksDown.contains l ∨ (l % 256 = 0 ∧ s.flits l < 8) then s else (s.trained l).telemetry 9 0 0 0 l)

/-- `LINK_DOWN` (R355): KIND 10; a Nolend link takes its stack along. -/
def execLinkDown (l : Nat) (s : State) : Out :=
  .next (if s.linksDown.contains l then s
    else ({ s.trained l with linksDown := l :: s.linksDown } : State).telemetry 10 0 0 0 l)

/-- Is a piece homed in another package? -/
def State.remote (s : State) (p : Piece) : Bool :=
  match homeOf p.key with | .bank pkg _ => pkg != s.host.pkgnum.toNat | _ => false

/-- Does a location of a grid or a queue lie in another package? -/
def State.remoteAt (s : State) (sp : Space) (ea : Word) : Bool :=
  match s.keyIn sp (locOf ea) with | some k => s.remote (piece k 1 0) | none => false

/-- A request that found no route: cause 0x1B; whether it was performed is open (R355). -/
def State.reqTimeout (s : State) (r : Req) : State :=
  match r.pieces.findIdx? fun p => !p.done && s.remote p with
  | some k =>
    let p := r.pieces.getD k (piece 0 0 0)
    let d := s.draw
    let t := if d.1 % 2 = 0 && d.2.mayPerform r p && feMeets r.op (d.2.isFull (d.2.mapKey p.key)) then d.2.performNow r k p (d.2.mapKey p.key) else d.2
    t.failReq r p.key 0x1B 0 p.ea
  | none => s

/-- A unit of an engine that found no route; whether it was written is open. -/
def State.unitTimeout (s : State) (who : Tid) (p : Piece) : State :=
  let d := s.draw
  if d.1 % 2 = 0 then (match d.2.writeUnit who false p with | .done t => t | _ => d.2) else d.2

/-- The first unit in another package of those that some accesses touch. -/
def State.remoteUnit (s : State) (sp : Space) (l : List (Word × Nat)) : Option Word :=
  (l.flatMap fun x => (units8 (locOf x.1) x.2).map fun u => eaPlus x.1 u.1).find? (s.remoteAt sp)

/-- A copy one of whose accesses found no route. -/
def State.copyTimeout (s : State) (c : Copy) : State :=
  match c.writes.find? s.remote with
  | some p => (s.unitTimeout c.tid p).failCopy c 0x1B 0 p.ea
  | none =>
    match s.remoteUnit c.space (s.copyReads c).reverse with
    | some ea => s.failCopy c 0x1B 0 ea
    | none => s

/-- A matrix record one of whose accesses found no route. -/
def State.recTimeout (s : State) (c : Nat) (r : MRec) : State :=
  let sp := Space.grid r.tid.grid
  match r.writes.find? s.remote with
  | some p => (s.unitTimeout r.tid p).failRec c r 0x1B 0 p.ea
  | none =>
    match s.remoteUnit sp (s.recReads r), s.remoteUnit sp r.statusWrite, s.tileOf? r.tid r.tc with
    | some ea, _, _ => s.failRec c r 0x1B 0 ea
    | none, some ea, some t =>
      match s.keyIn sp (locOf ea) with
      | some k => (s.unitTimeout r.tid (pieceAt ea k 8 (BitVec.ofNat 64 (drainStatus t r.m)))).failRec c r 0x1B 0 ea
      | none => s
    | _, _, _ => s

/-- `SPAN_ROUTE_TIMEOUT` (R355): no route for a request, a copy, or the record at the head of a matrix queue, by its number. -/
def execSpanRouteTimeout (n : Nat) (s : State) : Out :=
  .next (if !s.spanDown then s
    else
      match s.req? n with
      | some r => s.reqTimeout r
      | none =>
        match s.copies.find? fun c => c.id == n with
        | some c => s.copyTimeout c
        | none =>
          match s.cores.find? fun k => (k.mq.head?.map (·.id)) == some n with
          | some k => (match k.mq.head? with | some r => s.recTimeout k.num r | none => s)
          | none => s)

end Sys2Proof.Machine
end

