-- ==== Sys2Proof/Machine/Floating.lean ====
section
/-! DEFINITION. Scalar floating point (R133–R142): operands and results placed as R133 and R141 state, rounded by the FRM of
`TSTAT` at issue, flags ORed into FFLAGS (R134). -/

namespace Sys2Proof.Machine

/-- The format of a precision (R133). -/
def Prec.fmt : Prec → Fmt
  | .s => .fp32
  | .d => .fp64

/-- The operand pattern of a register (R133): bits [31:0] with `.s`. -/
def fpBits (p : Prec) (v : Word) : Nat :=
  match p with
  | .s => v.toNat % 2 ^ 32
  | .d => v.toNat

/-- The exact value of an operand. -/
def State.fpArg (s : State) (p : Prec) (r : Reg) : FV := (Prec.fmt p).decode (fpBits p (s.reg r))

/-- The rounding mode in force (R94). -/
def State.frm (s : State) : RMode := RMode.ofFRM (s.cur.tstat.extractLsb' 5 3)

/-- Flags ORed into FFLAGS (R134). -/
def Thread.raiseFlags (t : Thread) (f : Flags) : Thread := { t with tstat := t.tstat ||| f.setWidth 64 }

/-- A result written with its flags; a write to `s0` still raises them (R133). -/
def State.fpWrite (s : State) (d : Reg) (r : Nat × Flags) : State :=
  { s with cur := (s.cur.setReg d (BitVec.ofNat 64 r.1)).raiseFlags r.2 }

/-- `fadd` of R135. -/
def execFadd (p : Prec) (d a b : Reg) (s : State) : Out :=
  .next (s.fpWrite d ((Prec.fmt p).addOp s.frm (s.fpArg p a) (s.fpArg p b)))

/-- `fsub` of R135: the exact difference. -/
def execFsub (p : Prec) (d a b : Reg) (s : State) : Out :=
  .next (s.fpWrite d ((Prec.fmt p).addOp s.frm (s.fpArg p a) (s.fpArg p b).negate))

/-- `fmul` of R135. -/
def execFmul (p : Prec) (d a b : Reg) (s : State) : Out :=
  .next (s.fpWrite d ((Prec.fmt p).mulOp s.frm (s.fpArg p a) (s.fpArg p b)))

/-- `fdiv` of R135. -/
def execFdiv (p : Prec) (d a b : Reg) (s : State) : Out :=
  .next (s.fpWrite d ((Prec.fmt p).divOp s.frm (s.fpArg p a) (s.fpArg p b)))

/-- `fsqrt` of R135. -/
def execFsqrt (p : Prec) (d a : Reg) (s : State) : Out :=
  .next (s.fpWrite d ((Prec.fmt p).sqrtOp s.frm (s.fpArg p a)))

/-- `ffma` of R136, a long instruction. -/
def execFfma (p : Prec) (d a b c : Reg) (s : State) : Out :=
  .next (s.fpWrite d ((Prec.fmt p).fmaOp s.frm (s.fpArg p a) (s.fpArg p b) (s.fpArg p c))).advance

/-- `fmin` of R137. -/
def execFmin (p : Prec) (d a b : Reg) (s : State) : Out :=
  .next (s.setReg d (BitVec.ofNat 64 ((Prec.fmt p).minOp (fpBits p (s.reg a)) (fpBits p (s.reg b)))))

/-- `fmax` of R137. -/
def execFmax (p : Prec) (d a b : Reg) (s : State) : Out :=
  .next (s.setReg d (BitVec.ofNat 64 ((Prec.fmt p).maxOp (fpBits p (s.reg a)) (fpBits p (s.reg b)))))

/-- `fcmp` of R138: 1 or 0 in all 64 bits. -/
def execFcmp (p : Prec) (cc : FCond) (d a b : Reg) (s : State) : Out :=
  let r := Fmt.cmpOp cc (s.fpArg p a) (s.fpArg p b)
  .next (s.fpWrite d (if r.1 then 1 else 0, r.2))

/-- `fcvt` of R141 and R142, with the type codes of R114. -/
def execFcvt (t st : BitVec 4) (d a : Reg) (s : State) : Out :=
  let r := cvtOp s.frm t.toNat st.toNat (s.reg a)
  .next { s with cur := (s.cur.setReg d r.1).raiseFlags r.2 }

/-- `fclass` of R139. -/
def execFclass (p : Prec) (d a : Reg) (s : State) : Out :=
  .next (s.setReg d (BitVec.ofNat 64 ((Prec.fmt p).classOp (fpBits p (s.reg a)))))

/-- The sign of R140: b's for `.j`, its inverse for `.n`, the exclusive-or for `.x`. -/
def fsgnSign (k : BitVec 2) (a b : Bool) : Bool := if k = 0 then b else if k = 1 then !b else a != b

/-- `fsgn` of R140: every other bit is kept. -/
def fsgnOp (k : BitVec 2) (p : Prec) (a b : Word) : Word :=
  match p with
  | .s => (bif fsgnSign k (a.getLsbD 31) (b.getLsbD 31) then (a ||| 0x80000000) else (a &&& 0x7FFFFFFF)) &&& 0xFFFFFFFF
  | .d => bif fsgnSign k (a.getLsbD 63) (b.getLsbD 63) then (a ||| 0x8000000000000000) else (a &&& 0x7FFFFFFFFFFFFFFF)

/-- `fsgn` of R140. -/
def execFsgn (k : BitVec 2) (p : Prec) (d a b : Reg) (s : State) : Out := .next (s.setReg d (fsgnOp k p (s.reg a) (s.reg b)))

end Sys2Proof.Machine
end

