-- ==== Sys2Proof/Machine/Integer.lean ====
section
/-! DEFINITION. Integer arithmetic and logic, select and immediates (R128–R132, R251). An arithmetic-slot instruction does not
move the PC: its bundle does (log entry 6). -/

namespace Sys2Proof.Machine

/-- Leading zeros of the low `n` bits. -/
def clzBits (x : Word) : Nat → Nat
  | 0 => 0
  | n + 1 => if x.getLsbD n then 0 else 1 + clzBits x n

/-- Trailing zeros from bit `i` on, over `n` bits. -/
def ctzBits (x : Word) (i : Nat) : Nat → Nat
  | 0 => 0
  | n + 1 => if x.getLsbD i then 0 else 1 + ctzBits x (i + 1) n

/-- One bits among the low `n` bits. -/
def popBits (x : Word) : Nat → Nat
  | 0 => 0
  | n + 1 => (if x.getLsbD n then 1 else 0) + popBits x n

/-- Byte j of the result is byte 7 − j (R128). -/
def byteSwap (x : Word) : Word :=
  (x.extractLsb' 0 8 ++ x.extractLsb' 8 8 ++ x.extractLsb' 16 8 ++ x.extractLsb' 24 8 ++ x.extractLsb' 32 8
    ++ x.extractLsb' 40 8 ++ x.extractLsb' 48 8 ++ x.extractLsb' 56 8 : BitVec (8 + 8 + 8 + 8 + 8 + 8 + 8 + 8))

/-- 1 or 0. -/
def boolWord (b : Bool) : Word := if b then 1 else 0

/-- The signed quotient of R129. -/
def divS (a b : Word) : Word :=
  if b = 0 then BitVec.allOnes 64 else if a = BitVec.intMin 64 ∧ b = BitVec.allOnes 64 then a else BitVec.ofInt 64 (a.toInt.tdiv b.toInt)

/-- The signed remainder of R129. -/
def remS (a b : Word) : Word :=
  if b = 0 then a else if a = BitVec.intMin 64 ∧ b = BitVec.allOnes 64 then 0 else BitVec.ofInt 64 (a.toInt - a.toInt.tdiv b.toInt * b.toInt)

/-- The unsigned quotient of R129. -/
def divU (a b : Word) : Word := if b = 0 then BitVec.allOnes 64 else BitVec.ofNat 64 (a.toNat / b.toNat)

/-- The unsigned remainder of R129. -/
def remU (a b : Word) : Word := if b = 0 then a else BitVec.ofNat 64 (a.toNat - a.toNat / b.toNat * b.toNat)

/-- The clipped width w' of R130. -/
def clipWidth (o w : BitVec 7) : Nat := if o.toNat < 64 then min w.toNat (64 - o.toNat) else 0

/-- `bextu` of R130. -/
def bextuOp (a : Word) (o w : BitVec 7) : Word :=
  if clipWidth o w = 0 then 0 else BitVec.ofNat 64 (a.toNat / 2 ^ o.toNat % 2 ^ clipWidth o w)

/-- `bext` of R130: the sign from bit o + w' − 1. -/
def bextOp (a : Word) (o w : BitVec 7) : Word :=
  if clipWidth o w = 0 then 0 else ((a >>> o.toNat) <<< (64 - clipWidth o w)).sshiftRight (64 - clipWidth o w)

/-- `bins` of R130. -/
def binsOp (d a : Word) (o w : BitVec 7) : Word :=
  if clipWidth o w = 0 then d
  else
    let mask : Word := BitVec.ofNat 64 ((2 ^ clipWidth o w - 1) * 2 ^ o.toNat)
    (d &&& ~~~mask) ||| ((a <<< o.toNat) &&& mask)

/-- `add` of R128. -/
def execAdd (d a b : Reg) (s : State) : Out := .next (s.setReg d (s.reg a + s.reg b))

/-- `sub` of R128. -/
def execSub (d a b : Reg) (s : State) : Out := .next (s.setReg d (s.reg a - s.reg b))

/-- `mul` of R128: the low 64 bits. -/
def execMul (d a b : Reg) (s : State) : Out := .next (s.setReg d (s.reg a * s.reg b))

/-- `mulh` of R128: bits [127:64] of the signed product. -/
def execMulh (d a b : Reg) (s : State) : Out := .next (s.setReg d (BitVec.ofInt 64 ((s.reg a).toInt * (s.reg b).toInt / 2 ^ 64)))

/-- `mulhu` of R128: bits [127:64] of the unsigned product. -/
def execMulhu (d a b : Reg) (s : State) : Out := .next (s.setReg d (BitVec.ofNat 64 ((s.reg a).toNat * (s.reg b).toNat / 2 ^ 64)))

/-- `div` of R129. -/
def execDiv (d a b : Reg) (s : State) : Out := .next (s.setReg d (divS (s.reg a) (s.reg b)))

/-- `divu` of R129. -/
def execDivu (d a b : Reg) (s : State) : Out := .next (s.setReg d (divU (s.reg a) (s.reg b)))

/-- `rem` of R129. -/
def execRem (d a b : Reg) (s : State) : Out := .next (s.setReg d (remS (s.reg a) (s.reg b)))

/-- `remu` of R129. -/
def execRemu (d a b : Reg) (s : State) : Out := .next (s.setReg d (remU (s.reg a) (s.reg b)))

/-- `and` of R128. -/
def execAnd (d a b : Reg) (s : State) : Out := .next (s.setReg d (s.reg a &&& s.reg b))

/-- `or` of R128. -/
def execOr (d a b : Reg) (s : State) : Out := .next (s.setReg d (s.reg a ||| s.reg b))

/-- `xor` of R128. -/
def execXor (d a b : Reg) (s : State) : Out := .next (s.setReg d (s.reg a ^^^ s.reg b))

/-- `shl` of R128: by b[5:0]. -/
def execShl (d a b : Reg) (s : State) : Out := .next (s.setReg d (s.reg a <<< ((s.reg b).setWidth 6).toNat))

/-- `shr` of R128: by b[5:0]. -/
def execShr (d a b : Reg) (s : State) : Out := .next (s.setReg d (s.reg a >>> ((s.reg b).setWidth 6).toNat))

/-- `sra` of R128: by b[5:0]. -/
def execSra (d a b : Reg) (s : State) : Out := .next (s.setReg d ((s.reg a).sshiftRight ((s.reg b).setWidth 6).toNat))

/-- `slt` of R128. -/
def execSlt (d a b : Reg) (s : State) : Out := .next (s.setReg d (boolWord ((s.reg a).slt (s.reg b))))

/-- `sltu` of R128. -/
def execSltu (d a b : Reg) (s : State) : Out := .next (s.setReg d (boolWord ((s.reg a).ult (s.reg b))))

/-- `seq` of R128. -/
def execSeq (d a b : Reg) (s : State) : Out := .next (s.setReg d (boolWord (s.reg a == s.reg b)))

/-- `min` of R128, signed. -/
def execMin (d a b : Reg) (s : State) : Out := .next (s.setReg d (if (s.reg b).slt (s.reg a) then s.reg b else s.reg a))

/-- `max` of R128, signed. -/
def execMax (d a b : Reg) (s : State) : Out := .next (s.setReg d (if (s.reg a).slt (s.reg b) then s.reg b else s.reg a))

/-- `minu` of R128, unsigned. -/
def execMinu (d a b : Reg) (s : State) : Out := .next (s.setReg d (if (s.reg b).ult (s.reg a) then s.reg b else s.reg a))

/-- `maxu` of R128, unsigned. -/
def execMaxu (d a b : Reg) (s : State) : Out := .next (s.setReg d (if (s.reg a).ult (s.reg b) then s.reg b else s.reg a))

/-- `addi` of R128, arithmetic slot. -/
def execAddi (d a : Reg) (i : BitVec 14) (s : State) : Out := .next (s.setReg d (s.reg a + i.signExtend 64))

/-- `andi` of R128; the immediate is sign-extended. -/
def execAndi (d a : Reg) (i : BitVec 14) (s : State) : Out := .next (s.setReg d (s.reg a &&& i.signExtend 64))

/-- `ori` of R128. -/
def execOri (d a : Reg) (i : BitVec 14) (s : State) : Out := .next (s.setReg d (s.reg a ||| i.signExtend 64))

/-- `xori` of R128. -/
def execXori (d a : Reg) (i : BitVec 14) (s : State) : Out := .next (s.setReg d (s.reg a ^^^ i.signExtend 64))

/-- `slti` of R128. -/
def execSlti (d a : Reg) (i : BitVec 14) (s : State) : Out := .next (s.setReg d (boolWord ((s.reg a).slt (i.signExtend 64))))

/-- `shli` of R128. -/
def execShli (d a : Reg) (h : BitVec 6) (s : State) : Out := .next (s.setReg d (s.reg a <<< h.toNat))

/-- `shri` of R128. -/
def execShri (d a : Reg) (h : BitVec 6) (s : State) : Out := .next (s.setReg d (s.reg a >>> h.toNat))

/-- `srai` of R128. -/
def execSrai (d a : Reg) (h : BitVec 6) (s : State) : Out := .next (s.setReg d ((s.reg a).sshiftRight h.toNat))

/-- `clz` of R128. -/
def execClz (d a : Reg) (s : State) : Out := .next (s.setReg d (BitVec.ofNat 64 (clzBits (s.reg a) 64)))

/-- `ctz` of R128. -/
def execCtz (d a : Reg) (s : State) : Out := .next (s.setReg d (BitVec.ofNat 64 (ctzBits (s.reg a) 0 64)))

/-- `popc` of R128. -/
def execPopc (d a : Reg) (s : State) : Out := .next (s.setReg d (BitVec.ofNat 64 (popBits (s.reg a) 64)))

/-- `bswap` of R128. -/
def execBswap (d a : Reg) (s : State) : Out := .next (s.setReg d (byteSwap (s.reg a)))

/-- `bext` of R130. -/
def execBext (d a : Reg) (o w : BitVec 7) (s : State) : Out := .next (s.setReg d (bextOp (s.reg a) o w))

/-- `bextu` of R130. -/
def execBextu (d a : Reg) (o w : BitVec 7) (s : State) : Out := .next (s.setReg d (bextuOp (s.reg a) o w))

/-- `bins` of R130; it reads `sD`. -/
def execBins (d a : Reg) (o w : BitVec 7) (s : State) : Out := .next (s.setReg d (binsOp (s.reg d) (s.reg a) o w))

/-- The arithmetic-slot `nop` of R251. -/
def execNopArithmetic (s : State) : Out := .next s

/-- The control-slot `nop` of R251: only the PC moves. -/
def execNop (s : State) : Out := .next s.advance

/-- The control-slot `addi` of R128, with a 13-bit immediate. -/
def execAddiCm (d a : Reg) (i : BitVec 13) (s : State) : Out := .next (s.setReg d (s.reg a + i.signExtend 64)).advance

/-- `li` of R132. -/
def execLi (d : Reg) (imm : BitVec 51) (s : State) : Out := .next (s.setReg d (imm.signExtend 64)).advance

/-- `lih` of R132: bits [31:0] are kept. -/
def execLih (d : Reg) (imm : BitVec 32) (s : State) : Out :=
  .next (s.setReg d (imm ++ (s.reg d).setWidth 32 : BitVec (32 + 32))).advance

/-- `sel` of R131. -/
def execSel (d a b c : Reg) (s : State) : Out := .next (s.setReg d (if s.reg a != 0 then s.reg b else s.reg c)).advance

end Sys2Proof.Machine
end

