-- ==== Sys2Proof/Machine/Dispatch.lean ====
section
/-! DEFINITION. One arm for each row of the opcode table. -/

namespace Sys2Proof.Machine

/-- What an instruction, or a step of another agent, does. -/
def exec (i : Instr) (s : State) : Host.Outcome State Fault Refusal :=
  match i with
  | .nop => Sys2Proof.Machine.execNop s
  | .addiCm d a imm => Sys2Proof.Machine.execAddiCm d a imm s
  | .ldB d a imm => Sys2Proof.Machine.execLdB d a imm s
  | .ldBU d a imm => Sys2Proof.Machine.execLdBU d a imm s
  | .ldH d a imm => Sys2Proof.Machine.execLdH d a imm s
  | .ldHU d a imm => Sys2Proof.Machine.execLdHU d a imm s
  | .ldW d a imm => Sys2Proof.Machine.execLdW d a imm s
  | .ldWU d a imm => Sys2Proof.Machine.execLdWU d a imm s
  | .ldD d a imm => Sys2Proof.Machine.execLdD d a imm s
  | .ldQ a imm => Sys2Proof.Machine.execLdQ a imm s
  | .stB a imm b => Sys2Proof.Machine.execStB a imm b s
  | .stH a imm b => Sys2Proof.Machine.execStH a imm b s
  | .stW a imm b => Sys2Proof.Machine.execStW a imm b s
  | .stD a imm b => Sys2Proof.Machine.execStD a imm b s
  | .stQ a imm => Sys2Proof.Machine.execStQ a imm s
  | .ldf d a imm => Sys2Proof.Machine.execLdf d a imm s
  | .lde d a imm => Sys2Proof.Machine.execLde d a imm s
  | .stf a imm b => Sys2Proof.Machine.execStf a imm b s
  | .stw a imm b => Sys2Proof.Machine.execStw a imm b s
  | .feset v a imm => Sys2Proof.Machine.execFeset v a imm s
  | .festat d a imm => Sys2Proof.Machine.execFestat d a imm s
  | .aadd d a b => Sys2Proof.Machine.execAadd d a b s
  | .aaddf d a b => Sys2Proof.Machine.execAaddf d a b s
  | .aand d a b => Sys2Proof.Machine.execAand d a b s
  | .aor d a b => Sys2Proof.Machine.execAor d a b s
  | .axor d a b => Sys2Proof.Machine.execAxor d a b s
  | .amin d a b => Sys2Proof.Machine.execAmin d a b s
  | .amax d a b => Sys2Proof.Machine.execAmax d a b s
  | .aminu d a b => Sys2Proof.Machine.execAminu d a b s
  | .amaxu d a b => Sys2Proof.Machine.execAmaxu d a b s
  | .aswap d a b => Sys2Proof.Machine.execAswap d a b s
  | .acas d a b => Sys2Proof.Machine.execAcas d a b s
  | .fenceAcq sc => Sys2Proof.Machine.execFenceAcq sc s
  | .fenceRel sc => Sys2Proof.Machine.execFenceRel sc s
  | .fenceFull sc => Sys2Proof.Machine.execFenceFull sc s
  | .pfenceTile => Sys2Proof.Machine.execPfenceTile s
  | .pfenceKeep => Sys2Proof.Machine.execPfenceKeep s
  | .waitc l sn cn m => Sys2Proof.Machine.execWaitc l sn cn m s
  | .hint k a b => Sys2Proof.Machine.execHint k a b s
  | .sbind d a => Sys2Proof.Machine.execSbind d a s
  | .sfree d => Sys2Proof.Machine.execSfree d s
  | .sstat d a => Sys2Proof.Machine.execSstat d a s
  | .bEq a b o => Sys2Proof.Machine.execBEq a b o s
  | .bNe a b o => Sys2Proof.Machine.execBNe a b o s
  | .bLt a b o => Sys2Proof.Machine.execBLt a b o s
  | .bGe a b o => Sys2Proof.Machine.execBGe a b o s
  | .bLtu a b o => Sys2Proof.Machine.execBLtu a b o s
  | .bGeu a b o => Sys2Proof.Machine.execBGeu a b o s
  | .jal d o => Sys2Proof.Machine.execJal d o s
  | .jr d a imm => Sys2Proof.Machine.execJr d a imm s
  | .cpy d => Sys2Proof.Machine.execCpy d s
  | .cpyg d => Sys2Proof.Machine.execCpyg d s
  | .cpys d => Sys2Proof.Machine.execCpys d s
  | .publ a => Sys2Proof.Machine.execPubl a s
  | .sleep a => Sys2Proof.Machine.execSleep a s
  | .fork o => Sys2Proof.Machine.execFork o s
  | .join a => Sys2Proof.Machine.execJoin a s
  | .next => Sys2Proof.Machine.execNext s
  | .yield => Sys2Proof.Machine.execYield s
  | .exit => Sys2Proof.Machine.execExit s
  | .launch a => Sys2Proof.Machine.execLaunch a s
  | .migr a => Sys2Proof.Machine.execMigr a s
  | .prog => Sys2Proof.Machine.execProg s
  | .rdsr d n => Sys2Proof.Machine.execRdsr d n s
  | .wrsr n a => Sys2Proof.Machine.execWrsr n a s
  | .trap imm => Sys2Proof.Machine.execTrap imm s
  | .tret => Sys2Proof.Machine.execTret s
  | .brk imm => Sys2Proof.Machine.execBrk imm s
  | .halt => Sys2Proof.Machine.execHalt s
  | .nopArithmetic => Sys2Proof.Machine.execNopArithmetic s
  | .addi d a imm => Sys2Proof.Machine.execAddi d a imm s
  | .add d a b => Sys2Proof.Machine.execAdd d a b s
  | .sub d a b => Sys2Proof.Machine.execSub d a b s
  | .mul d a b => Sys2Proof.Machine.execMul d a b s
  | .mulh d a b => Sys2Proof.Machine.execMulh d a b s
  | .mulhu d a b => Sys2Proof.Machine.execMulhu d a b s
  | .div d a b => Sys2Proof.Machine.execDiv d a b s
  | .divu d a b => Sys2Proof.Machine.execDivu d a b s
  | .rem d a b => Sys2Proof.Machine.execRem d a b s
  | .remu d a b => Sys2Proof.Machine.execRemu d a b s
  | .and d a b => Sys2Proof.Machine.execAnd d a b s
  | .or d a b => Sys2Proof.Machine.execOr d a b s
  | .xor d a b => Sys2Proof.Machine.execXor d a b s
  | .andi d a imm => Sys2Proof.Machine.execAndi d a imm s
  | .ori d a imm => Sys2Proof.Machine.execOri d a imm s
  | .xori d a imm => Sys2Proof.Machine.execXori d a imm s
  | .shl d a b => Sys2Proof.Machine.execShl d a b s
  | .shr d a b => Sys2Proof.Machine.execShr d a b s
  | .sra d a b => Sys2Proof.Machine.execSra d a b s
  | .shli d a h => Sys2Proof.Machine.execShli d a h s
  | .shri d a h => Sys2Proof.Machine.execShri d a h s
  | .srai d a h => Sys2Proof.Machine.execSrai d a h s
  | .slt d a b => Sys2Proof.Machine.execSlt d a b s
  | .sltu d a b => Sys2Proof.Machine.execSltu d a b s
  | .slti d a imm => Sys2Proof.Machine.execSlti d a imm s
  | .seq d a b => Sys2Proof.Machine.execSeq d a b s
  | .min d a b => Sys2Proof.Machine.execMin d a b s
  | .max d a b => Sys2Proof.Machine.execMax d a b s
  | .minu d a b => Sys2Proof.Machine.execMinu d a b s
  | .maxu d a b => Sys2Proof.Machine.execMaxu d a b s
  | .clz d a => Sys2Proof.Machine.execClz d a s
  | .ctz d a => Sys2Proof.Machine.execCtz d a s
  | .popc d a => Sys2Proof.Machine.execPopc d a s
  | .bext d a o w => Sys2Proof.Machine.execBext d a o w s
  | .bextu d a o w => Sys2Proof.Machine.execBextu d a o w s
  | .bins d a o w => Sys2Proof.Machine.execBins d a o w s
  | .bswap d a => Sys2Proof.Machine.execBswap d a s
  | .fadd p d a b => Sys2Proof.Machine.execFadd p d a b s
  | .fsub p d a b => Sys2Proof.Machine.execFsub p d a b s
  | .fmul p d a b => Sys2Proof.Machine.execFmul p d a b s
  | .fdiv p d a b => Sys2Proof.Machine.execFdiv p d a b s
  | .fsqrt p d a => Sys2Proof.Machine.execFsqrt p d a s
  | .fmin p d a b => Sys2Proof.Machine.execFmin p d a b s
  | .fmax p d a b => Sys2Proof.Machine.execFmax p d a b s
  | .fcmp p cc d a b => Sys2Proof.Machine.execFcmp p cc d a b s
  | .fcvt t st d a => Sys2Proof.Machine.execFcvt t st d a s
  | .fclass p d a => Sys2Proof.Machine.execFclass p d a s
  | .fsgn k p d a b => Sys2Proof.Machine.execFsgn k p d a b s
  | .li d imm => Sys2Proof.Machine.execLi d imm s
  | .lih d imm => Sys2Proof.Machine.execLih d imm s
  | .sel d a b c => Sys2Proof.Machine.execSel d a b c s
  | .ffma p d a b c => Sys2Proof.Machine.execFfma p d a b c s
  | .tcfg t ty => Sys2Proof.Machine.execTcfg t ty s
  | .tzero t => Sys2Proof.Machine.execTzero t s
  | .vld rd a off => Sys2Proof.Machine.execVld rd a off s
  | .vst a off rb => Sys2Proof.Machine.execVst a off rb s
  | .vbc rd a => Sys2Proof.Machine.execVbc rd a s
  | .vadd rd ra rb => Sys2Proof.Machine.execVadd rd ra rb s
  | .vsub rd ra rb => Sys2Proof.Machine.execVsub rd ra rb s
  | .vmul rd ra rb => Sys2Proof.Machine.execVmul rd ra rb s
  | .vfma rd ra rb => Sys2Proof.Machine.execVfma rd ra rb s
  | .vmin rd ra rb => Sys2Proof.Machine.execVmin rd ra rb s
  | .vmax rd ra rb => Sys2Proof.Machine.execVmax rd ra rb s
  | .vabs rd ra => Sys2Proof.Machine.execVabs rd ra s
  | .vneg rd ra => Sys2Proof.Machine.execVneg rd ra s
  | .vcvt rd ra => Sys2Proof.Machine.execVcvt rd ra s
  | .vcmp cc rd ra rb => Sys2Proof.Machine.execVcmp cc rd ra rb s
  | .vsel rd ra rb => Sys2Proof.Machine.execVsel rd ra rb s
  | .vperm rd ra rb => Sys2Proof.Machine.execVperm rd ra rb s
  | .vred op ra => Sys2Proof.Machine.execVred op ra s
  | .vscale rd ra b => Sys2Proof.Machine.execVscale rd ra b s
  | .vloop n1 cnt => Sys2Proof.Machine.execVloop n1 cnt s
  | .vpop d => Sys2Proof.Machine.execVpop d s
  | .topk mn c rd rb ra k1 => Sys2Proof.Machine.execTopk mn c rd rb ra k1 s
  | .topkm mn c rd rb ra k1 => Sys2Proof.Machine.execTopkm mn c rd rb ra k1 s
  | .vsort ds rd rb ra => Sys2Proof.Machine.execVsort ds rd rb ra s
  | .mdepAdd a off b => Sys2Proof.Machine.execMdepAdd a off b s
  | .mdepMax a off b => Sys2Proof.Machine.execMdepMax a off b s
  | .msense d a b st => Sys2Proof.Machine.execMsense d a b st s
  | .mrd d a off => Sys2Proof.Machine.execMrd d a off s
  | .mclr a off => Sys2Proof.Machine.execMclr a off s
  | .mtick d rg => Sys2Proof.Machine.execMtick d rg s
  | .fldF fd a off => Sys2Proof.Machine.execFldF fd a off s
  | .fstF a off fb => Sys2Proof.Machine.execFstF a off fb s
  | .fset fd a j => Sys2Proof.Machine.execFset fd a j s
  | .fdom fd a b => Sys2Proof.Machine.execFdom fd a b s
  | .faddF fd fa fb => Sys2Proof.Machine.execFaddF fd fa fb s
  | .fsubF fd fa fb => Sys2Proof.Machine.execFsubF fd fa fb s
  | .fmulF fd fa fb => Sys2Proof.Machine.execFmulF fd fa fb s
  | .fscl fd fa b => Sys2Proof.Machine.execFscl fd fa b s
  | .fcomp fd fa fb => Sys2Proof.Machine.execFcomp fd fa fb s
  | .fint fd fa => Sys2Proof.Machine.execFint fd fa s
  | .fder fd fa => Sys2Proof.Machine.execFder fd fa s
  | .feval d fa b => Sys2Proof.Machine.execFeval d fa b s
  | .fevalV rd fa rb => Sys2Proof.Machine.execFevalV rd fa rb s
  | .fsamp fd rb n => Sys2Proof.Machine.execFsamp fd rb n s
  | .froot d fa b c => Sys2Proof.Machine.execFroot d fa b c s
  | .flen d fa => Sys2Proof.Machine.execFlen d fa s
  | .ftrunc fd fa n => Sys2Proof.Machine.execFtrunc fd fa n s
  | .performAtHome req k => Sys2Proof.Machine.execPerformAtHome req k s
  | .continuationReply req => Sys2Proof.Machine.execContinuationReply req s
  | .homeAcknowledge req => Sys2Proof.Machine.execHomeAcknowledge req s
  | .phaseComplete who => Sys2Proof.Machine.execPhaseComplete who s
  | .migrationArrive who => Sys2Proof.Machine.execMigrationArrive who s
  | .sleepWake who => Sys2Proof.Machine.execSleepWake who s
  | .vloopReplay who => Sys2Proof.Machine.execVloopReplay who s
  | .streamFetch who r => Sys2Proof.Machine.execStreamFetch who r s
  | .copyTransfer cp => Sys2Proof.Machine.execCopyTransfer cp s
  | .promiseCheck cp => Sys2Proof.Machine.execPromiseCheck cp s
  | .windowExchange who => Sys2Proof.Machine.execWindowExchange who s
  | .mma core => Sys2Proof.Machine.execMma core s
  | .mmaS core => Sys2Proof.Machine.execMmaS core s
  | .mmaSp core => Sys2Proof.Machine.execMmaSp core s
  | .mrot core => Sys2Proof.Machine.execMrot core s
  | .mrotSend core => Sys2Proof.Machine.execMrotSend core s
  | .mrotExchange grid team win => Sys2Proof.Machine.execMrotExchange grid team win s
  | .mfill core => Sys2Proof.Machine.execMfill core s
  | .mdrain core => Sys2Proof.Machine.execMdrain core s
  | .mzero core => Sys2Proof.Machine.execMzero core s
  | .reinAdmission cl => Sys2Proof.Machine.execReinAdmission cl s
  | .reinStepDown cl => Sys2Proof.Machine.execReinStepDown cl s
  | .reinTableChange cl => Sys2Proof.Machine.execReinTableChange cl s
  | .budgetChange => Sys2Proof.Machine.execBudgetChange s
  | .gridStart grid cores => Sys2Proof.Machine.execGridStart grid cores s
  | .nextParkEnd grid => Sys2Proof.Machine.execNextParkEnd grid s
  | .gridComplete grid => Sys2Proof.Machine.execGridComplete grid s
  | .preempt grid => Sys2Proof.Machine.execPreempt grid s
  | .preemptAbandon grid => Sys2Proof.Machine.execPreemptAbandon grid s
  | .resume grid cores => Sys2Proof.Machine.execResume grid cores s
  | .swapInstant => Sys2Proof.Machine.execSwapInstant s
  | .exchange p q => Sys2Proof.Machine.execExchange p q s
  | .messageForward req => Sys2Proof.Machine.execMessageForward req s
  | .forwardingWithdraw core => Sys2Proof.Machine.execForwardingWithdraw core s
  | .mregWriteApply grid => Sys2Proof.Machine.execMregWriteApply grid s
  | .bankpartChangeEnd bank => Sys2Proof.Machine.execBankpartChangeEnd bank s
  | .sweeperNormalise grid rg w => Sys2Proof.Machine.execSweeperNormalise grid rg w s
  | .patrolScrub key => Sys2Proof.Machine.execPatrolScrub key s
  | .mramScrub key => Sys2Proof.Machine.execMramScrub key s
  | .wearLevelling core => Sys2Proof.Machine.execWearLevelling core s
  | .calibration => Sys2Proof.Machine.execCalibration s
  | .inningsCommit grid => Sys2Proof.Machine.execInningsCommit grid s
  | .gridFaultEnd grid => Sys2Proof.Machine.execGridFaultEnd grid s
  | .watchdogWindowEnd => Sys2Proof.Machine.execWatchdogWindowEnd s
  | .qtailDoorbell q v => Sys2Proof.Machine.execQtailDoorbell q v s
  | .queueEnable q v => Sys2Proof.Machine.execQueueEnable q v s
  | .queueDisable q v => Sys2Proof.Machine.execQueueDisable q v s
  | .qlatWrite q v => Sys2Proof.Machine.execQlatWrite q v s
  | .invalidationCommand q v => Sys2Proof.Machine.execInvalidationCommand q v s
  | .invalidationComplete q => Sys2Proof.Machine.execInvalidationComplete q s
  | .launchEntry q => Sys2Proof.Machine.execLaunchEntry q s
  | .graphEntry q => Sys2Proof.Machine.execGraphEntry q s
  | .waitValueEntry q => Sys2Proof.Machine.execWaitValueEntry q s
  | .waitValuePoll q => Sys2Proof.Machine.execWaitValuePoll q s
  | .signalEntry q => Sys2Proof.Machine.execSignalEntry q s
  | .copyEntry q => Sys2Proof.Machine.execCopyEntry q s
  | .entryComplete q n => Sys2Proof.Machine.execEntryComplete q n s
  | .fsreplyRetry token => Sys2Proof.Machine.execFsreplyRetry token s
  | .fsreplyTrap token => Sys2Proof.Machine.execFsreplyTrap token s
  | .fsreplyEnd token => Sys2Proof.Machine.execFsreplyEnd token s
  | .cpbRelease k => Sys2Proof.Machine.execCpbRelease k s
  | .debugHalt cl => Sys2Proof.Machine.execDebugHalt cl s
  | .debugResume cl => Sys2Proof.Machine.execDebugResume cl s
  | .ddataRead cl => Sys2Proof.Machine.execDdataRead cl s
  | .ddataWrite cl v => Sys2Proof.Machine.execDdataWrite cl v s
  | .reachGo st => Sys2Proof.Machine.execReachGo st s
  | .reachStop st => Sys2Proof.Machine.execReachStop st s
  | .reachProgramStop st => Sys2Proof.Machine.execReachProgramStop st s
  | .rd64 st adr tag => Sys2Proof.Machine.execRd64 st adr tag s
  | .rd256 st adr tag => Sys2Proof.Machine.execRd256 st adr tag s
  | .wr64 st adr tag data => Sys2Proof.Machine.execWr64 st adr tag data s
  | .wr256 st adr tag data => Sys2Proof.Machine.execWr256 st adr tag data s
  | .feopRead st adr tag sub => Sys2Proof.Machine.execFeopRead st adr tag sub s
  | .feopSet st adr tag sub v => Sys2Proof.Machine.execFeopSet st adr tag sub v s
  | .metard st adr tag => Sys2Proof.Machine.execMetard st adr tag s
  | .nolendIllegalCommand st tag cmd => Sys2Proof.Machine.execNolendIllegalCommand st tag cmd s
  | .attestationRequest => Sys2Proof.Machine.execAttestationRequest s
  | .attestationDone => Sys2Proof.Machine.execAttestationDone s
  | .telptrRead => Sys2Proof.Machine.execTelptrRead s
  | .deviceRegisterWrite adr v => Sys2Proof.Machine.execDeviceRegisterWrite adr v s
  | .powerGate core lvl => Sys2Proof.Machine.execPowerGate core lvl s
  | .wake core => Sys2Proof.Machine.execWake core s
  | .continuousShadowCopy core => Sys2Proof.Machine.execContinuousShadowCopy core s
  | .corePowerLoss core => Sys2Proof.Machine.execCorePowerLoss core s
  | .packagePowerLoss durable => Sys2Proof.Machine.execPackagePowerLoss durable s
  | .firmwareBoot image => Sys2Proof.Machine.execFirmwareBoot image s
  | .temperatureSample col temp => Sys2Proof.Machine.execTemperatureSample col temp s
  | .verticalBusFailure bank quad => Sys2Proof.Machine.execVerticalBusFailure bank quad s
  | .linkFlitError link => Sys2Proof.Machine.execLinkFlitError link s
  | .linkRetrain link => Sys2Proof.Machine.execLinkRetrain link s
  | .linkDown link => Sys2Proof.Machine.execLinkDown link s
  | .spanRouteTimeout req => Sys2Proof.Machine.execSpanRouteTimeout req s
  | .illegalBundle sub bundle => Sys2Proof.Machine.execIllegalBundle sub bundle s
  | .fetchFault => Sys2Proof.Machine.execFetchFault s
  | .illegalRecord core => Sys2Proof.Machine.execIllegalRecord core s
  | .illegalKindEntry q => Sys2Proof.Machine.execIllegalKindEntry q s
  | .stepDownComplete core => Sys2Proof.Machine.execStepDownComplete core s
  | .pkgmodeWrite v => Sys2Proof.Machine.execPkgmodeWrite v s
  | .fsqptrWrite v => Sys2Proof.Machine.execFsqptrWrite v s

end Sys2Proof.Machine
end

