-- ==== Sys2Proof/Machine/Issue.lean ====
section
/-! DEFINITION. One cycle of a core (R7–R9, R29, R106, R107, R125, R145, R248): which waits are over, which slot issues, the fetch of
a bundle, and the effect of its slots together. -/

namespace Sys2Proof.Machine

/-! ### The instruction cache (R62) -/

/-- The instruction-cache line of a core for a location that leads to a key (R62): a line filled through another translation, or for
another grid's window, is none of it. -/
def Core.line (c : Core) (q loc key : Nat) : Option Word :=
  (c.icache.find? fun l => l.queue == q && l.loc == loc && l.key == key).map (·.bundle)

/-- A fetch through the instruction cache, which is not kept coherent with stores: a line that differs from memory may be used
or not (R62). It holds 4,096 lines of one bundle: the spec gives its 32 KiB (R17) and no size of a line (DESIGN CHOICE, log
entry 48). -/
def State.fetch (s : State) : Fetched × State :=
  let r := s.fetchAt
  match r.1 with
  | .bundle b key =>
    let q := s.myGrid.queue
    let loc := bits s.cur.pc 51 0
    let t := r.2.readInstr s.cur.core key
    let c := t.core s.cur.core
    let fill := fun u : State => u.correctWords key 8
    match c.line q loc key with
    | none => (.bundle b key, (fill t).setCore { c with icache := (⟨q, loc, key, b⟩ :: c.icache).take 4096 })
    | some old =>
      if old = b then (.bundle b key, t)
      else
        let d := t.draw
        if d.1 % 2 = 0 then (.bundle old key, d.2)
        else (.bundle b key, (fill d.2).setCore { c with
          icache := ⟨q, loc, key, b⟩ :: c.icache.filter fun l => !(l.queue == q && l.loc == loc && l.key == key) })
  | _ => r

/-! ### Holding a bundle (R8, R29, R124, R156) -/

/-- Would a counter of `OUTCNT` rise above 63 (R156)? -/
def wrapped (old new : Thread) : Bool :=
  decide (new.cntL < old.cntL) || decide (new.cntS < old.cntS) || decide (new.cntC < old.cntC) || decide (new.cntM < old.cntM)

/-! ### The effect of a bundle (R7, R106, R125) -/

/-- The bound registers that a bundle names as sources (R125); `fork` names none. -/
def popRegs (c a : Instr) : List Reg :=
  let rs := (match c with | .fork _ => [] | i => readsOf i) ++ readsOf a
  [4, 5, 6, 7].filter fun r => rs.contains r

/-- The pops of a bundle, one for each bound register (R125). -/
def State.pops (s : State) (rs : List Reg) : State := rs.foldl State.pop s

/-- The streams of a thread whose bundle had no effect: as they were, but for the elements that the bundle's own load has cut (R73). -/
def State.streamsBack (s : State) (before : Thread) : Vector (Option Stream) 4 :=
  match s.cur.wait with
  | .fetching n => (match s.fabric.find? fun r => r.id == n && r.dest == .sync with
    | some r => (s.cutStreams before r.pieces).streams
    | none => before.streams)
  | _ => before.streams

/-- A bundle that had no effect: what it popped is put back, and its flags are gone (R106). What it has read ahead is of no more use if it
trapped. -/
def State.undone (s : State) (before : Thread) : Out :=
  .next { s with cur := { s.cur with regs := before.regs, streams := s.streamsBack before, awaiting := before.awaiting,
                                     tstat := setBits before.tstat 9 9 (bits s.cur.tstat 9 9),
                                     got := if s.cur.hm = before.hm then s.cur.got else [] } }

/-- The arithmetic slot run on the state the bundle read: the value of its destination and the flags it raises (R7, R134). -/
def arithResult (a : Instr) (s : State) : Option (Reg × Word × Flags) :=
  match exec a { s with cur := { s.cur with tstat := s.cur.tstat &&& ~~~0x1F } } with
  | .next t => (writesOf a).head?.map fun d => (d, t.reg d, t.cur.tstat.setWidth 5)
  | _ => none

/-- The arithmetic result put after the control slot's (R7): it stands, also over a value still to come. -/
def State.mergeArith (s : State) (d : Reg) (v : Word) (f : Flags) : State :=
  let w := match s.cur.wait with | .vpop r => if r = d then Wait.vpop 0 else .vpop r | w => w
  { s with cur := { (s.cur.setReg d v).raiseFlags f with wait := w, awaiting := s.cur.awaiting.filter fun p => p.1 != d || d == 0 } }

/-- The arithmetic slot's effect merged. -/
def State.withArith (s : State) (a : Instr) (read : State) : State :=
  match arithResult a read with
  | some (d, v, f) => s.mergeArith d v f
  | none => s

/-- Does the control slot write a register now, or with a reply: not a task's values (R232), nor what a parked `vpop` will bring? -/
def ctrlWrites (c : Instr) (w : Wait) (r : Reg) : Bool :=
  match c, w with
  | .next, _ => false
  | .join _, _ => false
  | .vpop _, .vpop _ => false
  | i, _ => (writesOf i).contains r

/-- The registers `s4`–`s7` that a bundle writes (R125); `t` is the machine after its control slot. Their appends are stores in the order
of the registers, after the control slot's own accesses: the spec gives the stores of one bundle no order (DESIGN CHOICE, log entry 66). -/
def State.appendRegs (t : State) (c a : Instr) : List Reg :=
  [4, 5, 6, 7].filter fun r => ctrlWrites c t.cur.wait r || (writesOf a).contains r

/-- A bound register that the bundle wrote (R125, R161): a write stream appends the value, or what the load of the bundle will
bring; a read stream discards it. -/
def State.appendReg (p : Appends) (s : State) (r : Reg) : State :=
  match s.cur.stream? r with
  | none => s
  | some x =>
    let t := s.setReg r x.last
    if x.write then t.append p r (s.reg r) ((s.cur.awaiting.find? fun p => p.1 == r).map (·.2)) else t

/-- The appends of a bundle whose PC is `pc`. -/
def State.appends (s : State) (p : Appends) (pc : Word) (rs : List Reg) : State :=
  let next := s.cur.pc
  let t := rs.foldl (State.appendReg p) { s with cur := { s.cur with pc := pc } }
  { t with cur := { t.cur with pc := next } }

/-- Errors in registers that the bundle has written anew cleared (R345). -/
def State.freshRegs (s : State) (c a : Instr) : State :=
  if s.poison.isEmpty && s.soft.isEmpty then s
  else
    ((writesOf a ++ (writesOf c).filter fun r => ctrlWrites c s.cur.wait r && !s.cur.awaiting.any fun p => p.1 == r)).foldl
      (fun t r => t.clearError (regErr t.cur.id r.toNat)) s

/-- A bundle over: complete, or waiting at its control slot, which may be issued again alone (R43, R106). A counter that would rise
above 63 keeps it from issuing (R156). -/
def State.bundleEnd (u : State) (before : Thread) (read : State) (h : Half) : Out :=
  if wrapped before u.cur then ({ read with aborted := true } : State).undone before
  else
    let half := match u.cur.wait with
      | .running => if before.atHalf then none else u.cur.half
      | .acquire _ => none
      | _ => some h
    .next { u with cur := { u.cur with got := [], half := half } }

/-- The parked form of a bundle (R43, R106): its control slot reads the registers that the bundle read. -/
def halfOf (read : State) (before : Thread) : Half := ⟨before.pc, before.hm, read.cur.regs⟩

/-- A bundle that nothing stops; `t` is what its control slot leaves. A register whose stream the control slot binds or frees is written
as that slot leaves it, which R125 does not say (DESIGN CHOICE, log entry 50). The bundle's appends come after a release of its control
slot and belong to the next phase, which R229 leaves open (DESIGN CHOICE, log entry 67). -/
def State.bundleOn (t : State) (p : Appends) (c a : Instr) (read : State) (before : Thread) : Out :=
  ((((t.drawnAs p.after).withArith a read).freshRegs c a).appends p before.pc (t.appendRegs c a)).bundleEnd before read (halfOf read before)

/-- What `next` starts from: the machine after its bundle's arithmetic slot, and after that slot's append (R229). A register that the
task writes too takes two elements of its stream, where R125 speaks of one for each bundle (DESIGN CHOICE, log entry 68). -/
def State.nextOn (read : State) (p : Appends) (a : Instr) (pc : Word) : State :=
  ((read.drawnAs p.after).withArith a read).appends p pc (read.appendRegs .next a)

/-- The same without the append's store: what `next` meets on it leaves nothing of the bundle. -/
def State.nextOff (read : State) (p : Appends) (a : Instr) (before : Thread) : State :=
  let on := read.nextOn p a before.pc
  { on with fabric := read.fabric, teams := read.teams, cur := { on.cur with cntS := before.cntS, far := before.far } }

/-- The registers on whose values the conditions of a control slot depend (R329): of those that it stores, deposits or combines with
memory only the address. -/
def condReads : Instr → List Reg
  | .stB a _ _ | .stH a _ _ | .stW a _ _ | .stD a _ _ | .stQ a _ | .stf a _ _ | .stw a _ _ => [a]
  | .aadd _ a _ | .aaddf _ a _ | .aand _ a _ | .aor _ a _ | .axor _ a _ | .amin _ a _ | .amax _ a _ | .aminu _ a _
  | .amaxu _ a _ | .aswap _ a _ | .acas _ a _ => [a]
  | .mdepAdd a _ _ | .mdepMax a _ _ | .hint _ a _ | .vld _ a _ | .vst a _ _ => [a]
  | i => readsOf i

/-- The registers on which the condition depends that has stopped a control slot (R329); a register whose pop is stopped has been read as
0. Views and alignments of addresses without an offset are none of the value 0, and each condition of them depends on its own register;
those of the list of an `msense` depend on the list's address alone. -/
def stopReads (c : Instr) (read t : State) : List Reg :=
  let k := t.stopRank
  if k.1 = 2 ∨ k.1 = 3 then
    match c with
    | .cpy _ | .cpyg _ | .cpys _ | .msense _ _ _ _ => []
    | i => condReads i
  else
    match c with
    | .msense _ _ b st => if st = 4 ∧ k.2 = locOf (effAddr (read.reg b) 0) then [b] else condReads c
    | i => condReads i

/-- A bundle that `u` stops has no effect on `s`; one that must wait is not ready (R29, R356). -/
def State.stopped (s u : State) (before : Thread) : Out := if s.carveWaits u false then .next s.hold else u.undone before

/-- A bundle of `next`, whose task is found after its arithmetic slot (R229); `pops`: what stops the pops of the slot on `read`. -/
def State.runNext (s : State) (pops : List State) (a : Instr) (read : State) : Out :=
  let before := s.cur
  let p := s.planAppends read.cur (read.appendRegs .next a)
  match exec .next (read.nextOff p a before) with
  | .next t =>
    match firstStop ((if t.aborted then [t] else []) ++ pops ++ p.stops) with
    | some u => s.stopped u before
    | none =>
      match exec .next (read.nextOn p a before.pc) with
      | .next w => if w.aborted then read.hold.undone before else (w.freshRegs .next a).bundleEnd before read (halfOf read before)
      | o => o
  | o => o

/-- A bundle with both slots. What it meets is reported in the order of R329: of its pops, its control slot, where the condition
depends on no register whose pop is stopped, and its appends. -/
def State.runSlots (s : State) (c a : Instr) : Out :=
  let ps := popRegs c a
  let s := s.cutFor s ps
  let before := s.cur
  match ps.findSome? s.popFetch with
  | some t => .next t
  | none =>
    let pops := ps.filterMap s.popStop
    let r := s.pops ps
    match c with
    | .next => s.runNext pops a r
    | _ =>
      match exec c r with
      | .next t =>
        let x := if t.aborted then r else t
        let blocked := ps.filter fun r => (s.popStop r).isSome
        let mine := t.aborted && !(stopReads c r t).any blocked.contains
        let p := (s.drawnAs t).planAppends x.cur (x.appendRegs c a)
        match firstStop ((if mine then [t] else []) ++ pops ++ p.stops) with
        | some u => s.stopped u before
        | none => t.bundleOn p c a r before
      | o => o

/-- The registers that a control slot issued again alone reads: those of its thread, but for what the arithmetic slot has written since
(R7, R106). -/
def againReads (a : Instr) (h : Half) (now : Vector Word 16) : Vector Word 16 :=
  Vector.ofFn fun i : Fin 16 => if (writesOf a).contains (BitVec.ofNat 4 i.val) then h.regs[i] else now[i]

/-- The registers after a control slot issued again alone: the arithmetic result of the first issue stands, but for what `next` has
obtained since. -/
def againRegs (c a : Instr) (w : Wait) (now new : Vector Word 16) : Vector Word 16 :=
  let taken := match c, w with | .next, .next _ => false | .next, _ => true | _, _ => false
  Vector.ofFn fun i : Fin 16 =>
    let r : Reg := BitVec.ofNat 4 i.val
    if (writesOf a).contains r && !(taken && isStreamReg r) then now[i] else new[i]

/-- The control slot of a parked bundle issued again alone, on the registers it read (R43, R106, R350). -/
def State.runAgain (s : State) (c a : Instr) (h : Half) : Out :=
  let before := s.cur
  match exec c { s with cur := { s.cur with regs := againReads a h s.cur.regs } } with
  | .next t =>
    let rs := (t.appendRegs c .nopArithmetic).filter fun r => !(writesOf a).contains r
    let p := (s.drawnAs t).planAppends t.cur rs
    match firstStop ((if t.aborted then [t] else []) ++ p.stops) with
    | some u => s.stopped u before
    | none =>
      let t := t.drawnAs p.after
      let regs := againRegs c a t.cur.wait before.regs t.cur.regs
      let w := match t.cur.wait with | .vpop d => if (writesOf a).contains d then Wait.vpop 0 else .vpop d | w => w
      let u : State := { t with cur := { t.cur with regs := regs, wait := w,
                                                    awaiting := t.cur.awaiting.filter fun p => !(writesOf a).contains p.1 } }
      ((u.freshRegs c .nopArithmetic).appends p before.pc rs).bundleEnd before s h
  | o => o

/-- Errors of one bit in the scalar and function registers that a bundle reads corrected (R344). -/
def State.correctRegs (s : State) (rs : List Reg) (fs : List FRegN) : State :=
  if s.soft.isEmpty then s
  else
    let t := rs.foldl (fun t r => t.correctPlace (regErr t.cur.id r.toNat) 5 t.teamCore r.toNat) s
    fs.foldl (fun t f => t.correctPlace (regErr t.cur.id (16 + f.toNat)) 5 t.teamCore 0) t

/-- A bundle of the issuing thread: held, met by an uncorrectable register (R345), issued again alone, or run. -/
def State.runBundle (s : State) (c a : Instr) : Out :=
  if s.cur.heldBy (bundleRegs c a) then .next s.hold
  else
    let reads := readsOf c ++ readsOf a
    match reads.find? fun r => s.poison.contains (regErr s.cur.id r.toNat) with
    | some r => .next (s.raiseFault 0x1A 5 (r.setWidth 64))
    | none =>
      let t := s.correctRegs reads (fregReads c)
      match t.cur.half.filter fun _ => t.cur.atHalf with
      | some h => t.runAgain c a h
      | none => t.runSlots c a

/-- What the issuing thread does at its PC: an illegal bundle and a failed fetch are steps of their own (R107, R145). -/
def State.issueBundle (s : State) : Out :=
  let f := s.fetch
  match f.1 with
  | .bundle b _ =>
    match decodeBundle b with
    | .illegal n => execIllegalBundle n b f.2
    | .long i => f.2.runBundle i .nopArithmetic
    | .pair c a => f.2.runBundle c a
  | .held => .next f.2.hold
  | _ => execFetchFault s

/-! ### Waits that are over (R30, R43) -/

/-- The stage that follows in `publ` (R83): the release, then the exchange where the location lies in a double window. -/
def State.publNext (s : State) (stage : PublStage) (loc : Nat) : State :=
  match stage with
  | .counters => let r := s.release 4; r.await (.publ .release r.fresh loc)
  | .release =>
    match (s.place s.cur.id.grid loc).1 with
    | .mem k _ _ =>
      let spot := match homeOf k with
        | .tcm g l => (windowAt (s.teamD g l).windows false ((k - 2 ^ 53) % 2 ^ 18)).isSome
        | .spad g l => (windowAt (s.teamD g l).windows true ((k - 2 ^ 54) % 2 ^ 21)).isSome
        | _ => false
      if spot then s.await (.publ .exchange s.fresh loc) else { s with cur := s.cur.goOn }
    | _ => { s with cur := s.cur.goOn }
  | _ => { s with cur := s.cur.goOn }

/-- A `vpop` that waited takes a result (R185): into its register, or as an append, which may be stopped or find no room. -/
def State.popResult (s : State) (d : Reg) : State :=
  match s.cur.resq with
  | [] => s
  | v :: r =>
    if s.poison.contains (regErr s.cur.id 33) then s.raiseFault 0x1A 5 0
    else
      let p := s.planAppends s.cur [d]
      match firstStop p.stops with
      | some t => if s.carveWaits t false then s else t
      | none =>
        if (s.cur.appendsTo d).isSome && s.cur.cntS == 63 then s
        else
          let u : State := s.drawnAs p.after
          let t := ((({ u with cur := { u.cur with resq := r } } : State).correctPlace (regErr u.cur.id 33) 5 u.teamCore 0).writeTaskReg p d v).clearError
            (regErr u.cur.id d.toNat)
          { t with cur := t.cur.goOn }

/-- The issuing thread goes on from a wait that is over. -/
def State.resume (s : State) : State :=
  match s.cur.wait with
  | .next since => s.seekTask since
  | .again => s.seekTask s.obs
  | .vpop d => s.popResult d
  | .publ stage _ loc => s.publNext stage loc
  | .pfenceTile =>
    let t : State := { s with cur := s.cur.goOn }
    (t.saveCore (t.teamCore)).2
  | .pfenceKeep _ false => let r := s.release 4; r.await (.pfenceKeep r.fresh true)
  | .pfenceKeep _ true => s.keepDone
  | .fence scope full =>
    let r := s.release scope
    if full then r.await (.performed r.fresh false) else { r with cur := r.cur.goOn }
  | .migr v => s.migrMove v
  | .acquire _ => s.await .running
  | .released _ => s.await .running
  | .exiting _ => { s with cur := s.cur.finish }
  | _ => { s with cur := s.cur.goOn }

/-- A thread's wait ended, if it is over. A `pfence tile` saves the core that holds the thread's team, also for a thread that has
migrated (R84; DESIGN CHOICE, log entry 44). -/
def State.wakeThread (s : State) (id : Tid) : State :=
  match s.thread? id with
  | some t => if s.waitOver t then { (s.focus id).resume with aborted := false } else s
  | none => s

/-- The waits of a core's threads that are over, in slot order. -/
def State.wakeSlots (s : State) (c : Nat) : List Nat → State
  | [] => s
  | n :: r => State.wakeSlots (match s.inSlot c n with | some t => s.wakeThread t.id | none => s) c r

/-! ### Which slot issues (R29, R233, R261) -/

/-- May a core issue: awake, not halted (R273), not in an exchange (R46), not rolled back with requests still on their way (R350), not
too hot (R354: at level 2 every other cycle)? -/
def State.coreRuns (s : State) (c : Nat) : Bool :=
  s.powered && s.coreAwake c && !(s.core c).exchanging && !s.orphansLeft c && !(s.cluster (clusterOf c)).halted &&
  (decide (s.heat c < 2) || (s.heat c == 2 && s.cycle.toNat % 2 == 0))

/-- Is a thread's team in an exchange, on whichever core the thread runs (R46)? -/
def State.teamStops (s : State) (t : Thread) : Bool :=
  match (s.teamD t.id.grid t.id.team).core with | some c => (s.core c).exchanging | none => false

/-- May a thread issue? Its grid is placed, and its faults are of this cycle, in which others may still be detected (R43, R315,
R316). -/
def State.threadRuns (s : State) (t : Thread) : Bool :=
  t.wait == .running && !s.teamStops t &&
  match s.grid? t.id.grid with
  | some g => g.state == .placed && g.faults.all fun f => f.cycle == s.cycle
  | none => false

/-- A trap due at the thread's next bundle boundary is taken (R312, R337); promises missed in one cycle make one trap with the smallest
value. -/
def State.takeDue (s : State) (d : TrapDue) (rest : List TrapDue) : State :=
  let same := fun x : TrapDue => x.code == 2 && d.code == 2 && x.at_ == d.at_
  let v := (rest.filter same).foldl (fun m x => if x.tval < m then x.tval else m) d.tval
  let t : State := { s with cur := { s.cur with traps := rest.filter fun x => !same x } }
  t.takeTrap d.code 0 v t.cur.pc

/-- A thread's turn at issue: a trap that is due, unless a bundle is still to be issued again, or its bundle. `none` when it is not
ready (a bundle that traps sets HM). -/
def State.tryThread (s : State) (id : Tid) : Option Out :=
  let f := s.focus id
  if !s.threadRuns f.cur then none
  else
    match (if f.cur.atHalf then [] else f.cur.traps) with
    | d :: rest => some (.next (f.takeDue d rest))
    | [] =>
      match f.issueBundle with
      | .next t => if t.aborted && t.cur.wait == .running && t.cur.hm == f.cur.hm then none else some (.next t)
      | o => some o

/-- The first slot of a list whose thread issues, and what it leaves. -/
def State.firstOf (s : State) (c : Nat) : List Nat → Option (Nat × Out)
  | [] => none
  | n :: r =>
    match s.inSlot c n with
    | some t =>
      match s.tryThread t.id with
      | some o => some (n, o)
      | none => State.firstOf s c r
    | none => State.firstOf s c r

/-- The slots from the rotation pointer on (R29). -/
def slotOrder (ptr : Nat) : List Nat := (List.range 8).map fun i => (ptr + i) % 8

/-- Has the thread in a slot just issued `yield` (R233)? -/
def State.yielding (s : State) (c n : Nat) : Bool :=
  match s.inSlot c n with
  | some t => t.yieldUntil == s.cycle && t.yieldUntil != 0
  | none => false

/-- The slots in the order they are tried: one that yielded in the last cycle comes after the others (R233). -/
def State.tryOrder (s : State) (c : Nat) : List Nat :=
  let o := slotOrder (s.core c).ptr
  o.filter (fun n => !s.yielding c n) ++ o.filter (s.yielding c)

/-- The core has had this cycle. -/
def State.markIssued (s : State) (c : Nat) : State := { s with issued := c :: s.issued, aborted := false }

/-- The rotation pointer of a core moved to the slot after the one that issued (R29). -/
def State.movePtr (s : State) (c n : Nat) : State := s.setCore { s.core c with ptr := (n + 1) % 8 }

/-- What an issue from a slot leaves. -/
def finishIssue (c n : Nat) : Out → Out
  | .next t => .next ((t.movePtr c n).markIssued c)
  | o => o

/-- One cycle of a core that runs no replay-mode team: waits end, then one slot issues. -/
def State.issueSlots (s : State) (c : Nat) : Out :=
  let t := s.wakeSlots c (List.range 8)
  match t.firstOf c (t.tryOrder c) with
  | some (n, o) => finishIssue c n o
  | none => .next (t.markIssued c)

end Sys2Proof.Machine
end

