-- ==== Sys2Proof/Machine/ReplayTurn.lean ====
section
/-! DEFINITION. A turn of a replay-mode chunk (R261–R264, R327): what the team's thread does is complete within its turn, against
memory that the chunk keeps apart. -/

namespace Sys2Proof.Machine

/-! ### Completing what a turn has begun -/

/-- The requests of a team that are not parked. -/
def State.teamReqs (s : State) (g l : Nat) : List Req := s.fabric.filter fun r => r.tid.grid == g && r.tid.team == l && !r.parked

/-- A piece performed in its turn, where nothing holds it (R65, R294). -/
def State.performPiece (s : State) (n k : Nat) : State :=
  match s.req? n with
  | some r =>
    match r.pieces[k]? with
    | some p => if p.done || r.parked || r.dataFrom.isSome || s.carveState p.key == .hold || s.reachHeld p.key then s else s.arrive r k p
    | none => s
  | none => s

/-- The reply or acknowledgement of a request that is performed. -/
def State.finishReq (s : State) (n : Nat) : State :=
  match s.req? n with
  | some r => if !r.performed then s else if r.returns then s.deliver r else (s.joinAck r).deliver r
  | none => s

/-- A request performed and answered. -/
def State.settleReq (s : State) (n : Nat) : State :=
  match s.req? n with
  | some r => ((List.range r.pieces.length).foldl (fun t k => t.performPiece n k) s).finishReq n
  | none => s

/-- The phases of a team's threads whose accesses are performed. -/
def State.settlePhases (s : State) (g l : Nat) : State :=
  s.mapThreads fun t => if t.id.grid = g ∧ t.id.team = l ∧ s.allPerformed t.id s.fresh false then { t with closed := [] } else t

/-- All requests of a team settled in order. -/
def State.settle (s : State) (g l : Nat) : State :=
  (((s.teamReqs g l).map (·.id)).foldl (fun t n => t.settleReq n) s).settlePhases g l

/-- The parked requests of a team served, where other teams' commits have met their conditions (R262). -/
def State.serveTeam (s : State) (g l : Nat) : State :=
  (s.fabric.filter fun r => r.parked && r.tid.grid == g && r.tid.team == l).foldl
    (fun t r => match r.pieces with | p :: _ => t.serveList (t.mapKey p.key) t.fabric.length | [] => t) s

/-- A thread's replays performed one after another, while nothing keeps the next one back. -/
def State.runReplays (s : State) (id : Tid) : Nat → State
  | 0 => s
  | fuel + 1 =>
    match s.thread? id with
    | some t =>
      match t.vreplay with
      | some v =>
        match v.entries[v.k]? with
        | some e =>
          if s.replayFree t v e then State.runReplays (((s.focus id).replayStep v e).settle id.grid id.team) id fuel else s
        | none => s
      | none => s
    | none => s

/-! ### The turn -/

/-- Replays that a `vloop` can have. -/
def replayFuel : Nat := 16 * 4096

/-- May a slot issue in this turn? After a chunk that ended early, the bundle that ended it comes first (R327). -/
def Replay.mayIssue (r : Replay) (slot : Nat) : Bool :=
  match r.early.find? fun p => p.1 == r.team with
  | some (_, e) => e == slot
  | none => true

/-- The mark of an early end gone, once its bundle has had its turn. -/
def Replay.useEarly (r : Replay) (slot : Nat) : Replay := { r with early := r.early.filter fun p => p != (r.team, slot) }

/-- Does a thread wait for what its bundle reads or releases before it takes effect? In its turn that comes at once. -/
def State.inBundle (s : State) (id : Tid) : Bool :=
  match s.thread? id with
  | some t => (match t.wait with | .fetching _ => true | .released _ => true | _ => false)
  | none => false

/-- The issue of a slot in its turn, with what its bundle waits for meanwhile. -/
def State.turnIssue (s : State) (id : Tid) : Nat → Out
  | 0 => .next s
  | fuel + 1 =>
    let s := (s.wakeThread id).settle id.grid id.team
    match s.tryThread id with
    | some (.next t) =>
      let u := (t.settle id.grid id.team).runReplays id replayFuel
      if t.inBundle id then State.turnIssue u id fuel else .next u
    | some o => o
    | none => .next (s.runReplays id replayFuel)

/-- Memory as the chunk sees it in place of the machine's; what its threads store is noted. -/
def State.openApart (s : State) (x : Apart) : State :=
  { s with mem := x.mem, empty := x.empty, keepPending := s.keepPending ++ x.keep, chunkWrites := some [] }

/-- The machine's memory back, and what the chunk has written kept apart. -/
def State.closeApart (s : State) (g : Nat) (x : Apart) (outer : State) (f : Replay → Replay) : State :=
  let kept : Apart := { x with mem := s.mem, empty := s.empty, writes := x.writes ++ s.chunkWrites.getD [],
                               keep := s.keepPending.drop outer.keepPending.length }
  ({ s with mem := outer.mem, empty := outer.empty, keepPending := outer.keepPending, chunkWrites := none } : State).modGrid g
    fun y => { y with replay := f { y.replay with apart := some kept } }

/-- The distinct 32-byte lines that stores write (R327). -/
def writtenLines (l : List (Nat × Nat)) : List Nat := (l.flatMap fun w => [w.1 / 32, (w.1 + w.2 - 1) / 32]).eraseDups

/-- A turn of the chunk that runs: its thread's bundle, or nothing where that would write more than 512 lines; the chunk then ends
before it (R327). -/
def State.runTurn (s : State) (g : Grid) (x : Apart) : Out :=
  let r := g.replay
  let slot := r.turn % 8
  let o := s.openApart x
  let o := if r.turn = 0 then (o.serveTeam g.num r.team).settle g.num r.team else o
  if !r.mayIssue slot then
    .next (o.closeApart g.num x s fun y => { y with turn := r.turn + 1 })
  else
    match o.turnIssue ⟨g.num, r.team, slot⟩ 16 with
    | .next t =>
      if 512 < (writtenLines (x.writes ++ t.chunkWrites.getD [])).length ∧ x.writes ≠ [] then
        .next (s.modGrid g.num fun y => { y with replay := { y.replay with apart := some x, turn := 512, early := (r.team, slot) :: r.early } })
      else .next (t.closeApart g.num x s fun y => ({ y with turn := r.turn + 1 } : Replay).useEarly slot)
    | o => o

/-- May a chunk begin: the last one is committed, what its team's last chunk gave to the copy engine and the matrix unit is complete,
and a thread of the grid has not ended? -/
def State.chunkReady (s : State) (g : Grid) : Bool :=
  !g.replay.committing && ((s.threadsOf g.num).any fun t => t.wait != .ended) && !(s.copies.any fun c => c.tid.grid == g.num && c.tid.team == g.replay.team) &&
  match (s.teamD g.num g.replay.team).core with
  | some c => (s.core c).mq.all fun r => r.tid.grid != g.num
  | none => false

/-- One cycle of a core whose team belongs to a replay-mode grid. -/
def State.issueReplay (s : State) (c : Nat) (g : Grid) : Out :=
  let r := g.replay
  let mine := (s.teamD g.num r.team).core == some c
  let go := mine && g.state == .placed && g.faults.isEmpty && decide (r.turn < 512)
  let o := match r.apart with
    | some x => if go then s.runTurn g x else .next s
    | none => if go && s.chunkReady g then s.runTurn g ⟨s.mem, s.empty, s.mem, s.empty, [], []⟩ else .next s
  match o with
  | .next t => .next (t.markIssued c)
  | o => o

/-- The replay-mode grid of a core (R261). -/
def State.replayGrid (s : State) (c : Nat) : Option Grid :=
  match s.teamsOn c with
  | t :: _ => (s.grid? t.grid).filter (·.replayOn)
  | [] => none

/-- Has a gated core a turn in which nothing can issue: its slot has no ready thread and no replays? Such turns go on, so that the innings
ends; the spec says only that a gated core's threads are delayed (DESIGN CHOICE, log entry 63). -/
def State.emptyTurn (s : State) (c : Nat) (g : Grid) : Bool :=
  s.powered && !s.coreAwake c && !s.orphansLeft c && !(s.cluster (clusterOf c)).halted &&
  match s.thread? ⟨g.num, g.replay.team, g.replay.turn % 8⟩ with
  | some t => !s.ready t && t.vreplay.isNone
  | none => true

/-- One cycle of a core (R29, R261): at most one bundle in it. -/
def State.issueCore (s : State) (c : Nat) : Out :=
  if s.issued.contains c then .next s
  else
    match s.replayGrid c with
    | some g => if s.coreRuns c || s.emptyTurn c g then s.issueReplay c g else .next (s.markIssued c)
    | none => if s.coreRuns c then s.issueSlots c else .next (s.markIssued c)

end Sys2Proof.Machine
end

