-- ==== Sys2Proof/Machine/ReachRun.lean ====
section
/-! DEFINITION. A bundle of a reach program (R294, R295). -/

namespace Sys2Proof.Machine

/-- The control/memory-slot instructions that a reach engine accepts (R294): opcodes 0x00–0x0E, 0x20–0x27, 0x34. -/
def reachCtrl : Instr → Bool
  | .nop => true
  | .addiCm _ _ _ => true
  | .ldB _ _ _ | .ldBU _ _ _ | .ldH _ _ _ | .ldHU _ _ _ | .ldW _ _ _ | .ldWU _ _ _ | .ldD _ _ _ | .ldQ _ _ => true
  | .stB _ _ _ | .stH _ _ _ | .stW _ _ _ | .stD _ _ _ | .stQ _ _ => true
  | .bEq _ _ _ | .bNe _ _ _ | .bLt _ _ _ | .bGe _ _ _ | .bLtu _ _ _ | .bGeu _ _ _ | .jal _ _ | .jr _ _ _ => true
  | .exit => true
  | _ => false

/-- The arithmetic-slot instructions that it accepts: opcodes 0x00–0x25, all but floating point. -/
def reachArith : Instr → Bool
  | .fadd _ _ _ _ | .fsub _ _ _ _ | .fmul _ _ _ _ | .fdiv _ _ _ _ | .fsqrt _ _ _ | .fmin _ _ _ _ | .fmax _ _ _ _
  | .fcmp _ _ _ _ _ | .fcvt _ _ _ _ | .fclass _ _ _ | .fsgn _ _ _ _ _ => false
  | _ => true

/-- The long instructions that it accepts: opcodes 0x01–0x03. -/
def reachLong : Instr → Bool
  | .li _ _ => true
  | .lih _ _ => true
  | .sel _ _ _ _ => true
  | _ => false

/-- A thread with the registers and the PC of a reach program. -/
def Reach.thread (r : Reach) : Thread := { Thread.vacant with regs := r.regs, pc := r.pc }

/-- An instruction that touches no memory, on the registers of a program; a misaligned target stops it with STATUS 3. -/
def Reach.local (r : Reach) (i : Instr) : Reach :=
  match exec i { State.reset with cur := r.thread } with
  | .next t => if t.aborted then r.halting 3 else { r with regs := t.cur.regs, pc := t.cur.pc }
  | _ => r.halting 2

/-- The PC moved to the next bundle. -/
def Reach.advance (r : Reach) : Reach := { r with pc := r.pc + 8 }

/-- A scalar load (R147). -/
def State.reachScalar (s : State) (r : Reach) (d a : Reg) (i : BitVec 13) (n : Nat) (uns : Bool) : State × Reach :=
  s.reachLoad r (effAddr (r.reg a) i.toInt) n fun v => (r.setReg d (viewDecode 0 n uns (BitVec.ofNat 64 v))).advance

/-- A scalar store (R147). -/
def State.reachPut (s : State) (r : Reach) (a : Reg) (i : BitVec 13) (b : Reg) (n : Nat) : State × Reach :=
  s.reachStore r.advance (effAddr (r.reg a) i.toInt) n ((r.reg b).toNat % 2 ^ (8 * n))

/-- `s8`–`s15` of a program. -/
def Reach.block (r : Reach) : List Word := blockRegs.map r.reg

/-- The words of a number. -/
def wordsOf (v : Nat) : Nat → List Word
  | 0 => []
  | n + 1 => BitVec.ofNat 64 v :: wordsOf (v / 2 ^ 64) n

/-- The control slot of a program's bundle. -/
def State.reachSlot (s : State) (r : Reach) (c : Instr) : State × Reach :=
  match c with
  | .ldB d a i => s.reachScalar r d a i 1 false
  | .ldBU d a i => s.reachScalar r d a i 1 true
  | .ldH d a i => s.reachScalar r d a i 2 false
  | .ldHU d a i => s.reachScalar r d a i 2 true
  | .ldW d a i => s.reachScalar r d a i 4 false
  | .ldWU d a i => s.reachScalar r d a i 4 true
  | .ldD d a i => s.reachScalar r d a i 8 false
  | .ldQ a i => s.reachLoad r (effAddr (r.reg a) i.toInt) 64 fun v => (r.setRegs 8 (wordsOf v 8)).advance
  | .stB a i b => s.reachPut r a i b 1
  | .stH a i b => s.reachPut r a i b 2
  | .stW a i b => s.reachPut r a i b 4
  | .stD a i b => s.reachPut r a i b 8
  | .stQ a i => s.reachStore r.advance (effAddr (r.reg a) i.toInt) 64 (joinWords r.block)
  | .exit => (s, r.halting 1)
  | i => (s, r.local i)

/-- Both slots of a program's bundle: both read before either writes, and the arithmetic result stands (R7). One that stops the
program has no effect but that of `exit`. -/
def State.reachSlots (s : State) (r : Reach) (c a : Instr) : State :=
  let x := s.reachSlot r c
  let q := r.local a
  let put := fun y : Reach => match (writesOf a).head? with | some d => y.setReg d (q.reg d) | none => y
  if x.2.stopping = 0 ∨ x.2.stopping = 1 then x.1.setReach (put x.2) else s.setReach (r.halting x.2.stopping)

/-- A bundle of the program that runs in a stack's reach engine (R294, R295). -/
def State.reachBundle (s : State) (st : Nat) : State :=
  let r := s.reachOf st
  let t : State := { s with issued := (8192 + st) :: s.issued }
  if !s.powered || !r.run || r.stopping ≠ 0 then t
  else
    match s.reachKeys r r.pc 8 with
    | none => t.setReach (r.halting 3)
    | some ks =>
      if r.pc.toNat % 8 ≠ 0 then t.setReach (r.halting 3)
      else if ks.any fun k => s.poisoned k 1 then t.setReach (r.halting 4)
      else
        let t := t.correctWords (ks.headD 0) 8
        match decodeBundle (BitVec.ofNat 64 (s.gather ks)) with
        | .illegal _ => t.setReach (r.halting 2)
        | .long i => if reachLong i then t.reachSlots r i .nopArithmetic else t.setReach (r.halting 2)
        | .pair c a => if reachCtrl c && reachArith a then t.reachSlots r c a else t.setReach (r.halting 2)

end Sys2Proof.Machine
end

