-- ==== Sys2Proof/Machine/Schedule.lean ====
section
/-! DEFINITION. What happens next (log entry 1): the acts of the agenda in their order; without one, every agent goes on as soon as it
can: what is due in this cycle, then each core and reach engine once, then the next cycle. -/

namespace Sys2Proof.Machine

/-! ### Time -/

/-- The state of an outcome that is a next state. -/
def after (o : Out) (s : State) : State := match o with | .next t => t | _ => s

/-- The step-down slots of the step that has just ended (R303). -/
def State.stepDowns (s : State) : State :=
  if s.reinStep then
    ((s.cores.filter fun k => k.unitActive && k.mq.isEmpty).map fun k => clusterOf k.num).foldl (fun t cl => after (execReinStepDown cl t) t) s
  else s

/-- Is a step a background access (R271), which comes after the other accesses of its cycle (R272)? -/
def isBackground : Instr → Bool
  | .sweeperNormalise _ _ _ => true
  | .patrolScrub _ => true
  | .mramScrub _ => true
  | _ => false

/-- The background accesses of a cycle performed. -/
def State.runBackground (s : State) : State := s.background.foldl (fun t i => after (exec i t) t) { s with background := [] }

/-- The next cycle: what the last one ends with, its background accesses and a round of the patrol scrub (R271), which come after its
foreground accesses (R272); and what the new one begins with, step-downs (R303), the end of a watchdog window (R323), a swap instant (R44), a change of the budget
(R20). -/
def State.nextCycle (s : State) : State :=
  let t := s.runBackground.patrolRound.tick.stepDowns
  let t := after (execWatchdogWindowEnd t) t
  let t := after (execSwapInstant t) t
  after (execBudgetChange t) t

/-- A number of cycles. -/
def State.elapse (s : State) : Nat → State
  | 0 => s
  | n + 1 => State.elapse s.nextCycle n

/-! ### The acts of the agenda -/

/-- Does an instruction stand for a step of another agent that the agenda may name? A bundle's steps belong to the core that
issues it, and those of a new cycle to `nextCycle`. -/
def ofAgent (i : Instr) : Bool :=
  match i with
  | .illegalBundle _ _ => false
  | .fetchFault => false
  | .watchdogWindowEnd => false
  | .swapInstant => false
  | .budgetChange => false
  | i => (encode i).isNone

/-- Keep-region stores of no thread written to MRAM at once, where MRAM is not worn (log entry 16). -/
def State.keepAtOnce (s : State) (l : List KeepStore) : State :=
  if l.isEmpty then s
  else
    let t := ({ s with keepPending := s.keepPending ++ l, fresh := s.fresh + 1 } : State).remapAll l
    t.makeDurable fun x => x.id == s.fresh && !t.keepFails x.key

/-- The host's bytes in memory. -/
def State.hostWrite (s : State) (a : Nat) (l : List Byte) : State :=
  (s.storeBytes a l).keepAtOnce
    ((((List.range l.length).filter fun i => isKeep (a + i)).map fun i => ⟨s.fresh, ⟨0, 0, 0⟩, 0, a + i, l.getD i 0, 0, none⟩))

/-- A program image laid into memory: its words start full (R10). -/
def State.imageStore (s : State) (a : Nat) (l : List Byte) : State :=
  let t := s.hostWrite a l
  let words := ((List.range l.length).map fun i => (a + i) / 8).eraseDups
  ({ t with empty := t.empty.filter fun w => !words.contains w } : State).keepAtOnce
    ((words.filter fun w => isKeep (8 * w)).map fun w => ⟨t.fresh, ⟨0, 0, 0⟩, 0, 8 * w, 0, 0, some true⟩)

/-- An error in a place (R344): one that the code cannot correct spoils every word of the unit that the code covers. -/
def State.upset (s : State) (n : Nat) (more : Bool) : State :=
  if more then { s with poison := (if n < 2 ^ 60 then codeWords n else [n]) ++ s.poison } else { s with soft := n :: s.soft }

/-- An act. -/
def State.act (s : State) : Act → Out
  | .issue c => s.issueCore c
  | .reach st => .next (s.reachBundle st)
  | .event i =>
    if ofAgent i && i.wf then (if isBackground i then .next { s with background := s.background ++ [i] } else exec i s) else .next s
  | .hostStore a l => .next (s.hostWrite a l)
  | .imageStore a l => .next (s.imageStore a l)
  | .packet st h d => s.packet st h d
  | .hostGate c l => .next (s.hostGate c l)
  | .upset n more => .next (s.upset n more)
  | .wrongElement g l tile row e v => .next (s.wrongElement ⟨g, l, 0⟩ tile row e v)
  | .wear n => .next { s with mramBad := n :: s.mramBad }

/-- The placement of a launch on the first cores that fit. -/
def State.placeGrid (s : State) (g : Grid) : Out :=
  if g.state == .queued then execGridStart g.num (s.fitGrid g) s else execResume g.num (s.fitGrid g) s

/-! ### What is due -/

/-- Steps of the threads. -/
def State.threadSteps (s : State) : List (State → Out) :=
  s.threads.flatMap fun t =>
    let id := t.id
    (match t.wait with
      | .sleep v _ => if v ≤ s.obsOf t then [execSleepWake id] else []
      | .migrating _ => [execMigrationArrive id]
      | .publ .exchange _ _ => [execWindowExchange id]
      | _ => []) ++
    ((t.promises.filter fun p => decide (p.2 ≤ s.obsOf t)).map fun p => execPromiseCheck p.1) ++
    (if t.closed.isEmpty then [] else [execPhaseComplete id]) ++
    (if t.vreplay.isSome then [execVloopReplay id] else [])

/-- Steps of the requests in the fabric. -/
def State.fabricSteps (s : State) : List (State → Out) :=
  s.fabric.flatMap fun r =>
    if r.misrouted then [execMessageForward r.id]
    else if r.performed then [if r.returns then execContinuationReply r.id else execHomeAcknowledge r.id]
    else (List.range r.pieces.length).map fun k => execPerformAtHome r.id k

/-- Steps of a core's matrix unit and of its cluster's rein. -/
def Core.unitSteps (k : Core) : List (State → Out) :=
  let c := k.num
  (if k.mq.isEmpty then []
   else [execIllegalRecord c, execMma c, execMmaS c, execMmaSp c, execMrot c, execMrotSend c, execMfill c, execMdrain c, execMzero c]) ++
  (match k.unit with
    | .inactive => []
    | .requesting _ => [execReinAdmission (clusterOf c)]
    | .active _ => []
    | .steppingDown _ => [execStepDownComplete c]) ++
  (if k.power = .run ∧ k.entering.isNone then [] else [execWake c]) ++
  (if k.forwardSince.isSome then [execForwardingWithdraw c] else [])

/-- The clusters in which the rein table written is not yet in force (R290). -/
def State.reinLag (s : State) : List Nat :=
  if s.host.fast then
    (if (s.clusters.filter (·.fast)).length = 1024 then [] else (List.range 1024).filter fun c => !(s.cluster c).fast)
  else (s.clusters.filter (·.fast)).map (·.num)

/-- Steps of the referee for the grids. -/
def State.gridSteps (s : State) : List (State → Out) :=
  (s.grids.flatMap fun g =>
    [execGridFaultEnd g.num, execInningsCommit g.num, execMregWriteApply g.num, execNextParkEnd g.num, execGridComplete g.num] ++
    (match g.state with | .quiescing _ => [execPreempt g.num, execPreemptAbandon g.num] | .placed => [execPreempt g.num] | _ => [])) ++
  (s.exchanges.map fun p => execExchange p.1 p.2) ++
  (s.teams.flatMap fun t => (List.range t.windows.length).map fun w => execMrotExchange t.grid t.lteam w) ++
  s.ranked.map fun g => fun t : State => t.placeGrid g

/-- Steps of the queues. -/
def State.queueSteps (s : State) : List (State → Out) :=
  s.queues.flatMap fun x =>
    let q := x.num
    ((x.entries.filter (·.done)).map fun e => execEntryComplete q e.num) ++
    (if x.invBusy then [execInvalidationComplete q] else []) ++
    (if x.waitKind.isSome ∧ x.polledAt.toNat + 4096 ≤ s.cycle.toNat then [execWaitValuePoll q] else []) ++
    (if x.en then
      [execIllegalKindEntry q, execLaunchEntry q, execGraphEntry q, execWaitValueEntry q, execSignalEntry q, execCopyEntry q]
     else [])

/-- The rest. -/
def State.otherSteps (s : State) : List (State → Out) :=
  (s.copies.map fun c => execCopyTransfer c.id) ++
  ((s.banks.filter fun b => b.busy.isSome).map fun b => execBankpartChangeEnd b.num) ++
  (s.reinLag.map fun c => execReinTableChange c) ++
  ((s.reach.filter fun r => r.run && r.stopping != 0).map fun r => execReachProgramStop r.num) ++
  (if s.host.attBusy then [execAttestationDone] else [])

/-- Steps of the power manager for the cores that hold a team or that the host asks to be gated (R267, R268, R354). -/
def State.powerSteps (s : State) : List (State → Out) :=
  (s.teams.filterMap (·.core) ++ s.gateReq.map (·.1)).eraseDups.filterMap fun c =>
    match (s.core c).entering with
    | some (l, _) => some (execPowerGate c l)
    | none => match s.target c with | .run => none | l => some (execPowerGate c l)

/-- All that may be due, in the order in which it is tried. -/
def State.dueSteps (s : State) : List (State → Out) :=
  s.threadSteps ++ s.fabricSteps ++ s.cores.flatMap Core.unitSteps ++ s.otherSteps ++ s.gridSteps ++ s.queueSteps ++ s.powerSteps

/-- The first step that changes the machine. -/
def firstChange (s : State) : List (State → Out) → Option Out
  | [] => none
  | f :: r =>
    match f s with
    | .next t => if t = s then firstChange s r else some (.next t)
    | o => some o

/-- The first core with a team, or reach engine with a program, that has not had this cycle. -/
def State.nextTurn (s : State) : Option Act :=
  match (s.teams.filterMap (·.core)).find? fun c => !s.issued.contains c with
  | some c => some (.issue c)
  | none =>
    match s.reach.find? fun r => r.run && r.stopping == 0 && !s.issued.contains (8192 + r.num) with
    | some r => some (.reach r.num)
    | none => none

/-- What happens without an agenda. -/
def State.goAhead (s : State) : Out :=
  match firstChange s s.dueSteps with
  | some o => o
  | none =>
    match s.nextTurn with
    | some a => s.act a
    | none => .next s.nextCycle

/-- One step of the machine. -/
def State.stepOnce (s : State) : Out :=
  match s.agenda with
  | d :: r => (({ s with agenda := r } : State).elapse d.delay).act d.act
  | [] => s.goAhead

/-! ### A program that stands ready (log entry 7) -/

/-- The descriptor of a program of one team of one thread, with all rights, sixteen tiles, a pool and a TCM share. -/
def benchDesc : Descriptor :=
  { entry := BitVec.ofNat 64 windowBase, done := 0, shape := 16 * 2 ^ 16 + 64 * 2 ^ 21 + 64 * 2 ^ 28, flags := 0x360, tvec := 0,
    mregp := 0, dwin := 0, args := [], rsv := [] }

/-- Its grid. -/
def benchGrid (now : Word) : Grid :=
  { Grid.vacant with num := 1, desc := benchDesc, state := .placed, start := now, placedSince := now,
                     mreg := startRegions mregReset now }

/-- The machine with a program of one thread placed on core 0, whose first bundle lies at the start of its TCM share. -/
def State.withBench (s : State) : State :=
  let g := benchGrid s.cycle
  { s with cur := g.newThread 0 0 0 0, rest := [], teams := [g.newTeam 0 0 s.cycle], grids := [g], powered := true }

/-- The key that the issuing thread's next fetch reads, where it has a grid and its page may be executed. -/
def State.fetchKey (s : State) : Option Nat :=
  if s.cur.id.grid = 0 then none
  else
    match (s.place s.cur.id.grid (bits s.cur.pc 51 0)).1 with
    | .mem k _ true => some (s.mapKey k)
    | _ => none

/-- A bundle put where the issuing thread fetches next, and its core's issue made the next act. -/
def State.putBundle (s : State) (k : Nat) (b : BitVec 64) : State :=
  let c := s.cur.core
  let q := s.myGrid.queue
  let x := s.core c
  let t := (s.store k 8 b.toNat).setCore
    { x with ptr := s.cur.slot, icache := x.icache.filter fun l => !(l.queue == q && l.loc == bits s.cur.pc 51 0) }
  { t with agenda := [⟨0, .issue c⟩], issued := [] }

/-- A bundle that the very next step fetches and runs. -/
def State.withBundle (s : State) (b : BitVec 64) : State :=
  match s.fetchKey with
  | some k => s.putBundle k b
  | none => s.withBench.putBundle (tcmKey 1 0 0) b

end Sys2Proof.Machine
end

