-- ==== Sys2Proof/Machine/Step.lean ====
section
/-! DEFINITION. One step of the machine, and the machine with an instruction where it fetches next. -/

namespace Sys2Proof.Machine

/-- One step: the next act of the agenda, or what is due (log entry 1). -/
def step (s : State) : Host.Outcome State Fault Refusal := s.stepOnce

/-- The machine with an instruction of the opcode table where it fetches its next bundle (log entry 7). -/
def State.withFetchWord (s : State) (nbits w : Nat) : State := s.withBundle (tableBundle nbits w)

end Sys2Proof.Machine
end

