-- ==== Sys2Proof/Safety.lean ====
section
/-! DEFINITION. What counts as a safe run: no grid has faulted, and every memory stands in its canonical form. -/

namespace Sys2Proof.Machine

/-- No fault is recorded in any grid (R309, R315). -/
def State.Clean (s : State) : Prop := ∀ g ∈ s.grids, g.faults = []

/-- What a replay-mode chunk keeps apart is in canonical form. -/
def Grid.ApartWf (g : Grid) : Prop := ∀ x, g.replay.apart = some x → Memory.wf x.mem = true

/-- Every memory that the machine holds is in canonical form (log entry 2): the one of its address space, the durable one of the
keep region, and what chunks keep apart. -/
def State.MemWf (s : State) : Prop :=
  Memory.wf s.mem = true ∧ Memory.wf s.keepDurable = true ∧ ∀ g ∈ s.grids, g.ApartWf

end Sys2Proof.Machine
end

