-- ==== Sys2Proof/Certificates/Slice0/Obligations.lean ====
section
/-! DEFINITION. The statements for the provers, each a rule of spec/ or a property that follows from its rules, over every state that
meets its hypotheses. The words they are written in come first. -/

namespace Sys2Proof.Claims

open Sys2Proof.Machine

/-! ### The words of the statements -/

/-- `t` is `s` but for the scalar registers and the PC of the issuing thread: register `d` reads `v`, every other as before, and a
write to `s0` writes nothing (R108). -/
def WritesReg (s t : State) (d : Reg) (v pc : Word) : Prop :=
  (∀ r, t.reg r = if r = d ∧ d ≠ 0 then v else s.reg r) ∧
  t = { s with cur := { s.cur with regs := t.cur.regs, pc := pc } }

/-- An arithmetic-slot instruction completes, writes a value to `d` of which `P` holds, and changes nothing else; where the PC then
stands is its bundle's matter. -/
def Gives (i : Instr) (s : State) (d : Reg) (P : Word → Prop) : Prop :=
  ∃ t v pc, exec i s = .next t ∧ P v ∧ WritesReg s t d v pc

/-- The same for a control-slot or long instruction, after which the next bundle comes. -/
def GivesNext (i : Instr) (s : State) (d : Reg) (P : Word → Prop) : Prop :=
  ∃ t v, exec i s = .next t ∧ P v ∧ WritesReg s t d v (s.cur.pc + 8)

/-- A fault of the issuing thread (R309, R315): recorded in its grid with the bundle's PC and counted in NFAULT, unless the grid's threads
have stopped for a fault of an earlier cycle; the bundle without effect, the thread stopped. Holds of a cause other than 0x1A, which R343
reports besides. -/
def Faults (s t : State) (status cause detail : Nat) (fval : Word) : Prop :=
  t = { s with
    grids := s.grids.map fun g =>
      if g.num = s.cur.id.grid ∧ ∀ f ∈ g.faults, f.cycle = s.cycle then
        { g with
          faults := g.faults ++ [⟨s.cycle, true, s.cur.id.team, s.cur.id.thread, status, cause, detail, s.cur.pc, fval⟩]
          nfault := min (g.nfault + 1) 65535 }
      else g
    cur := { s.cur with wait := .faulted }
    aborted := true }

/-! ### Integer instructions -/

/-- Bit `k` of a sign-extended 14-bit immediate. -/
def immBit (i : BitVec 14) (k : Nat) : Bool := i.getLsbD (min k 13)

/-- The sums and products of R128. -/
def Sums : Prop :=
  ∀ (d a b : Reg) (i : BitVec 14) (j : BitVec 13) (s : State),
    Gives (.addi d a i) s d (· = BitVec.ofInt 64 ((s.reg a).toInt + i.toInt)) ∧
    GivesNext (.addiCm d a j) s d (· = BitVec.ofInt 64 ((s.reg a).toInt + j.toInt)) ∧
    Gives (.add d a b) s d (· = BitVec.ofNat 64 ((s.reg a).toNat + (s.reg b).toNat)) ∧
    Gives (.sub d a b) s d (· = BitVec.ofInt 64 ((s.reg a).toInt - (s.reg b).toInt)) ∧
    Gives (.mul d a b) s d (· = BitVec.ofNat 64 ((s.reg a).toNat * (s.reg b).toNat)) ∧
    Gives (.mulh d a b) s d (fun v => v.toInt = (s.reg a).toInt * (s.reg b).toInt / 2 ^ 64) ∧
    Gives (.mulhu d a b) s d (fun v => v.toNat = (s.reg a).toNat * (s.reg b).toNat / 2 ^ 64)

/-- The logic of R128, bit by bit. -/
def Logic : Prop :=
  ∀ (d a b : Reg) (i : BitVec 14) (s : State),
    Gives (.and d a b) s d (fun v => ∀ k < 64, v.getLsbD k = ((s.reg a).getLsbD k && (s.reg b).getLsbD k)) ∧
    Gives (.or d a b) s d (fun v => ∀ k < 64, v.getLsbD k = ((s.reg a).getLsbD k || (s.reg b).getLsbD k)) ∧
    Gives (.xor d a b) s d (fun v => ∀ k < 64, v.getLsbD k = ((s.reg a).getLsbD k != (s.reg b).getLsbD k)) ∧
    Gives (.andi d a i) s d (fun v => ∀ k < 64, v.getLsbD k = ((s.reg a).getLsbD k && immBit i k)) ∧
    Gives (.ori d a i) s d (fun v => ∀ k < 64, v.getLsbD k = ((s.reg a).getLsbD k || immBit i k)) ∧
    Gives (.xori d a i) s d (fun v => ∀ k < 64, v.getLsbD k = ((s.reg a).getLsbD k != immBit i k))

/-- The shifts of R128: by b[5:0] or the immediate. -/
def Shifts : Prop :=
  ∀ (d a b : Reg) (h : BitVec 6) (s : State),
    Gives (.shl d a b) s d (· = BitVec.ofNat 64 ((s.reg a).toNat * 2 ^ ((s.reg b).toNat % 64))) ∧
    Gives (.shr d a b) s d (fun v => v.toNat = (s.reg a).toNat / 2 ^ ((s.reg b).toNat % 64)) ∧
    Gives (.sra d a b) s d (fun v => v.toInt = (s.reg a).toInt / 2 ^ ((s.reg b).toNat % 64)) ∧
    Gives (.shli d a h) s d (· = BitVec.ofNat 64 ((s.reg a).toNat * 2 ^ h.toNat)) ∧
    Gives (.shri d a h) s d (fun v => v.toNat = (s.reg a).toNat / 2 ^ h.toNat) ∧
    Gives (.srai d a h) s d (fun v => v.toInt = (s.reg a).toInt / 2 ^ h.toNat)

/-- The comparisons of R128. -/
def Comparisons : Prop :=
  ∀ (d a b : Reg) (i : BitVec 14) (s : State),
    Gives (.slt d a b) s d (fun v => v.toNat = if (s.reg a).toInt < (s.reg b).toInt then 1 else 0) ∧
    Gives (.sltu d a b) s d (fun v => v.toNat = if (s.reg a).toNat < (s.reg b).toNat then 1 else 0) ∧
    Gives (.slti d a i) s d (fun v => v.toNat = if (s.reg a).toInt < i.toInt then 1 else 0) ∧
    Gives (.seq d a b) s d (fun v => v.toNat = if s.reg a = s.reg b then 1 else 0) ∧
    Gives (.min d a b) s d (fun v => v.toInt = min (s.reg a).toInt (s.reg b).toInt) ∧
    Gives (.max d a b) s d (fun v => v.toInt = max (s.reg a).toInt (s.reg b).toInt) ∧
    Gives (.minu d a b) s d (fun v => v.toNat = min (s.reg a).toNat (s.reg b).toNat) ∧
    Gives (.maxu d a b) s d (fun v => v.toNat = max (s.reg a).toNat (s.reg b).toNat)

/-- The counts and the byte swap of R128. -/
def Counts : Prop :=
  ∀ (d a : Reg) (s : State),
    Gives (.clz d a) s d (fun v => if s.reg a = 0 then v.toNat = 64 else
      v.toNat < 64 ∧ (s.reg a).getLsbD (63 - v.toNat) = true ∧ ∀ k, 63 - v.toNat < k → (s.reg a).getLsbD k = false) ∧
    Gives (.ctz d a) s d (fun v => if s.reg a = 0 then v.toNat = 64 else
      v.toNat < 64 ∧ (s.reg a).getLsbD v.toNat = true ∧ ∀ k < v.toNat, (s.reg a).getLsbD k = false) ∧
    Gives (.popc d a) s d (fun v => v.toNat = ((List.range 64).filter fun k => (s.reg a).getLsbD k).length) ∧
    Gives (.bswap d a) s d (fun v => ∀ j < 8, v.extractLsb' (8 * j) 8 = (s.reg a).extractLsb' (8 * (7 - j)) 8)

/-- The quotient q of R129. -/
def quotient (signed : Bool) (a b : Word) : Int :=
  if b = 0 then 2 ^ 64 - 1
  else if signed ∧ a.toInt = -2 ^ 63 ∧ b.toInt = -1 then a.toInt
  else if signed then a.toInt.tdiv b.toInt else (a.toNat / b.toNat : Nat)

/-- The remainder r of R129. -/
def remainder (signed : Bool) (a b : Word) : Int :=
  if b = 0 then a.toInt
  else if signed ∧ a.toInt = -2 ^ 63 ∧ b.toInt = -1 then 0
  else if signed then a.toInt - a.toInt.tdiv b.toInt * b.toInt else (a.toNat - a.toNat / b.toNat * b.toNat : Nat)

/-- w' of R130. -/
def clipped (o w : BitVec 7) : Nat := if o.toNat < 64 then min w.toNat (64 - o.toNat) else 0

/-- Bit `k` of the field f of R130, read on from its top bit. -/
def fieldBit (a : Word) (o w : BitVec 7) (k : Nat) : Bool := a.getLsbD (o.toNat + min k (clipped o w - 1))

end Sys2Proof.Claims

open Sys2Proof Sys2Proof.Machine Sys2Proof.Claims

/-- R128: every result of the table, all other registers, flags and state as they were, no trap and no fault. -/
def Sys2Proof.Claims.IntegerInstructionsComputeTheTable : Prop := Sums ∧ Logic ∧ Shifts ∧ Comparisons ∧ Counts

/-- R129: division truncates toward zero; every combination of operands has a result. -/
def Sys2Proof.Claims.DivisionHasEveryResult : Prop :=
  ∀ (d a b : Reg) (s : State),
    Gives (.div d a b) s d (· = BitVec.ofInt 64 (quotient true (s.reg a) (s.reg b))) ∧
    Gives (.divu d a b) s d (· = BitVec.ofInt 64 (quotient false (s.reg a) (s.reg b))) ∧
    Gives (.rem d a b) s d (· = BitVec.ofInt 64 (remainder true (s.reg a) (s.reg b))) ∧
    Gives (.remu d a b) s d (· = BitVec.ofInt 64 (remainder false (s.reg a) (s.reg b)))

/-- R130: the field clipped to the register. -/
def Sys2Proof.Claims.BitFieldsAreClipped : Prop :=
  ∀ (d a : Reg) (o w : BitVec 7) (s : State),
    Gives (.bextu d a o w) s d (fun v => ∀ k < 64, v.getLsbD k =
      (decide (k < clipped o w) && (s.reg a).getLsbD (o.toNat + k))) ∧
    Gives (.bext d a o w) s d (fun v => ∀ k < 64, v.getLsbD k =
      (decide (0 < clipped o w) && fieldBit (s.reg a) o w k)) ∧
    Gives (.bins d a o w) s d (fun v => ∀ k < 64, v.getLsbD k =
      if o.toNat ≤ k ∧ k < o.toNat + clipped o w then (s.reg a).getLsbD (k - o.toNat) else (s.reg d).getLsbD k)

/-- R131 (`sel`), with the results of R132 and the `nop` of R251 beside it. -/
def Sys2Proof.Claims.SelectAndImmediates : Prop :=
  ∀ (d a b c : Reg) (i : BitVec 51) (j : BitVec 32) (s : State),
    GivesNext (.sel d a b c) s d (fun v => v.toNat = if (s.reg a).toNat ≠ 0 then (s.reg b).toNat else (s.reg c).toNat) ∧
    GivesNext (.li d i) s d (fun v => v.toInt = i.toInt) ∧
    GivesNext (.lih d j) s d (fun v => v.toNat = j.toNat * 2 ^ 32 + (s.reg d).toNat % 2 ^ 32) ∧
    (∃ t, exec .nop s = .next t ∧ t = { s with cur := { s.cur with pc := s.cur.pc + 8 } }) ∧
    ∃ t, exec .nopArithmetic s = .next t ∧ t = { s with cur := { s.cur with pc := t.cur.pc } }

/-- R143: where each branch goes. -/
def Sys2Proof.Claims.BranchesGoWhereTheirConditionSays : Prop :=
  ∀ (a b : Reg) (o : BitVec 17) (s : State),
    let go := fun (i : Instr) (t : Prop) [Decidable t] =>
      exec i s = .next { s with cur := { s.cur with
        pc := BitVec.ofInt 64 (s.cur.pc.toInt + if t then 8 * o.toInt else 8) } }
    go (.bEq a b o) (s.reg a = s.reg b) ∧ go (.bNe a b o) (s.reg a ≠ s.reg b) ∧
    go (.bLt a b o) ((s.reg a).toInt < (s.reg b).toInt) ∧ go (.bGe a b o) ((s.reg b).toInt ≤ (s.reg a).toInt) ∧
    go (.bLtu a b o) ((s.reg a).toNat < (s.reg b).toNat) ∧ go (.bGeu a b o) ((s.reg b).toNat ≤ (s.reg a).toNat)

/-- R144: the links and targets of the jumps; a misaligned `jr` faults (cause 0x12, DETAIL 0x30, FVAL the target: R330, R333). -/
def Sys2Proof.Claims.JumpsLinkAndGo : Prop :=
  ∀ (d a : Reg) (o : BitVec 21) (i : BitVec 13) (s : State),
    let target := BitVec.ofInt 64 ((s.reg a).toInt + i.toInt)
    (∃ t, exec (.jal d o) s = .next t ∧ WritesReg s t d (BitVec.ofNat 64 (s.cur.pc.toNat + 8)) (BitVec.ofInt 64 (s.cur.pc.toInt + 8 * o.toInt))) ∧
    (target.toNat % 8 = 0 →
      ∃ t, exec (.jr d a i) s = .next t ∧ WritesReg s t d (BitVec.ofNat 64 (s.cur.pc.toNat + 8)) target) ∧
    (target.toNat % 8 ≠ 0 → ∃ t, exec (.jr d a i) s = .next t ∧ Faults s t 1 0x12 0x30 target)

/-- R128, R129: the parts above together. -/
def Obligations.IntegerInstructionsAndDivision : Prop := IntegerInstructionsComputeTheTable ∧ DivisionHasEveryResult

/-- R130, R131, R132, R251: the parts above together. -/
def Obligations.BitFieldsSelectAndImmediates : Prop := BitFieldsAreClipped ∧ SelectAndImmediates

/-- R143, R144: the parts above together. -/
def Obligations.BranchesAndJumps : Prop := BranchesGoWhereTheirConditionSays ∧ JumpsLinkAndGo

namespace Sys2Proof.Claims

/-! ### Scalar floating point -/

/-- `t` is `s` but for the scalar registers, FFLAGS and the PC of the issuing thread: `d` reads `v`, the flags are ORed in (R134),
also when `d` is `s0` (R133). -/
def WritesFloat (s t : State) (d : Reg) (r : Nat × Flags) (pc : Word) : Prop :=
  (∀ n, t.reg n = if n = d ∧ d ≠ 0 then BitVec.ofNat 64 r.1 else s.reg n) ∧
  (∀ k < 64, t.cur.tstat.getLsbD k = (s.cur.tstat.getLsbD k || (decide (k < 5) && r.2.getLsbD k))) ∧
  t = { s with cur := { s.cur with regs := t.cur.regs, tstat := t.cur.tstat, pc := pc } }

/-- An arithmetic-slot floating-point instruction completes with a result; where the PC then stands is its bundle's matter. -/
def GivesFloat (i : Instr) (s : State) (d : Reg) (r : Nat × Flags) : Prop :=
  ∃ t pc, exec i s = .next t ∧ WritesFloat s t d r pc

/-- The layout of a precision (R89). -/
def layout (p : Prec) : Fmt := match p with | .s => ⟨8, 23, true⟩ | .d => ⟨11, 52, true⟩

/-- The pattern of an operand (R133): with `.s` bits [63:32] are ignored. -/
def pattern (p : Prec) (v : Word) : Nat := match p with | .s => v.toNat % 2 ^ 32 | .d => v.toNat

/-- Its value. -/
def value (p : Prec) (v : Word) : FV := (layout p).decode (pattern p v)

/-- The canonical NaN (R89, R93). -/
def quietNaN (p : Prec) : Nat := match p with | .s => 0x7FC00000 | .d => 0x7FF8000000000000

/-- ±∞ and ±0. -/
def infinity (p : Prec) (neg : Bool) : Nat :=
  (match p with | .s => 0x7F800000 | .d => 0x7FF0000000000000) + if neg then (match p with | .s => 2 ^ 31 | .d => 2 ^ 63) else 0
def zero (p : Prec) (neg : Bool) : Nat := if neg then (match p with | .s => 2 ^ 31 | .d => 2 ^ 63) else 0

/-- FRM of `TSTAT` (R94, R242): 4–7 are taken as 0. -/
def modeOf (s : State) : RMode :=
  match s.cur.tstat.toNat / 32 % 8 with | 1 => .z | 2 => .down | 3 => .up | _ => .ne

/-- Lines 02–05 of R135 for a sum, with its invalid case ∞ − ∞. -/
def sumResult (p : Prec) (m : RMode) (x y : FV) : Nat × Flags :=
  match x, y with
  | .nan, _ => (quietNaN p, 0)
  | _, .nan => (quietNaN p, 0)
  | .inf a, .inf b => if a = b then (infinity p a, 0) else (quietNaN p, 16)
  | .inf a, .fin _ _ _ => (infinity p a, 0)
  | .fin _ _ _, .inf b => (infinity p b, 0)
  | .fin _ _ _, .fin _ _ _ => (layout p).round m (sumFV (m == .down) [x, y])

/-- The value with the other sign. -/
def negated (x : FV) : FV := match x with | .nan => .nan | .inf a => .inf !a | .fin a m e => .fin (!a) m e

/-- A product: 0 × ∞ is invalid. -/
def productResult (p : Prec) (m : RMode) (x y : FV) : Nat × Flags :=
  match x, y with
  | .nan, _ => (quietNaN p, 0)
  | _, .nan => (quietNaN p, 0)
  | .inf a, .inf b => (infinity p (a != b), 0)
  | .inf a, .fin b n _ => if n = 0 then (quietNaN p, 16) else (infinity p (a != b), 0)
  | .fin a n _, .inf b => if n = 0 then (quietNaN p, 16) else (infinity p (a != b), 0)
  | .fin a n e, .fin b k f => (layout p).round m (.fin (a != b) (n * k) (e + f))

/-- A quotient: 0/0 and ∞/∞ are invalid; a finite non-zero value over zero raises DZ. -/
def quotientResult (p : Prec) (m : RMode) (x y : FV) : Nat × Flags :=
  match x, y with
  | .nan, _ => (quietNaN p, 0)
  | _, .nan => (quietNaN p, 0)
  | .inf _, .inf _ => (quietNaN p, 16)
  | .inf a, .fin b _ _ => (infinity p (a != b), 0)
  | .fin a _ _, .inf b => (zero p (a != b), 0)
  | .fin a n e, .fin b k f =>
    if n = 0 ∧ k = 0 then (quietNaN p, 16)
    else if k = 0 then (infinity p (a != b), 8)
    else if n = 0 then (zero p (a != b), 0)
    else (layout p).roundFrac m (a != b) n k (e - f)

/-- `ffma` (R136): 0 × ∞ is invalid even when c is NaN. -/
def fusedResult (p : Prec) (m : RMode) (x y z : FV) : Nat × Flags :=
  match x, y with
  | .nan, _ => (quietNaN p, 0)
  | _, .nan => (quietNaN p, 0)
  | .inf a, .inf b => sumResult p m (.inf (a != b)) z
  | .inf a, .fin b n _ => if n = 0 then (quietNaN p, 16) else sumResult p m (.inf (a != b)) z
  | .fin a n _, .inf b => if n = 0 then (quietNaN p, 16) else sumResult p m (.inf (a != b)) z
  | .fin a n e, .fin b k f => sumResult p m (.fin (a != b) (n * k) (e + f)) z

/-- The value of ± m · 2^e. -/
def rational (neg : Bool) (m : Nat) (e : Int) : ℚ := (if neg then -(m : ℚ) else m) * (2 : ℚ) ^ e

/-- A value that is not NaN in its order, −∞ first. -/
def place (x : FV) : WithBot (WithTop ℚ) :=
  match x with
  | .nan => ⊥
  | .inf true => ⊥
  | .inf false => ((⊤ : WithTop ℚ) : WithBot (WithTop ℚ))
  | .fin a m e => ((rational a m e : WithTop ℚ) : WithBot (WithTop ℚ))

/-- The table of R138. -/
def comparison (cc : FCond) (x y : FV) : Prop :=
  match cc with
  | .eq => x ≠ .nan ∧ y ≠ .nan ∧ place x = place y
  | .lt => x ≠ .nan ∧ y ≠ .nan ∧ place x < place y
  | .le => x ≠ .nan ∧ y ≠ .nan ∧ place x ≤ place y
  | .un => x = .nan ∨ y = .nan

/-- The flags of R138: NV for `lt` and `le` with a NaN. -/
def comparisonFlags (cc : FCond) (x y : FV) : Flags :=
  if (x = .nan ∨ y = .nan) ∧ (cc = .lt ∨ cc = .le) then 16 else 0

/-- What R137 says of `fmin` (`low`) and `fmax` over patterns. -/
def ChosenOf (f : Fmt) (low : Bool) (a b r : Nat) : Prop :=
  let v := f.decode
  if v a = .nan ∧ v b = .nan then r = f.canonNaN
  else if v a = .nan then r = b
  else if v b = .nan then r = a
  else (r = a ∨ r = b) ∧
    (if low then place (v r) ≤ place (v a) ∧ place (v r) ≤ place (v b) else place (v a) ≤ place (v r) ∧ place (v b) ≤ place (v r)) ∧
    (place (v a) = 0 → place (v b) = 0 → (v r).neg? = if low then (v a).neg? || (v b).neg? else (v a).neg? && (v b).neg?)

/-- The bit of R139. -/
def classBit (p : Prec) (x : FV) : Nat :=
  match x with
  | .nan => 8
  | .inf true => 0
  | .inf false => 7
  | .fin true m _ => if m = 0 then 3 else if m < 2 ^ (layout p).fb then 2 else 1
  | .fin false m _ => if m = 0 then 4 else if m < 2 ^ (layout p).fb then 5 else 6

/-- The sign bit of a precision. -/
def signBit (p : Prec) : Nat := match p with | .s => 31 | .d => 63

/-- The magnitude of the pattern `n` without sign (R89); the pattern of ∞ stands for the value at which the grid goes on. -/
def gridValue (f : Fmt) (n : Nat) : ℚ :=
  let e := n / 2 ^ f.fb
  (if e = 0 then (n : ℚ) else ((2 ^ f.fb + n % 2 ^ f.fb : Nat) : ℚ)) * (2 : ℚ) ^ ((max e 1 : Nat) - (2 ^ (f.eb - 1) - 1 : Int) - (f.fb : Int))

/-- The smallest normal value, and the step of values of the same precision just below it. -/
def smallest (f : Fmt) : ℚ := gridValue f (2 ^ f.fb)
def stepBelow (f : Fmt) : ℚ := smallest f / 2 ^ (f.fb + 1)

/-- Does a mode take an inexact value of this sign away from zero (R94)? -/
def awayFromZero (mode : RMode) (neg : Bool) : Bool := (mode == .up && !neg) || (mode == .down && neg)

/-- The pattern that a mode takes of two neighbours `n` and `n + 1`, between which the value lies whose `k`-th power is `x` (R94). -/
def chosenPattern (f : Fmt) (mode : RMode) (neg : Bool) (k : Nat) (x : ℚ) (n : Nat) : Nat :=
  let mid := ((gridValue f n + gridValue f (n + 1)) / 2) ^ k
  if mode = .ne then (if x < mid then n else if mid < x then n + 1 else if n % 2 = 0 then n else n + 1)
  else if awayFromZero mode neg then n + 1 else n

/-- `r` is the pattern and the flags of the value of this sign whose magnitude's `k`-th power is `x`, as R94 rounds it, R91 has it
overflow and R95 flags it: NX 1, with UF 3 where the value is below the smallest normal one also when it is rounded without a bound on
its exponent, with OF 5. -/
def RoundedTo (f : Fmt) (mode : RMode) (neg : Bool) (k : Nat) (x : ℚ) (r : Nat × Flags) : Prop :=
  let top := (2 ^ f.eb - 1) * 2 ^ f.fb
  let signed := fun n : Nat => if neg then 2 ^ (f.eb + f.fb) + n else n
  let beyond : Nat × Flags := (signed (if mode = .ne ∨ awayFromZero mode neg = true then top else top - 1), 5)
  let tiny :=
    if mode = .ne then x < (smallest f - stepBelow f / 2) ^ k
    else if awayFromZero mode neg then x ≤ (smallest f - stepBelow f) ^ k
    else x < smallest f ^ k
  (gridValue f top ^ k ≤ x → r = beyond) ∧
  ∀ n < top, gridValue f n ^ k ≤ x → x < gridValue f (n + 1) ^ k →
    if x = gridValue f n ^ k then r = (signed n, 0)
    else if chosenPattern f mode neg k x n = top then r = beyond
    else r.1 = signed (chosenPattern f mode neg k x n) ∧ (tiny → r.2 = 3) ∧ (¬ tiny → r.2 = 1)

/-- `v` is the integer to which a mode rounds a value (R94, R142). -/
def RoundedInt (mode : RMode) (x : ℚ) (v : Int) : Prop :=
  match mode with
  | .ne => |x - v| ≤ 1 / 2 ∧ (|x - v| = 1 / 2 → v % 2 = 0)
  | .z => v = if x < 0 then ⌈x⌉ else ⌊x⌋
  | .down => v = ⌊x⌋
  | .up => v = ⌈x⌉

/-- The formats of scalar results, as R91, R94 and R95 have values rounded into them: quotients, values, zeros. -/
def RoundingFollowsTheMode : Prop :=
  ∀ (f : Fmt) (mode : RMode) (neg : Bool) (n d : Nat) (e : Int), f ∈ [Fmt.fp64, Fmt.fp32, Fmt.bf16] → 0 < n → 0 < d →
    RoundedTo f mode neg 1 ((n : ℚ) / d * (2 : ℚ) ^ e) (f.roundFrac mode neg n d e) ∧
    RoundedTo f mode neg 1 ((n : ℚ) * (2 : ℚ) ^ e) (f.round mode (.fin neg n e)) ∧
    f.round mode (.fin neg 0 e) = (if neg then 2 ^ (f.eb + f.fb) else 0, 0)

/-- R94, R142: a value rounded to an integer, and whether that was exact. -/
def IntegersFollowTheMode : Prop :=
  ∀ (mode : RMode) (neg : Bool) (m : Nat) (e : Int),
    RoundedInt mode (rational neg m e) (roundInt mode neg m e).1 ∧
    ((roundInt mode neg m e).2 = true ↔ ((roundInt mode neg m e).1 : ℚ) = rational neg m e)

end Sys2Proof.Claims

/-- The exact result of R135 and R136, rounded once by FRM, with NaN, infinities and zeros as they say; the flags ORed into FFLAGS and
nothing else changed (R133, R134); rounding by FRM with its flags is that of R91, R94 and R95. -/
def Obligations.FloatArithmeticRoundsOnce : Prop :=
  RoundingFollowsTheMode ∧
  ∀ (p : Prec) (d a b c : Reg) (s : State),
    let m := modeOf s
    let x := value p (s.reg a)
    let y := value p (s.reg b)
    let z := value p (s.reg c)
    GivesFloat (.fadd p d a b) s d (sumResult p m x y) ∧
    GivesFloat (.fsub p d a b) s d (sumResult p m x (negated y)) ∧
    GivesFloat (.fmul p d a b) s d (productResult p m x y) ∧
    GivesFloat (.fdiv p d a b) s d (quotientResult p m x y) ∧
    (∃ r, GivesFloat (.fsqrt p d a) s d r ∧
      match x with
      | .nan => r = (quietNaN p, 0)
      | .inf neg => r = if neg then (quietNaN p, 16) else (infinity p false, 0)
      | .fin neg n e => (n = 0 → r = (zero p neg, 0)) ∧ (n ≠ 0 → neg = true → r = (quietNaN p, 16)) ∧
        (n ≠ 0 → neg = false → RoundedTo (layout p) m false 2 (rational false n e) r)) ∧
    (∃ t, exec (.ffma p d a b c) s = .next t ∧ WritesFloat s t d (fusedResult p m x y z) (s.cur.pc + 8))

/-- R137: the operand chosen by `fmin` and `fmax`, exactly, and no flag. -/
def Sys2Proof.Claims.MinimumAndMaximumChooseAnOperand : Prop :=
  ∀ (p : Prec) (d a b : Reg) (s : State),
    (∃ r, GivesFloat (.fmin p d a b) s d (r, 0) ∧ ChosenOf (layout p) true (pattern p (s.reg a)) (pattern p (s.reg b)) r) ∧
    (∃ r, GivesFloat (.fmax p d a b) s d (r, 0) ∧ ChosenOf (layout p) false (pattern p (s.reg a)) (pattern p (s.reg b)) r)

/-- R138, R139: the comparison's 1 or 0 with its flags; the class bit with none. -/
def Sys2Proof.Claims.CompareAndClassify : Prop :=
  ∀ (p : Prec) (cc : FCond) (d a b : Reg) (s : State),
    let x := value p (s.reg a)
    let y := value p (s.reg b)
    (∃ v, GivesFloat (.fcmp p cc d a b) s d (v, comparisonFlags cc x y) ∧ (v = 0 ∨ v = 1) ∧ (v = 1 ↔ comparison cc x y)) ∧
    GivesFloat (.fclass p d a) s d (2 ^ classBit p x, 0)

/-- R140: the sign of `fsgn`, every other bit of the operand kept, no flag. -/
def Sys2Proof.Claims.SignManipulationKeepsOtherBits : Prop :=
  ∀ (k : BitVec 2) (p : Prec) (d a b : Reg) (s : State), k.toNat < 3 →
    let sa := (s.reg a).getLsbD (signBit p)
    let sb := (s.reg b).getLsbD (signBit p)
    ∃ v, GivesFloat (.fsgn k p d a b) s d (v, 0) ∧ v < 2 ^ (signBit p + 1) ∧ v % 2 ^ signBit p = (s.reg a).toNat % 2 ^ signBit p ∧
      v.testBit (signBit p) = (match k.toNat with | 0 => sb | 1 => !sb | _ => sa != sb)

/-- R141, R142 between a floating type and an integer: the integer read and the place of the result, the ends of the range with NV, 0
with NV for NaN; an integer converted to a floating type is its rounding by FRM; and the rounding to an integer is that of R94. -/
def Obligations.ConversionToAndFromIntegers : Prop :=
  IntegersFollowTheMode ∧
  ∀ (t st : BitVec 4) (d a : Reg) (s : State),
    let bits := (s.reg a).toNat
    let range : Int × Int := match t.toNat with
      | 3 => (-2 ^ 63, 2 ^ 63 - 1) | 4 => (0, 2 ^ 64 - 1) | 5 => (-2 ^ 31, 2 ^ 31 - 1) | _ => (0, 2 ^ 32 - 1)
    let source : Int := match st.toNat with
      | 3 => (BitVec.ofNat 64 bits).toInt | 4 => bits | 5 => (BitVec.ofNat 32 bits).toInt | _ => (bits % 2 ^ 32 : Nat)
    let float := fun (n : Nat) => match n with | 0 => Fmt.fp64 | 1 => Fmt.fp32 | _ => Fmt.bf16
    let width := match st.toNat with | 0 => 64 | 1 => 32 | _ => 16
    -- a floating source, an integer result
    (st.toNat ≤ 2 → 3 ≤ t.toNat → t.toNat ≤ 6 → ∃ (v : Int) (f : Flags),
      GivesFloat (.fcvt t st d a) s d ((BitVec.ofInt 64 v).toNat, f) ∧
      match (float st.toNat).decode (bits % 2 ^ width) with
      | .nan => v = 0 ∧ f = 16
      | .inf neg => v = (if neg then range.1 else range.2) ∧ f = 16
      | .fin neg m e =>
        let r := roundInt (modeOf s) neg m e
        (r.1 < range.1 → v = range.1 ∧ f = 16) ∧ (range.2 < r.1 → v = range.2 ∧ f = 16) ∧
        (range.1 ≤ r.1 → r.1 ≤ range.2 → v = r.1 ∧ f = if r.2 then 0 else 1)) ∧
    -- an integer source, a floating result
    (t.toNat ≤ 2 → 3 ≤ st.toNat → st.toNat ≤ 6 →
      GivesFloat (.fcvt t st d a) s d ((float t.toNat).round (modeOf s) (.fin (decide (source < 0)) source.natAbs 0))) ∧
    -- between floating types
    (t.toNat ≤ 2 → st.toNat ≤ 2 → t ≠ st →
      GivesFloat (.fcvt t st d a) s d ((float t.toNat).round (modeOf s) ((float st.toNat).decode (bits % 2 ^ width))))

namespace Sys2Proof.Claims

/-- Exponent and fraction bits of a floating element type (R89). -/
def fieldsOf (t : Elem) : Nat × Nat := match t with | .fp64 => (11, 52) | .fp32 => (8, 23) | .bf16 => (8, 7) | _ => (4, 3)

/-- The magnitude of a pattern without its sign, in units of 2^-1074 (R89): a pattern of exponent 0 has no leading one. -/
def unitsOf (t : Elem) (x : Nat) : Nat :=
  let fb := (fieldsOf t).2
  let e := x / 2 ^ fb
  (if e = 0 then x else (2 ^ fb + x % 2 ^ fb) * 2 ^ (e - 1)) * 2 ^ (1075 - (2 ^ ((fieldsOf t).1 - 1) - 1 + fb))

/-- The sign bit, the pattern without it, the pattern of the canonical NaN, and the largest that a rounded value takes: ∞, or 448. -/
def signPart (t : Elem) : Nat := 2 ^ ((fieldsOf t).1 + (fieldsOf t).2)
def barePart (t : Elem) (x : Nat) : Nat := x % signPart t
def nanOf (t : Elem) : Nat := match t with | .fp64 => 0x7FF8000000000000 | .fp32 => 0x7FC00000 | .bf16 => 0x7FC0 | _ => 0x7F
def topOf (t : Elem) : Nat := match t with | .fp64 => 0x7FF0000000000000 | .fp32 => 0x7F800000 | .bf16 => 0x7F80 | _ => 0x7E

/-- The distance of two numbers. -/
def apart (m n : Nat) : Nat := (m - n) + (n - m)

/-- `p` is the pattern nearest to a magnitude, the even one of two at one distance; what lies beyond the largest is that one (R91). -/
def Nearest (t : Elem) (m p : Nat) : Prop :=
  p ≤ topOf t ∧ ∀ n ≤ topOf t, apart (unitsOf t p) m < apart (unitsOf t n) m ∨ n = p ∨
    apart (unitsOf t p) m = apart (unitsOf t n) m ∧ p % 2 = 0

/-- The integer that a pattern of an integer type stands for, and the range of the type. -/
def integerOf (t : Elem) (x : Nat) : Int := match t with | .int8 => (BitVec.ofNat 8 x).toInt | _ => (BitVec.ofNat 32 x).toInt
def lowest (t : Elem) : Int := match t with | .int8 => -128 | _ => -2147483648
def highest (t : Elem) : Int := match t with | .int8 => 127 | _ => 2147483647

end Sys2Proof.Claims

/-- R58, R59, R91, R175: an element converted to another type: between floating types to the nearest value, ties to even, E4M3 saturated
at ±448, NaN to the canonical NaN; to an integer toward zero and saturated, NaN to 0; an equal type copies bits. The scalar views decode
and encode by the same rule, and extend or saturate integers. -/
def Sys2Proof.Claims.ElementsConvert : Prop :=
  let float := fun t : Elem => t ≠ .int32 ∧ t ≠ .int8
  (∀ t x, Elem.convert x t t = x) ∧
  (∀ t u x, float t → float u → t ≠ u → x < 2 * signPart t →
    let m := barePart t x
    let sign := x / signPart t * signPart u
    (topOf t < m → Elem.convert x t u = nanOf u) ∧
    (m = topOf t → t ≠ .e4m3 → Elem.convert x t u = sign + topOf u) ∧
    (m < topOf t ∨ m = topOf t ∧ t = .e4m3 → ∃ p, Elem.convert x t u = sign + p ∧ Nearest u (unitsOf t m) p)) ∧
  (∀ t u x, float t → ¬ float u → x < 2 * signPart t →
    let m := barePart t x
    let v : Int := (if x / signPart t = 1 then -1 else 1) * (unitsOf t m / 2 ^ 1074 : Nat)
    (topOf t < m → Elem.convert x t u = 0) ∧
    (m < topOf t ∨ m = topOf t ∧ t = .e4m3 → integerOf u (Elem.convert x t u) = max (lowest u) (min (highest u) v)) ∧
    (m = topOf t → t ≠ .e4m3 → integerOf u (Elem.convert x t u) = if x / signPart t = 1 then lowest u else highest u)) ∧
  (∀ t u x, ¬ float t → float u → ∃ p, Elem.convert x t u = (if integerOf t x < 0 then signPart u else 0) + p ∧
    Nearest u ((integerOf t x).natAbs * 2 ^ 1074) p) ∧
  (∀ t u x, ¬ float t → ¬ float u → t ≠ u → integerOf u (Elem.convert x t u) = max (lowest u) (min (highest u) (integerOf t x))) ∧
  (∀ (size : Nat) (uns : Bool) (v : Word),
    (∀ n, size = n → n = 1 ∨ n = 2 ∨ n = 4 ∨ n = 8 →
      let w := v.toNat % 2 ^ (8 * n)
      (viewDecode 0 size uns v).toNat = if uns = true ∨ w < 2 ^ (8 * n - 1) then w else 2 ^ 64 - 2 ^ (8 * n) + w) ∧
    (viewDecode 1 size uns v).toNat = Elem.convert (v.toNat % 2 ^ 8) .e4m3 .fp32 ∧
    (viewDecode 2 size uns v).toNat = Elem.convert (v.toNat % 2 ^ 16) .bf16 .fp32 ∧
    (viewDecode 3 size uns v).toNat = v.toNat % 2 ^ 32 ∧ (viewDecode 4 size uns v).toInt = (BitVec.ofNat 8 v.toNat).toInt ∧
    viewDecode 5 size uns v = v) ∧
  ∀ v : Word,
    viewEncode 0 v = v ∧ (viewEncode 1 v).toNat = Elem.convert (v.toNat % 2 ^ 32) .fp32 .e4m3 ∧
    (viewEncode 2 v).toNat = Elem.convert (v.toNat % 2 ^ 32) .fp32 .bf16 ∧ viewEncode 3 v = v ∧
    (viewEncode 4 v).toInt = max (-128) (min 127 v.toInt) ∧ viewEncode 5 v = v

/-- R89, R91, R94: a value that a format holds is rounded to its own pattern, by every mode and without a flag. -/
def Sys2Proof.Claims.ValuesOfAFormatRoundToThemselves : Prop :=
  ∀ (f : Fmt) (mode : RMode) (n : Nat), f ∈ [Fmt.fp64, Fmt.fp32, Fmt.bf16, Fmt.e4m3] → n < 2 ^ (f.eb + f.fb + 1) →
    f.decode n ≠ .nan → f.round mode (f.decode n) = (n, 0)

/-- R58, R59, R89, R91, R94, R175: the parts above together. -/
def Obligations.FormatsKeepTheirValuesAndConvert : Prop := ValuesOfAFormatRoundToThemselves ∧ ElementsConvert

/-- R137, R138, R139, R140: the parts above together. -/
def Obligations.MinimumCompareClassifyAndSign : Prop := MinimumAndMaximumChooseAnOperand ∧ CompareAndClassify ∧ SignManipulationKeepsOtherBits

namespace Sys2Proof.Claims

/-! ### Accesses to memory -/

/-- The units at offsets from an address are mapped (R50–R55), and writable where that is asked; `keys` are their places, `u` is the
machine after the translation, which may have taken a translation into the TLB or drawn whether a stale one is used. -/
def Mapped (s u : State) (ea : Word) (offsets : List Nat) (writable : Bool) (keys : List Nat) : Prop :=
  ∃ ps : List (Nat × Bool × Bool),
    s.places s.cur.id.grid (offsets.map (eaPlus ea)) =
      ((offsets.map (eaPlus ea)).zip (ps.map fun p => Place.mem p.1 p.2.1 p.2.2), u) ∧
    ps.length = offsets.length ∧ (writable = true → ∀ p ∈ ps, p.2.1 = true) ∧ keys = ps.map (·.1)

/-- The view fits a scalar access of `z` bytes (R58): raw, or the view of an element of that size. -/
def FitsView (v z : Nat) : Prop := v = 0 ∨ (v, z) ∈ [(1, 1), (2, 2), (3, 4), (4, 1), (5, 8)]

/-- Nothing moves the thread to the data (R37). -/
def StaysHere (u : State) (keys : List Nat) : Prop := u.migrationFor (keys.headD 0) = none

/-- A request as the issuing thread of `u` sends it (R39, R73, R78). -/
def requestOf (u : State) (op : ReqOp) (pieces : List Piece) (dest : Dest) (isLoad isStore : Bool) (counter : Counter)
    (phase : BitVec 2) (ea : Word) : Req :=
  { id := u.fresh, tid := u.cur.id, core := u.cur.core, op := op, pieces := pieces, dest := dest, isLoad := isLoad, isStore := isStore,
    counter := counter, phase := phase, epoch := u.cur.epoch, ea := ea, fpc := u.cur.pc, queue := (u.gridD u.cur.id.grid).queue,
    dataFrom := none, tile := none, parked := false, held := false, misrouted := false, orphan := false }

/-- One unit of an access at an address: its offset, its key, its length and what it stores (R71). -/
def unitAt (ea : Word) (off k n : Nat) (data : Word) : Piece := ⟨eaPlus ea off, k, n, data, false, 0, 0⟩

/-- The machine once a request has entered the fabric: its registers wait for it (R8), its counter has risen (R156), one message is
counted for each home that the core's data cache does not answer for (R45, R61), a load cuts what the thread's read streams have fetched of its bytes (R73, R160), and a store
into another package is remembered (R355). -/
def sent (u : State) (r : Req) (waits : List Reg) (c : Thread) : State :=
  { u with
    fabric := u.fabric ++ [r]
    fresh := u.fresh + 1
    teams := u.teams.map fun x =>
      if x.grid = u.cur.id.grid ∧ x.lteam = u.cur.id.team then
        { x with sent := ((homeKeys (r.pieces.filter fun p => !u.cacheServes c.core r.op p.key)).map u.sentTo).foldl (fun l e => addSent e l) x.sent } else x
    cur := { (if r.isLoad && !r.dest.isStream then u.cutStreams c r.pieces else c) with
      far := c.far || (r.isStore && r.pieces.any fun p => u.farKey p.key)
      awaiting := c.awaiting ++ (waits.filter (· ≠ 0)).map fun d => (d, u.fresh)
      cntL := match r.counter with | .l => c.cntL + 1 | _ => c.cntL
      cntS := match r.counter with | .s => c.cntS + 1 | _ => c.cntS } }

/-- The next bundle. -/
def nextBundle (t : Thread) : Thread := { t with pc := t.pc + 8 }

/-- A release (R78): the phase is closed, with the first request number after it, and the next one begins. -/
def released (s : State) (scope : Nat) (t : Thread) : Thread :=
  { t with phaseNo := t.phaseNo + 1, closed := t.closed ++ [⟨t.phaseNo, s.fresh, scope == 5, t.far⟩], far := false }

/-- The scope of the release of a fill (R76): `domain` when the home lies in another package, else `package`. -/
def fillScope (s : State) (ea : Word) : Nat :=
  match s.keyNow s.cur.id.grid (locOf ea) with | some k => if s.farKey k then 5 else 4 | none => 4

/-- A scalar load of `z` bytes (R146, R147, R156). -/
def LoadIssues (i : Instr) (s : State) (d a : Reg) (imm : BitVec 13) (z : Nat) (uns : Bool) : Prop :=
  ∀ (u : State) (k : Nat),
    let ea := effAddr (s.reg a) imm.toInt
    FitsView (viewOf ea) z → locOf ea % z = 0 → Mapped s u ea [0] false [k] → StaysHere u [k] →
    exec i s = .next (sent u
      (requestOf u .read [unitAt ea 0 k z 0] (.scalar d (viewOf ea) z uns) true false .l u.cur.phaseNo ea) [d] (nextBundle u.cur))

/-- A scalar store of `z` bytes of the value that the view encodes. -/
def StoreIssues (i : Instr) (s : State) (a : Reg) (imm : BitVec 13) (b : Reg) (z : Nat) : Prop :=
  ∀ (u : State) (k : Nat),
    let ea := effAddr (s.reg a) imm.toInt
    FitsView (viewOf ea) z → locOf ea % z = 0 → Mapped s u ea [0] true [k] → StaysHere u [k] →
    exec i s = .next (sent u
      (requestOf u .write [unitAt ea 0 k z (BitVec.ofNat 64 ((viewEncode (viewOf ea) (s.reg b)).toNat % 2 ^ (8 * z)))] .none false true .s
        u.cur.phaseNo ea) [] (nextBundle u.cur))

/-- What stops a scalar access of `z` bytes before it is translated (R329, R330, R333): a view that does not fit, then a misaligned
address. -/
def AccessFaults (i : Instr) (s : State) (a : Reg) (imm : BitVec 13) (z log : Nat) : Prop :=
  let ea := effAddr (s.reg a) imm.toInt
  (¬ FitsView (viewOf ea) z → ∃ t, exec i s = .next t ∧ Faults s t 1 0x13 (viewOf ea + 16 * log) ea) ∧
  (FitsView (viewOf ea) z → locOf ea % z ≠ 0 → ∃ t, exec i s = .next t ∧ Faults s t 1 0x12 (16 * log) ea)

/-- The eight units of a 64-byte access and the registers that it moves. -/
def eight : List Nat := [0, 8, 16, 24, 32, 40, 48, 56]
def eightRegs : List Reg := [8, 9, 10, 11, 12, 13, 14, 15]

/-- A full/empty operation or an atomic on the 8-byte word at an address, with the thread that issues it. -/
def WordIssues (i : Instr) (s : State) (ea : Word) (op : ReqOp) (data : Word) (dest : Dest) (waits : List Reg) (writable isLoad isStore : Bool)
    (c : Counter) (parks : Bool) : Prop :=
  ∀ (u : State) (k : Nat),
    viewOf ea < 6 → locOf ea % 8 = 0 → Mapped s u ea [0] writable [k] → StaysHere u [k] →
    exec i s = .next (sent u (requestOf u op [unitAt ea 0 k 8 data] dest isLoad isStore c u.cur.phaseNo ea) waits
      (if parks then { u.cur with wait := .word u.fresh } else nextBundle u.cur))

/-- A fill (R76, R151): a release closes the phase, and the store carries the next one. -/
def FillIssues (i : Instr) (s : State) (a : Reg) (imm : BitVec 13) (b : Reg) (op : ReqOp) : Prop :=
  ∀ (u : State) (k : Nat),
    let ea := effAddr (s.reg a) imm.toInt
    s.aborted = false → s.cur.closed.length < 3 → viewOf ea < 6 → locOf ea % 8 = 0 → Mapped s u ea [0] true [k] → StaysHere u [k] →
    exec i s = .next (sent u (requestOf u op [unitAt ea 0 k 8 (s.reg b)] .none false true .s (u.cur.phaseNo + 1) ea) []
      { released s (fillScope s ea) u.cur with wait := .word u.fresh })

/-- An integer atomic (R152). -/
def AtomicIssues (i : Instr) (s : State) (d a b : Reg) (f : AtomicFn) (cmp : Word) : Prop :=
  WordIssues i s (effAddr (s.reg a) 0) (.atomic f cmp) (s.reg b) (.raw d) [d] true true true .l false

end Sys2Proof.Claims

/-- R146, R147, R156: each scalar load sends one request for its bytes from where the thread is; the destination waits, l rises, the
thread goes on, and nothing else changes but what the translation does. -/
def Sys2Proof.Claims.ScalarLoadsSendARequest : Prop :=
  ∀ (s : State) (d a : Reg) (i : BitVec 13),
    LoadIssues (.ldB d a i) s d a i 1 false ∧ LoadIssues (.ldBU d a i) s d a i 1 true ∧
    LoadIssues (.ldH d a i) s d a i 2 false ∧ LoadIssues (.ldHU d a i) s d a i 2 true ∧
    LoadIssues (.ldW d a i) s d a i 4 false ∧ LoadIssues (.ldWU d a i) s d a i 4 true ∧ LoadIssues (.ldD d a i) s d a i 8 false

/-- R146, R147, R156: each scalar store sends its encoded bytes; s rises, the thread goes on; no byte of memory changes yet. -/
def Sys2Proof.Claims.ScalarStoresSendTheirBytes : Prop :=
  ∀ (s : State) (a b : Reg) (i : BitVec 13),
    StoreIssues (.stB a i b) s a i b 1 ∧ StoreIssues (.stH a i b) s a i b 2 ∧ StoreIssues (.stW a i b) s a i b 4 ∧
    StoreIssues (.stD a i b) s a i b 8

/-- R329, R330, R333: a scalar access whose view does not fit faults with cause 0x13, then a misaligned one with cause 0x12; the bundle
has no effect. -/
def Obligations.ScalarAccessesFaultBeforeTranslation : Prop :=
  ∀ (s : State) (d a b : Reg) (i : BitVec 13),
    AccessFaults (.ldB d a i) s a i 1 0 ∧ AccessFaults (.ldBU d a i) s a i 1 0 ∧ AccessFaults (.ldH d a i) s a i 2 1 ∧
    AccessFaults (.ldHU d a i) s a i 2 1 ∧ AccessFaults (.ldW d a i) s a i 4 2 ∧ AccessFaults (.ldWU d a i) s a i 4 2 ∧
    AccessFaults (.ldD d a i) s a i 8 3 ∧ AccessFaults (.stB a i b) s a i 1 0 ∧ AccessFaults (.stH a i b) s a i 2 1 ∧
    AccessFaults (.stW a i b) s a i 4 2 ∧ AccessFaults (.stD a i b) s a i 8 3

/-- R149: `ld.q` and `st.q` move the eight words of `s8`–`s15` as one request of eight units. -/
def Sys2Proof.Claims.BlockAccessesMoveEightRegisters : Prop :=
  ∀ (s u : State) (a : Reg) (i : BitVec 13) (keys : List Nat),
    let ea := effAddr (s.reg a) i.toInt
    viewOf ea < 6 → locOf ea % 64 = 0 → StaysHere u keys →
    (Mapped s u ea eight false keys →
      exec (.ldQ a i) s = .next (sent u
        (requestOf u .read ((eight.zip keys).map fun p => unitAt ea p.1 p.2 8 0) .quad true false .l u.cur.phaseNo ea) eightRegs (nextBundle u.cur))) ∧
    (Mapped s u ea eight true keys → (∀ off, (s.check ea true 6 6 true [0]).1 ≠ .queueWindow off) →
      exec (.stQ a i) s = .next (sent u
        (requestOf u .write (((eight.zip keys).zip (eightRegs.map s.reg)).map fun p => unitAt ea p.1.1 p.1.2 8 p.2) .none false true .s u.cur.phaseNo ea) []
        (nextBundle u.cur)))

/-- R150, R151, R76: the full/empty operations as issued; `ldf`, `lde`, `stf`, `stw` wait at their bundle until they are served. -/
def Sys2Proof.Claims.FullEmptyOperationsAsIssued : Prop :=
  ∀ (s : State) (d a b : Reg) (i : BitVec 13) (v : BitVec 1),
    let ea := effAddr (s.reg a) i.toInt
    WordIssues (.ldf d a i) s ea .ldf 0 (.raw d) [d] false true false .l true ∧
    WordIssues (.lde d a i) s ea .lde 0 (.raw d) [d] true true true .l true ∧
    FillIssues (.stf a i b) s a i b .stf ∧ FillIssues (.stw a i b) s a i b .stw ∧
    WordIssues (.feset v a i) s ea (.feset (v == 1)) 0 .none [] true false true .s false ∧
    WordIssues (.festat d a i) s ea .festat 0 (.raw d) [d] false true false .l false

/-- R152, R153: the atomics as issued, `acas` with `sD` as its compare value; `aaddf` adds FP64 under views 0 and 5, FP32 under view 3. -/
def Sys2Proof.Claims.AtomicsAsIssued : Prop :=
  ∀ (s : State) (d a b : Reg),
    let ea := effAddr (s.reg a) 0
    AtomicIssues (.aadd d a b) s d a b .add 0 ∧ AtomicIssues (.aand d a b) s d a b .and 0 ∧ AtomicIssues (.aor d a b) s d a b .or 0 ∧
    AtomicIssues (.axor d a b) s d a b .xor 0 ∧ AtomicIssues (.amin d a b) s d a b .min 0 ∧ AtomicIssues (.amax d a b) s d a b .max 0 ∧
    AtomicIssues (.aminu d a b) s d a b .minu 0 ∧ AtomicIssues (.amaxu d a b) s d a b .maxu 0 ∧
    AtomicIssues (.aswap d a b) s d a b .swap 0 ∧ AtomicIssues (.acas d a b) s d a b .cas (s.reg d) ∧
    (viewOf ea = 0 ∨ viewOf ea = 5 →
      WordIssues (.aaddf d a b) s ea (.atomic .addf64 0) (s.reg b) (.raw d) [d] true true true .l false) ∧
    (∀ (u : State) (k : Nat), viewOf ea = 3 → locOf ea % 4 = 0 → Mapped s u ea [0] true [k] → StaysHere u [k] →
      exec (.aaddf d a b) s = .next (sent u
        (requestOf u (.atomic .addf32 0) [unitAt ea 0 k 4 (BitVec.ofNat 64 ((s.reg b).toNat % 2 ^ 32))] (.raw d) true true .l u.cur.phaseNo ea)
        [d] (nextBundle u.cur)))

/-- R146, R147, R156, R149: the parts above together. -/
def Obligations.LoadsAndStoresSendRequests : Prop := ScalarLoadsSendARequest ∧ ScalarStoresSendTheirBytes ∧ BlockAccessesMoveEightRegisters

/-- R150, R151, R76, R152, R153: the parts above together. -/
def Obligations.FullEmptyAndAtomicsAsIssued : Prop := FullEmptyOperationsAsIssued ∧ AtomicsAsIssued

namespace Sys2Proof.Claims

/-! ### Waits, fences, streams, copies -/

/-- The issuing thread changed, nothing else. -/
def onCur (s : State) (f : Thread → Thread) : State := { s with cur := f s.cur }

/-- The loads of a thread issued below a number are performed (R73, R75), those of replays that count as issued before included (R187). -/
def LoadsPerformedOf (s : State) (who : Tid) (upto : Nat) : Prop :=
  (∀ r ∈ s.fabric, r.tid = who → r.id < upto → r.isLoad = true → ∀ p ∈ r.pieces, p.done = true) ∧
  ∀ x ∈ s.cur :: s.rest, x.id = who → ∀ v, x.vreplay = some v → v.base < upto → ∀ e ∈ v.left, ∀ d a i, e.2.instr ≠ .vld d a i

/-- The loads of the issuing thread issued so far are performed. -/
def LoadsPerformed (s : State) : Prop := LoadsPerformedOf s s.cur.id s.fresh

/-- The grid of the issuing thread changed, nothing else. -/
def onGrid (s : State) (f : Grid → Grid) : State :=
  { s with grids := s.grids.map fun g => if g.num = s.cur.id.grid then f g else g }

/-- An effect that a replay-mode chunk keeps for its commit, for which the thread waits (R327). -/
def keptForCommit (s : State) (d : Deferred) : State :=
  { onGrid s (fun g => { g with replay := { g.replay with deferred := g.replay.deferred ++ [d] } }) with
    cur := { s.cur with wait := .commit } }

/-- Is the issuing thread's grid in replay mode (R20)? -/
def Replays (s : State) : Prop := (s.gridD s.cur.id.grid).desc.flag 4 = true

/-- The words at an address that a bundle reads before it takes effect (R160, R211, R217, R237) have come for the bundle at which the
issuing thread stands. -/
def AtHand (s : State) (ea : Word) (words : List Word) : Prop := s.cur.words? ea words.length = some words

/-- Without them the bundle takes no effect yet: it sends their load, in 8-byte units with no order among them, and waits for it (R71,
R73; log entry 39). -/
def AsksFor (i : Instr) (s : State) (ea : Word) (alignLog n : Nat) (c : Counter) : Prop :=
  ∀ (u : State) (keys : List Nat),
    s.cur.words? ea n = none → viewOf ea < 6 → locOf ea % 2 ^ alignLog = 0 → Mapped s u ea ((List.range n).map (8 * ·)) false keys →
    StaysHere u keys → (c = .l → s.cur.cntL ≠ 63) →
    exec i s = .next { sent u (requestOf u .read ((((List.range n).map (8 * ·)).zip keys).map fun p => unitAt ea p.1 p.2 8 0) .sync true false c
      u.cur.phaseNo ea) [] { u.cur with wait := .fetching u.fresh } with aborted := true }

/-- The operands of a copy that moves something (R163): views of at most 5, limits kept, neither count 0. -/
def CopyAllowed (kind : Nat) (s : State) : Prop :=
  viewOf (s.reg 8) < 6 ∧ viewOf (s.reg 9) < 6 ∧ (kind ≠ 0 → viewOf (s.reg 12) < 6) ∧
  (if kind = 0 then (s.reg 10).toNat ≤ 2 ^ 20 ∧ (s.reg 11).toNat ≤ 2 ^ 16 else (s.reg 10).toNat ≤ 4096 ∧ (s.reg 11).toNat ≤ 2 ^ 20)

/-- A copy is accepted (R163): a slot of the cluster's engine, c raised, a promise P later than the cycle in `sD`. -/
def CopyAccepted (i : Instr) (kind : Nat) (s : State) (d : Reg) : Prop :=
  CopyAllowed kind s →
  ((s.reg 10 = 0 ∨ s.reg 11 = 0) → GivesNext i s d (· = s.obs + 1)) ∧
  (s.reg 10 ≠ 0 → s.reg 11 ≠ 0 → ¬ Replays s →
    (s.copies.filter fun c => c.cluster == clusterOf s.cur.core).length < 32 →
    ∃ t p c, exec i s = .next t ∧ (s.obs.toNat < 2 ^ 64 - 1 → s.obs.toNat < p.toNat) ∧
      (∀ r, t.reg r = if r = d ∧ d ≠ 0 then p else s.reg r) ∧
      c.kind = kind ∧ c.tid = s.cur.id ∧ c.grid = s.cur.id.grid ∧ c.core = s.cur.core ∧ c.cluster = clusterOf s.cur.core ∧
      c.ops = [s.reg 8, s.reg 9, s.reg 10, s.reg 11, s.reg 12, s.reg 13] ∧ c.next = 0 ∧ c.writes = [] ∧ c.promise = p ∧ c.fpc = s.cur.pc ∧
      t = { s with
        copies := s.copies ++ [c], oracle := t.oracle, fresh := t.fresh
        cur := { s.cur with regs := t.cur.regs, cntC := s.cur.cntC + 1, promises := s.cur.promises ++ [(c.id, p)], pc := s.cur.pc + 8 } })

/-- What stays of a bundle whose control slot waits, so that it may be issued again alone (R43, R106): its PC and the registers it read. -/
def halfAfter (f t : State) : Option Half :=
  match t.cur.wait with
  | .running => t.cur.half
  | .acquire _ => none
  | _ => some ⟨f.cur.pc, f.cur.hm, f.cur.regs⟩

/-- What an arithmetic slot gives for the registers of `f` (R7, R134): its register, the value and the flags it raises; none without a
destination. -/
def ArithmeticGives (a : Instr) (f : State) (o : Option (Reg × Word × Word)) : Prop :=
  writesOf a = [] ∧ o = none ∨
  ∃ d u, writesOf a = [d] ∧ exec a { f with cur := { f.cur with tstat := f.cur.tstat &&& 0xFFFFFFFFFFFFFFE0 } } = .next u ∧
    o = some (d, u.reg d, u.cur.tstat &&& 0x1F)

/-- That result put over what the control slot leaves (R7): it stands, also over a value still to come. -/
def withArithmetic (t : State) (o : Option (Reg × Word × Word)) : State :=
  match o with
  | none => t
  | some (d, v, f) => { t with cur := { t.cur with
      regs := if d = 0 then t.cur.regs else t.cur.regs.set d.toNat v d.isLt
      tstat := t.cur.tstat ||| f
      wait := (match t.cur.wait with | .vpop r => .vpop (if r = d then 0 else r) | w => w)
      awaiting := t.cur.awaiting.filter fun p => p.1 != d || d == 0 } }

/-- A bundle that may issue, of which one register `r` is bound to a stream `x` and no other: nothing it names is awaited, no part of it has
been issued, no storage place holds an error. `next`, which comes after its arithmetic slot (R229), is not its control slot. -/
def OneBound (s : State) (c : Instr) (r : Reg) (x : Stream) : Prop :=
  s.cur.stream? r = some x ∧ (∀ q, q ≠ r → s.cur.stream? q = none) ∧ c ≠ .next ∧ s.cur.awaiting = [] ∧ s.cur.half = none ∧
  s.poison = [] ∧ s.soft = [] ∧ s.aborted = false

/-- Does a bundle name a register as a source, in one slot or both? `fork` takes `s4`–`s7` along without naming them (R230). -/
def Names (c a : Instr) (r : Reg) : Prop := (∀ o, c ≠ .fork o) ∧ r ∈ readsOf c ∨ r ∈ readsOf a

/-- The issuing thread with a register and its stream changed. -/
def withStream (s : State) (r : Reg) (v : Word) (x : Stream) : State :=
  { s with cur := { s.cur with
      regs := if r = 0 then s.cur.regs else s.cur.regs.set r.toNat v r.isLt
      streams := s.cur.streams.set ((r.toNat - 4) % 4) (some x) (Nat.mod_lt _ (by decide)) } }

/-- R125, R161: a bundle that names a register bound to a read stream pops exactly one element, which every read of it sees; after the last
element it reads 0 and sets EXH; without its element at hand it waits, with no effect (R160). A value written to the register is discarded. -/
def BundlesPopOneElement : Prop :=
  ∀ (s t : State) (c a : Instr) (r : Reg) (x : Stream) (o : Option (Reg × Word × Word)),
    OneBound s c r x → x.write = false → Names c a r →
    (∀ n, x.idx < x.count → x.fetched = [] → x.pending = some n → s.runBundle c a =
      .next { s with cur := { s.cur with wait := .fetching n }, aborted := true }) ∧
    (∀ f, (x.idx < x.count → ∃ e rest, x.fetched = e :: rest ∧
          f = withStream s r e.val { x with idx := x.idx + 1, last := e.val, fetched := rest }) →
      (x.count ≤ x.idx → f = withStream s r 0 { x with exh := true }) →
      (x.idx < x.count → x.fetched ≠ []) →
      exec c f = .next t → t.aborted = false → wrapped s.cur t.cur = false → t.poison = [] → t.soft = [] →
      (∀ q y, t.cur.stream? q = some y → y.write = false) → ArithmeticGives a f o →
      ∃ w, s.runBundle c a = .next w ∧
        let m := withArithmetic t o
        (∀ q y, t.cur.stream? q = some y → w.cur.stream? q = some y ∧
          w.reg q = if q ∈ writesOf a ∨ ctrlWrites c t.cur.wait q = true then y.last else m.reg q) ∧
        (∀ q, t.cur.stream? q = none → w.reg q = m.reg q) ∧
        w = { m with cur := { m.cur with regs := w.cur.regs, got := [], half := halfAfter f m } })

/-- R125, R161: a bundle that writes a register bound to a write stream appends exactly one element, the value that R7 leaves as the
register's result: a store of the encoded value at the element's address, counted in s; after the last element the value is discarded and
EXH is set. The register then reads as the value last appended, and naming it as a source pops nothing. -/
def BundlesAppendOneElement : Prop :=
  ∀ (s t u : State) (c a : Instr) (r : Reg) (x : Stream) (o : Option (Reg × Word × Word)),
    OneBound s c r x → x.write = true → exec c s = .next t → t.aborted = false → wrapped s.cur t.cur = false → t.poison = [] → t.soft = [] →
    t.cur.stream? r = some x → (∀ q, q ≠ r → t.cur.stream? q = none) → ArithmeticGives a s o →
    let m := withArithmetic t o
    r ∈ writesOf a ∨ ctrlWrites c t.cur.wait r = true ∧ (∀ n, (r, n) ∉ t.cur.awaiting) →
    (x.count ≤ x.idx → s.runBundle c a = .next
      (let w := withStream m r x.last { x with exh := true }
       { w with cur := { w.cur with got := [], half := halfAfter s m } })) ∧
    (∀ k, x.idx < x.count →
      let ea := effAddr x.base (x.stride.toInt * (x.idx : Int))
      let z := 2 ^ x.size.toNat
      let drawn : State := { s with oracle := t.oracle, fresh := t.fresh, tlb := t.tlb }
      FitsView (viewOf ea) z → locOf ea % z = 0 → Mapped drawn u ea [0] true [k] → m.cur.cntS.toNat < 63 →
      let at_ : State := { m with oracle := u.oracle, fresh := u.fresh, tlb := u.tlb, cur := { m.cur with pc := s.cur.pc } }
      let data := BitVec.ofNat 64 ((viewEncode (viewOf ea) (m.reg r)).toNat % 2 ^ (8 * z))
      let n := sent at_ (requestOf at_ .write [unitAt ea 0 k z data] .none false true .s at_.cur.phaseNo ea) [] at_.cur
      s.runBundle c a = .next
        (let w := withStream n r (m.reg r) { x with idx := x.idx + 1, last := m.reg r }
         { w with cur := { w.cur with pc := m.cur.pc, got := [], half := halfAfter s m } }))

end Sys2Proof.Claims

/-- R75, R78, R155: an acquire waits for the earlier loads; a release closes the phase, at any scope; a full fence waits for its release
too. One that would close a fourth phase waits at its bundle, whose arithmetic slot has taken effect. -/
def Obligations.FencesOrderAndClosePhases : Prop :=
  ∀ (s : State) (sc : BitVec 3),
    (LoadsPerformed s → exec (.fenceAcq sc) s = .next (onCur s nextBundle)) ∧
    (¬ LoadsPerformed s → exec (.fenceAcq sc) s = .next (onCur s fun t => { t with wait := .performed s.fresh true })) ∧
    (3 ≤ s.cur.closed.length →
      exec (.fenceRel sc) s = .next (onCur s fun t => { t with wait := .fence sc.toNat false }) ∧
      exec (.fenceFull sc) s = .next (onCur s fun t => { t with wait := .fence sc.toNat true })) ∧
    (s.cur.closed.length < 3 →
      exec (.fenceRel sc) s = .next (onCur s fun t => nextBundle (released s sc.toNat t)) ∧
      exec (.fenceFull sc) s = .next (onCur s fun t => { released s sc.toNat t with wait := .performed s.fresh false }))

/-- R157: `waitc` goes on when no counter is above its immediate, and else waits at its bundle. -/
def Sys2Proof.Claims.WaitcWaitsForTheCounters : Prop :=
  ∀ (s : State) (l sn cn m : BitVec 6),
    let below := s.cur.cntL.toNat ≤ l.toNat ∧ s.cur.cntS.toNat ≤ sn.toNat ∧ s.cur.cntC.toNat ≤ cn.toNat ∧ s.cur.cntM.toNat ≤ m.toNat
    (below → exec (.waitc l sn cn m) s = .next (onCur s nextBundle)) ∧
    (¬ below → exec (.waitc l sn cn m) s = .next (onCur s fun t => { t with wait := .waitc l sn cn m }))

/-- R83–R85, R167, R327: `sleep`, `publ` and the persistence fences begin their wait; in replay mode the last two are kept for the
commit; `sleep` does not wait for a value that is not greater than the cycle the thread observes. -/
def Sys2Proof.Claims.SleepPublishAndPersistBeginTheirWait : Prop :=
  ∀ (s : State) (a : Reg),
    let v := s.reg a
    let ea := effAddr (s.reg a) 0
    (v.toNat ≤ s.obs.toNat → exec (.sleep a) s = .next (onCur s nextBundle)) ∧
    (s.obs.toNat < v.toNat →
      exec (.sleep a) s = .next (onCur s fun t => { t with wait := .sleep v (t.promises.any fun p => decide (v.toNat ≤ p.2.toNat)) })) ∧
    (¬ Replays s →
      exec .pfenceTile s = .next (onCur s fun t => { t with wait := .pfenceTile }) ∧
      exec .pfenceKeep s = .next (onCur s fun t => { t with wait := .pfenceKeep s.fresh false }) ∧
      (viewOf ea < 6 → exec (.publ a) s = .next (onCur s fun t => { t with wait := .publ .counters s.fresh (locOf ea) }))) ∧
    (Replays s →
      exec .pfenceTile s = .next (keptForCommit s (.pfence s.cur.id false)) ∧
      exec .pfenceKeep s = .next (keptForCommit s (.pfence s.cur.id true)) ∧
      (viewOf ea < 6 → exec (.publ a) s = .next (keptForCommit s (.publ s.cur.id (locOf ea)))))

/-- R158, R233, R236: a hint changes the grid's ranges alone, of which there are at most 16; `yield` passes one cycle; `prog` makes the
grid live, in replay mode once its chunk is committed (R323). -/
def Sys2Proof.Claims.HintYieldAndProgress : Prop :=
  ∀ (s : State) (k : BitVec 2) (a b : Reg),
    let ea := effAddr (s.reg a) 0
    (viewOf ea < 6 → exec (.hint k a b) s = .next (onCur (onGrid s fun g =>
      { g with hints := hintRanges g.hints k (locOf ea) (s.reg b).toNat }) nextBundle)) ∧
    (6 ≤ viewOf ea → ∃ t, exec (.hint k a b) s = .next t ∧ Faults s t 1 0x13 (viewOf ea + 16 * 15) ea) ∧
    (∀ old : List Hint, ∀ loc len : Nat, (hintRanges old k loc len).length ≤ 16) ∧
    (∀ old : List Hint, ∀ loc len x : Nat, k ≠ 0 → 0 < len → loc ≤ x → x < loc + len →
      ∃ h ∈ hintRanges old k loc len, h.kind = k ∧ h.base ≤ x ∧ x < h.base + h.len) ∧
    (∀ old : List Hint, ∀ loc len x : Nat, 0 < len → loc ≤ x → x < loc + len →
      ∀ h ∈ hintRanges old 0 loc len, ¬ (h.base ≤ x ∧ x < h.base + h.len)) ∧
    exec .yield s = .next (onCur s fun t => { t with yieldUntil := s.cycle + 1, pc := t.pc + 8 }) ∧
    (¬ Replays s → exec .prog s = .next (onCur (onGrid s fun g => { g with live := true }) nextBundle)) ∧
    (Replays s → exec .prog s = .next (onCur (onGrid s fun g =>
      { g with replay := { g.replay with deferred := g.replay.deferred ++ [.live] } }) nextBundle))

/-- R125, R159–R162: a bundle pops one element and appends one; `sbind` first loads its descriptor; it binds the stream of a legal descriptor and refuses another; `sfree` leaves the last value in the register;
`sstat` tells the elements left, the direction, EXH and whether a stream is bound. -/
def Obligations.StreamsBindFreeAndTell : Prop :=
  BundlesPopOneElement ∧ BundlesAppendOneElement ∧
  ∀ (s : State) (d a : Reg) (base stride count sctl : Word),
    let ea := effAddr (s.reg a) 0
    let n := (d.toNat - 4) % 4
    4 ≤ d.toNat → d.toNat ≤ 7 →
    AsksFor (.sbind d a) s ea 3 4 .l ∧
    (AtHand s ea [base, stride, count, sctl] →
      (base.toNat < 2 ^ 56 → 1 ≤ count.toNat → count.toNat ≤ 2 ^ 32 → sctl.toNat < 16 →
        ∃ t, exec (.sbind d a) s = .next t ∧ (∀ r, t.reg r = if r = d then 0 else s.reg r) ∧
          t = { s with cur := { s.cur with
            regs := t.cur.regs, pc := s.cur.pc + 8
            streams := s.cur.streams.set n (some
              { base := base, stride := stride, count := count.toNat, size := BitVec.ofNat 2 sctl.toNat, write := sctl.toNat.testBit 2,
                uns := sctl.toNat.testBit 3, idx := 0, last := 0, exh := false, fetched := [], pending := none }) (Nat.mod_lt _ (by decide)) } }) ∧
      (¬ (base.toNat < 2 ^ 56 ∧ 1 ≤ count.toNat ∧ count.toNat ≤ 2 ^ 32 ∧ sctl.toNat < 16) →
        ∃ t, exec (.sbind d a) s = .next t ∧ Faults s t 1 0x16 0x0A ea)) ∧
    (∀ x : Stream, s.cur.streams[n]'(Nat.mod_lt _ (by decide)) = some x →
      (∃ t, exec (.sfree d) s = .next t ∧ (∀ r, t.reg r = if r = d then x.last else s.reg r) ∧
        t = { s with cur := { s.cur with
          regs := t.cur.regs, pc := s.cur.pc + 8, streams := s.cur.streams.set n none (Nat.mod_lt _ (by decide)) } }) ∧
      GivesNext (.sstat a d) s a (· = BitVec.ofNat 64
        (x.count - x.idx + 2 ^ 33 * x.write.toNat + 2 ^ 34 * x.exh.toNat + 2 ^ 35))) ∧
    (s.cur.streams[n]'(Nat.mod_lt _ (by decide)) = none →
      exec (.sfree d) s = .next (onCur s nextBundle) ∧ GivesNext (.sstat a d) s a (· = 0))

/-- R163: `cpy`, `cpyg` and `cpys` are accepted with a promise; one that moves nothing is complete at once. The promise is a free value
(log entry 5). -/
def Obligations.CopiesAreAcceptedWithAPromise : Prop :=
  ∀ (s : State) (d : Reg),
    CopyAccepted (.cpy d) 0 s d ∧ CopyAccepted (.cpyg d) 1 s d ∧ CopyAccepted (.cpys d) 2 s d

/-- R157, R83–R85, R167, R327, R158, R233, R236: the parts above together. That the DETAIL of a view misuse of `hint` has 15 in [7:4] is log
entry 76 (DESIGN CHOICE; R330 gives 15 to accesses of rows and records). -/
def Obligations.WaitsHintsAndYields : Prop := WaitcWaitsForTheCounters ∧ SleepPublishAndPersistBeginTheirWait ∧ HintYieldAndProgress

namespace Sys2Proof.Claims

/-! ### Threads and system registers -/

/-- The team of the issuing thread. -/
def ownTeam (s : State) : Team := s.teamD s.cur.id.grid s.cur.id.team
/-- Its grid. -/
def ownGrid (s : State) : Grid := s.gridD s.cur.id.grid

/-- The task that a `fork` makes (R33, R230). -/
def forkTask (s : State) (o : BitVec 21) : Task :=
  ⟨BitVec.ofInt 64 (s.cur.pc.toInt + 8 * o.toInt), s.reg 4, s.reg 5, s.reg 6, s.reg 7, 0⟩

/-- The tasks of the team that count as present in its deque (R32, R35, R327): pushed, issued and not yet pushed, kept for a commit. -/
def present (s : State) : Nat :=
  (ownTeam s).deque.length + ((ownGrid s).pushes.filter fun p => p.tid.team == s.cur.id.team).length +
  ((ownGrid s).replay.deferred.filter fun d => match d with | .push t _ => t == s.cur.id.team | _ => false).length

/-- The capacity of a deque (R32): floor(64 · n / 8) entries and the spill depth. -/
def capacity (s : State) : Nat := 64 * (ownTeam s).nthread / 8 + (ownTeam s).spill

/-- The team of the issuing thread changed. -/
def onTeam (s : State) (l : Nat) (f : Team → Team) : State :=
  { s with teams := s.teams.map fun t => if t.grid = s.cur.id.grid ∧ t.lteam = l then f t else t }

/-- Only the issuing thread, the grids, the teams and the model's own choices differ. -/
def OnlyTasks (s t : State) : Prop :=
  t = { s with cur := t.cur, grids := t.grids, teams := t.teams, oracle := t.oracle, fresh := t.fresh } ∧
  t.cur = { s.cur with regs := t.cur.regs, pc := t.cur.pc, wait := t.cur.wait, taskAt := t.cur.taskAt, half := t.cur.half }

/-- The thread goes on with a task (R34, R232): its PC, `s4`–`s7`; a register bound to a read stream discards the value (R161). It waits
first for its earlier loads (R75, R76), which are those issued before its next request `n`. -/
def RunsTask (s t : State) (x : Task) : Prop :=
  t.cur.pc = x.pc ∧
  (∃ n, s.fresh ≤ n ∧ n ≤ s.fresh + 1 ∧ t.cur.wait = if s.allPerformed s.cur.id n true then .running else .acquire n) ∧
  (∀ r, t.reg r = if s.cur.stream? r ≠ none then s.reg r else
    if r = 4 then x.s4 else if r = 5 then x.s5 else if r = 6 then x.s6 else if r = 7 then x.s7 else s.reg r)

/-- The teams from which a thread may steal (R34, R74): every other team of its grid whose core lies in the steal domain around the core
on which the thread runs. -/
def MayStealFrom (s : State) (v : Team) : Prop :=
  v.lteam < (ownGrid s).desc.shape.toNat % 2 ^ 13 + 1 ∧ v.lteam ≠ s.cur.id.team ∧ s.team? s.cur.id.grid v.lteam = some v ∧
  ∃ c, v.core = some c ∧ match (ownGrid s).desc.flags.toNat % 8 with
    | 0 => c = s.cur.core
    | 1 => clusterOf c = clusterOf s.cur.core
    | 2 => c / 512 = s.cur.core / 512
    | 3 => c / 2048 = s.cur.core / 2048
    | _ => True

/-- Entering the handler (R248): `TPC` the return address, `TCAUSE` the code and the immediate, `TVAL`, HM set, PC at HANDLER × 8. What was
left of a bundle of which a part had been issued is kept for the return (log entry 65). -/
def EntersHandler (s t : State) (code imm : Nat) (tval ret : Word) : Prop :=
  (∀ k < 64, t.cur.tstat.getLsbD k = (s.cur.tstat.getLsbD k || k == 9)) ∧
  t = { s with cur := { s.cur with
    tpc := ret, tcause := BitVec.ofNat 64 (code + 256 * imm), tval := tval, tstat := t.cur.tstat
    pc := BitVec.ofNat 64 (s.cur.tvec.toNat / 8 % 2 ^ 53 * 8)
    half := none, outer := s.cur.half } }

/-- Taking a trap (R248, R313): outside the handler, with one set, its own effect, which is to enter it; a fault of cause 0x21 without one,
0x20 in it. -/
def TrapTaken (i : Instr) (s : State) (code imm : Nat) (tval ret : Word) : Prop :=
  (s.cur.tstat.getLsbD 9 = false → s.cur.tvec.toNat / 8 % 2 ^ 53 ≠ 0 →
    ∃ t, exec i s = .next t ∧ EntersHandler s t code imm tval ret) ∧
  (s.cur.tstat.getLsbD 9 = false → s.cur.tvec.toNat / 8 % 2 ^ 53 = 0 → ∃ t, exec i s = .next t ∧ Faults s t 1 0x21 code tval) ∧
  (s.cur.tstat.getLsbD 9 = true → ∃ t, exec i s = .next t ∧ Faults s t 1 0x20 code tval)

/-- A cluster halted by its own core (R273, R292), with the interrupt of cause 7. -/
def halts (s : State) (cl why who : Nat) : State :=
  let c := s.cluster cl
  if c.halted then s
  else ({ s with clusters := upsert Cluster.num { c with halted := true, why := BitVec.ofNat 3 why, who := BitVec.ofNat 3 who } s.clusters }
    : State).interrupt 7 cl

/-- What R205 refuses of the eight region descriptors, in the layout of R204: an enabled one whose NEXP is not 10 to 30, one that extends
beyond location 0xF_0000_0000_0000 (log entry 45), or more than 64 MiB enabled. -/
def RegionsRefused (l : List (Word × Word)) : Prop :=
  let on := l.filter fun p => p.2.getLsbD 47
  let size := fun p : Word × Word => (p.1.toNat / 2 ^ 44 % 2 ^ 18 + 1) * 256
  (∃ p ∈ on, p.2.toNat / 2 ^ 42 % 2 ^ 5 < 10 ∨ 30 < p.2.toNat / 2 ^ 42 % 2 ^ 5 ∨ 0xF000000000000 < p.1.toNat % 2 ^ 44 * 256 + size p) ∨
  2 ^ 26 < (on.map size).sum

/-- Half `n` of the descriptors written but for its reserved bits (R204, R240). -/
def halfWritten (l : List (Word × Word)) (n : Nat) (v : Word) : List (Word × Word) :=
  let p := l.getD (n / 2) (0, 0)
  l.set (n / 2) (if n % 2 = 0 then ((p.1 &&& 0xC000000000000000) ||| (v &&& 0x3FFFFFFFFFFFFFFF), p.2)
    else (p.1, (p.2 &&& 0xFF00000000000000) ||| (v &&& 0x00FFFFFFFFFFFFFF)))

/-- The descriptors of a grid once the writes that wait for the referee, and those kept for a commit, have been made. -/
def regionsToCome (g : Grid) : List (Word × Word) :=
  (g.mregPend.map (fun p => (p.1, p.2.1)) ++
    g.replay.deferred.filterMap fun d => match d with | .mreg n v => some (n, v) | _ => none).foldl (fun l p => halfWritten l p.1 p.2) g.mreg

/-- A bit set that the layout of a descriptor reserves (R237). -/
def ReservedSet (d : Descriptor) : Prop := 2 ^ 58 ≤ d.shape.toNat ∨ 2 ^ 13 ≤ d.flags.toNat ∨ ∃ w ∈ d.rsv, w ≠ 0

/-- A field of a descriptor out of range, or a bit set that is reserved (R237, R246). -/
def FieldRefused (d : Descriptor) : Prop :=
  let sh := d.shape.toNat
  let fl := d.flags.toNat
  ReservedSet d ∨ d.entry.toNat % 8 ≠ 0 ∨ d.done.toNat % 8 ≠ 0 ∨ d.tvec.toNat % 8 ≠ 0 ∨ 2 ^ 56 ≤ d.tvec.toNat ∨
  16 < sh / 2 ^ 16 % 2 ^ 5 ∨ 64 < sh / 2 ^ 21 % 2 ^ 7 ∨ 64 < sh / 2 ^ 28 % 2 ^ 7 ∨ 512 < sh / 2 ^ 35 % 2 ^ 10 ∨ 4096 < sh / 2 ^ 45 % 2 ^ 13 ∨
  4 < fl % 2 ^ 3 ∨ 4 < fl / 2 ^ 10 % 2 ^ 3

/-- A region table with a reserved bit set, or that R205 would refuse: R237 does not name it (log entry 73). -/
def RegionTableRefused (l : List (Word × Word)) : Prop := (∃ p ∈ l, 2 ^ 62 ≤ p.1.toNat ∨ 2 ^ 56 ≤ p.2.toNat) ∨ RegionsRefused l

/-- A valid entry of a double-window table: in the scratchpad, its offset and length (R238). -/
def windowEntry (p : Word × Word) : Option (Bool × Nat × Nat) :=
  if p.1.getLsbD 0 then some (p.1.getLsbD 1, p.1.toNat / 2 ^ 12 * 4096, p.2.toNat) else none

/-- A double-window table that R238 refuses: a reserved bit, a length, a window past its space, two that overlap. -/
def WindowsRefused (d : Descriptor) (l : List (Word × Word)) : Prop :=
  let ws := l.filterMap windowEntry
  let sh := d.shape.toNat
  (∃ p ∈ l, p.1.getLsbD 0 = true ∧ p.1.toNat / 2 ^ 2 % 2 ^ 10 ≠ 0) ∨
  (∃ w ∈ ws, w.2.2 = 0 ∨ w.2.2 % 4096 ≠ 0 ∨ 4096 * (if w.1 then sh / 2 ^ 35 % 2 ^ 10 else sh / 2 ^ 28 % 2 ^ 7) < w.2.1 + 2 * w.2.2) ∨
  ¬ ws.Pairwise fun x y => x.1 ≠ y.1 ∨ y.2.1 + 2 * y.2.2 ≤ x.2.1 ∨ x.2.1 + 2 * x.2.2 ≤ y.2.1

/-- The conditions of the DETAIL values 1 to 6 under which a launch is rejected (R41, R237, R238, R342); of a host's launch no right is
lacking and none nests too deep. -/
def LaunchRefused (parent : Option Grid) (d : Descriptor) (regions windows : List (Word × Word)) (detail : Nat) : Prop :=
  let sh := d.shape.toNat
  let side := if d.flags.toNat / 2 ^ 10 % 2 ^ 3 = 0 then 0 else 2 ^ (d.flags.toNat / 2 ^ 10 % 2 ^ 3)
  match detail with
  | 1 => FieldRefused d ∨ RegionTableRefused regions
  | 2 => ∃ p, parent = some p ∧ ((d.flag 8 = true ∧ p.desc.flag 8 = false) ∨ (d.flag 9 = true ∧ p.desc.flag 9 = false))
  | 3 => side ≠ 0 ∧ (sh % 2 ^ 13 + 1) % (side * side) ≠ 0
  | 4 => 4096 * (sh / 2 ^ 28 % 2 ^ 7) <
      64 * (sh / 2 ^ 45 % 2 ^ 13) + (((windows.filterMap windowEntry).filter fun w => !w.1).map fun w => 2 * w.2.2).sum
  | 5 => ∃ p, parent = some p ∧ 15 ≤ p.depth
  | 6 => WindowsRefused d windows
  | _ => False

/-- What a read of a system register returns (R118, R240–R246), but for `BANKPART`. -/
def ReadsAs (s : State) (n : Nat) (v : Word) : Prop :=
  let t := s.cur
  let g := ownGrid s
  let k := s.core ((ownTeam s).core.getD t.core)
  match n with
  | 0x000 => v = s.obs
  | 0x001 => v = BitVec.ofNat 64 t.id.team
  | 0x002 => v = BitVec.ofNat 64 t.id.thread
  | 0x003 => v = BitVec.ofNat 64 (g.desc.shape.toNat % 2 ^ 13 + 1)
  | 0x004 => v = BitVec.ofNat 64 t.id.grid
  | 0x005 => v = g.callix
  | 0x006 =>
    (v.getLsbD 0 = g.desc.flag 4) ∧ (v.getLsbD 1 = (!g.desc.flag 5 && !g.desc.flag 4)) ∧ (v.getLsbD 2 = (!g.desc.flag 6 && !g.desc.flag 4)) ∧
    (v.getLsbD 3 = g.desc.flag 7) ∧ (v.getLsbD 4 = (s.cluster (clusterOf t.core)).fast) ∧
    v.extractLsb' 5 2 = s.host.budgetInForce ∧ v.extractLsb' 8 3 = g.desc.flags.extractLsb' 0 3 ∧ (v.getLsbD 11 = g.desc.flag 3) ∧
    (v.getLsbD 12 = g.desc.flag 8) ∧ (v.getLsbD 13 = g.desc.flag 9) ∧ v.extractLsb' 14 3 = g.desc.flags.extractLsb' 10 3 ∧
    v.extractLsb' 17 4 = BitVec.ofNat 4 g.depth ∧ v.getLsbD 7 = false ∧ v.toNat < 2 ^ 21
  | 0x008 => v = t.tstat
  | 0x009 =>
    v.extractLsb' 0 8 = t.cntL.setWidth 8 ∧ v.extractLsb' 8 8 = t.cntS.setWidth 8 ∧ v.extractLsb' 16 8 = t.cntC.setWidth 8 ∧
    v.extractLsb' 24 8 = t.cntM.setWidth 8 ∧ v.toNat < 2 ^ 32
  | 0x010 => v = t.tvec
  | 0x011 => v = t.tcause
  | 0x012 => v = t.tpc
  | 0x013 => v = t.tval
  | 0x020 =>
    v.extractLsb' 0 4 = BitVec.ofNat 4 k.mq.length ∧
    v.extractLsb' 4 4 = BitVec.ofNat 4 (k.mq.filter fun r => r.tid.grid == t.id.grid && r.tid.team == t.id.team).length ∧
    (v.getLsbD 8 = true ↔ ∃ x, k.unit = .active x ∨ k.unit = .steppingDown x) ∧ v.extractLsb' 9 7 = 0 ∧
    (∀ r rest, k.mq = r :: rest → r.running = true → v.extractLsb' 16 8 = BitVec.ofNat 8 r.kind) ∧
    ((∀ r rest, k.mq = r :: rest → r.running = false) → v.extractLsb' 16 8 = 0) ∧ v.toNat < 2 ^ 24
  | 0x021 =>
    (∀ r rest, k.mq = r :: rest → r.running = true → r.tid.grid = t.id.grid → r.tid.team = t.id.team →
      v.extractLsb' 0 7 = BitVec.ofNat 7 r.rows ∧ v.getLsbD 7 = true ∧ v.extractLsb' 8 8 = BitVec.ofNat 8 r.kind ∧
      v.extractLsb' 16 4 = BitVec.ofNat 4 r.tc ∧ v.toNat < 2 ^ 20) ∧
    ((∀ r rest, k.mq = r :: rest → r.running = true → ¬ (r.tid.grid = t.id.grid ∧ r.tid.team = t.id.team)) → v = 0)
  | 0x041 => v = (s.queue g.queue).lat.setWidth 64
  | 0x0F0 => v = BitVec.ofNat 64 (t.core + t.slot * 2 ^ 13 + s.host.pkgnum.toNat * 2 ^ 16)
  | n => 0x030 ≤ n ∧ n ≤ 0x03F ∧ v = (let p := g.mreg.getD ((n - 0x030) / 2) (0, 0); if n % 2 = 0 then p.1 else p.2)

/-- The bits of a register of the thread that a write changes (R242, R246). -/
def writable : Nat → Word
  | 0x008 => 0x7F01FF
  | 0x010 => 0x00FFFFFFFFFFFFF8
  | 0x011 => 0x1FFFFF
  | _ => 0xFFFFFFFFFFFFFFFF

/-- A register of the thread after a write: writable bits new, the others as they were (R240). -/
def Written (n : Nat) (old v new : Word) : Prop :=
  ∀ k < 64, new.getLsbD k = if (writable n).getLsbD k then v.getLsbD k else old.getLsbD k

end Sys2Proof.Claims

/-- R32, R33, R230, R327: `fork` makes a release at the steal domain, after which its task is pushed; at the commit in replay mode; a
full deque faults with cause 0x23. -/
def Sys2Proof.Claims.ForkPushesItsTask : Prop :=
  ∀ (s : State) (o : BitVec 21),
    let full := capacity s ≤ present s
    (full → ∃ t, exec (.fork o) s = .next t ∧ Faults s t 1 0x23 0 (BitVec.ofNat 64 (capacity s))) ∧
    (¬ full → Replays s → exec (.fork o) s = .next (onCur (onGrid s fun g =>
      { g with replay := { g.replay with deferred := g.replay.deferred ++ [.push s.cur.id.team (forkTask s o)] } }) nextBundle)) ∧
    (¬ full → ¬ Replays s → s.cur.closed.length < 3 →
      exec (.fork o) s = .next (onCur (onGrid s fun g => { g with pushes := g.pushes ++ [⟨s.cur.id, s.fresh, forkTask s o⟩] })
        fun t => nextBundle (released s (ownGrid s).desc.steal t)))

/-- R34, R232, R264: `next` takes the bottom task of its own team, else the top task of a team within the steal domain, else parks. -/
def Sys2Proof.Claims.NextTakesATaskOrParks : Prop :=
  ∀ (s : State),
    (∀ r x, s.cur.stream? r = some x → x.write = false) →
    (∀ l, regErr ⟨s.cur.id.grid, l, 0⟩ 32 ∉ s.poison ∧ regErr ⟨s.cur.id.grid, l, 0⟩ 32 ∉ s.soft) →
    (∀ x rest, (ownTeam s).deque = rest ++ [x] → s.team? s.cur.id.grid s.cur.id.team ≠ none →
      ∃ t, exec .next s = .next t ∧ RunsTask s t x ∧ OnlyTasks s t ∧ (ownTeam t).deque = rest) ∧
    ((ownTeam s).deque = [] → (∃ v, MayStealFrom s v ∧ v.deque ≠ []) →
      ∃ t v x rest, exec .next s = .next t ∧ MayStealFrom s v ∧ v.deque = x :: rest ∧ RunsTask s t x ∧ OnlyTasks s t ∧
        (t.teamD s.cur.id.grid v.lteam).deque = rest) ∧
    ((ownTeam s).deque = [] → (∀ v, MayStealFrom s v → v.deque = []) →
      ∃ t, exec .next s = .next t ∧ OnlyTasks s t ∧ t.cur.wait = .next s.obs ∧ t.cur.pc = s.cur.pc ∧ t.cur.regs = s.cur.regs)

/-- R36, R231, R234: `join` releases at the steal domain and sends its decrement; `exit` releases and waits for it. -/
def Sys2Proof.Claims.JoinAndExitRelease : Prop :=
  ∀ (s u : State) (a : Reg) (k : Nat),
    let ea := effAddr (s.reg a) 0
    let sc := (ownGrid s).desc.steal
    (s.aborted = false → s.cur.closed.length < 3 → viewOf ea < 6 → locOf ea % 8 = 0 → Mapped s u ea [0] true [k] →
      StaysHere u [k] →
      exec (.join a) s = .next (sent u (requestOf u .join [unitAt ea 0 k 8 0] .none true true .s (u.cur.phaseNo + 1) ea) []
        { released s sc u.cur with wait := .joining u.fresh u.obs })) ∧
    (s.cur.closed.length < 3 → ∃ t, exec .exit s = .next t ∧
      t = { s with grids := t.grids, cur := { released s 4 s.cur with wait := .exiting s.fresh, taskAt := none } } ∧
      (s.cur.taskAt = none → t.grids = s.grids))

/-- R37, R38, R78, R235: `migr` moves a thread that is not anchored to a team's core where a slot is free, has no effect where it may not
move, and refuses a team that the grid has not. It waits at its bundle for the thread's loads and stores, and to move, for its phases. -/
def Sys2Proof.Claims.MigrMovesOrStays : Prop :=
  ∀ (s : State) (a : Reg),
    let v := (s.reg a).toNat
    let n := (ownGrid s).desc.shape.toNat % 2 ^ 13 + 1
    let there := (s.teamD s.cur.id.grid v).core
    let may := (ownGrid s).migrOn = true ∧ s.anchored s.cur = false
    let waits := exec (.migr a) s = .next (onCur s fun t => { t with wait := .migr v })
    (n ≤ v → ∃ t, exec (.migr a) s = .next t ∧ Faults s t 1 0x16 0x0E (s.reg a)) ∧
    (v < n → ¬ (s.cur.cntL = 0 ∧ s.cur.cntS = 0) → waits) ∧
    (v < n → s.cur.cntL = 0 → s.cur.cntS = 0 →
      (((∀ c, there = some c → s.freeSlot s.cur c = none) ∨ there = some s.cur.core ∨ ¬ may) → exec (.migr a) s = .next (onCur s Thread.goOn)) ∧
      (∀ c k, there = some c → c ≠ s.cur.core → may → s.freeSlot s.cur c = some k →
        (s.cur.closed = [] → exec (.migr a) s = .next (onCur s fun t => { t.goOn with core := c, slot := k, wait := .migrating none })) ∧
        (s.cur.closed ≠ [] → waits)))

/-- A table of a launch (R204, R238): none for the address 0, else the words that the bundle has read there, in pairs. -/
def Sys2Proof.Claims.TableRead (s : State) (p : Word) (n : Nat) (default rows : List (Word × Word)) : Prop :=
  (p = 0 ∧ rows = default) ∨
  (p ≠ 0 ∧ s.tableStop p n = none ∧ ∃ words : List Word, words.length = n ∧ AtHand s (effAddr p 0) words ∧ rows = pairUp words)

/-- R41, R42, R237, R258: a launch first makes its release and waits for it, then reads its descriptor; one whose descriptor and tables
pass their checks queues one child grid, of the parent's queue and priority, with the next launch index; one that fails them faults
with cause 0x24 and the DETAIL of what it fails, of several the lowest (log entry 71). That a table is read at any multiple of 8 bytes is log
entry 72, that a region table can be refused log entry 73, and that no child has the number 0 log entry 11 (DESIGN CHOICE each). -/
def Obligations.LaunchQueuesAChild : Prop :=
  ∀ (s : State) (a : Reg) (words : List Word) (regions windows : List (Word × Word)),
    let ea := effAddr (s.reg a) 0
    let d := Descriptor.ofWords words
    viewOf ea < 6 → locOf ea % 64 = 0 →
    (s.cur.hasReleased = false → s.cur.closed.length < 3 → exec (.launch a) s =
      .next { onCur s (fun t => { released s 4 t with wait := .released s.fresh, got := [(0, [])] }) with aborted := true }) ∧
    (s.cur.hasReleased = true → AsksFor (.launch a) s ea 6 16 .none) ∧
    (s.cur.hasReleased = true → words.length = 16 → AtHand s ea words → TableRead s d.mregp 16 mregReset regions →
      TableRead s d.dwin 8 [] windows →
      (∀ detail, LaunchRefused (some (ownGrid s)) d regions windows detail →
        (∀ k < detail, ¬ LaunchRefused (some (ownGrid s)) d regions windows k) →
        ∃ t, exec (.launch a) s = .next t ∧ Faults s t 1 0x24 detail ea) ∧
      ((∀ k, ¬ LaunchRefused (some (ownGrid s)) d regions windows k) → ¬ Replays s → s.host.breakpoints d.entry (ownGrid s).queue = [] →
        s.grids.length < 32767 →
        ∃ t g, exec (.launch a) s = .next t ∧
          g.desc = d ∧ g.regions = regions ∧ g.windows = windows.filterMap DWindow.ofEntry ∧ g.parent = some (ownGrid s).num ∧
          g.queue = (ownGrid s).queue ∧ g.prio = (ownGrid s).prio ∧ g.depth = (ownGrid s).depth + 1 ∧ g.state = .queued ∧
          g.callix = callIndex s.cur.id s.cur.launches ∧ g.readyAt = s.cycle ∧ g.held = [] ∧ g.faults = [] ∧
          1 ≤ g.num ∧ g.num ≤ 32767 ∧ (∀ x ∈ s.grids, x.num ≠ g.num) ∧
          t = { s with grids := s.grids ++ [g], oracle := t.oracle, fresh := t.fresh
                       cur := { s.cur with launches := s.cur.launches + 1, pc := s.cur.pc + 8, got := [] } }))

/-- R118, R240–R246, R356: what `rdsr` returns; `BANKPART` is asked of the bank; `PHYS` without PRIV faults with cause 0x25. -/
def Sys2Proof.Claims.SystemRegistersReadAsListed : Prop :=
  ∀ (s : State) (d : Reg) (n : BitVec 12), isSysReg n = true →
    (n = 0x0F0 → (ownGrid s).desc.flag 9 = false → ∃ t, exec (.rdsr d n) s = .next t ∧ Faults s t 1 0x25 1 0x0F0) ∧
    (n = 0x040 → exec (.rdsr d n) s = .next (sent s
      (requestOf s .bankRead [piece (bankKey s.host.pkgnum.toNat (clusterOf s.cur.core)) 8 0] (.raw d) true false .l s.cur.phaseNo 0) [d] (nextBundle s.cur))) ∧
    (n ≠ 0x040 → (n ≠ 0x0F0 ∨ (ownGrid s).desc.flag 9 = true) → GivesNext (.rdsr d n) s d (ReadsAs s n.toNat))

/-- R205, R240–R242, R246, R356: what `wrsr` writes; read-only registers and `BANKPART` without BR fault with cause 0x25; a region
descriptor waits for the referee, or is refused. -/
def Sys2Proof.Claims.SystemRegistersWriteAsListed : Prop :=
  ∀ (s : State) (a : Reg) (n : BitVec 12), isSysReg n = true →
    let v := s.reg a
    let ro := n.toNat ≤ 0x006 ∨ n = 0x009 ∨ n = 0x020 ∨ n = 0x021 ∨ n = 0x041 ∨ n = 0x0F0
    let mreg := 0x030 ≤ n.toNat ∧ n.toNat ≤ 0x03F
    let bad : Prop := RegionsRefused (halfWritten (regionsToCome (ownGrid s)) (n.toNat - 0x030) v)
    (ro → ∃ t, exec (.wrsr n a) s = .next t ∧ Faults s t 1 0x25 0 (n.setWidth 64)) ∧
    (n = 0x040 → (ownGrid s).desc.flag 8 = false → ∃ t, exec (.wrsr n a) s = .next t ∧ Faults s t 1 0x25 1 0x040) ∧
    (n = 0x040 → (ownGrid s).desc.flag 8 = true → ¬ Replays s → exec (.wrsr n a) s = .next (sent s
      (requestOf s (.bankWrite v) [piece (bankKey s.host.pkgnum.toNat (clusterOf s.cur.core)) 8 v] .none false true .s s.cur.phaseNo 0) []
      { s.cur with wait := .bankWrite s.fresh })) ∧
    (mreg → bad → ∃ t, exec (.wrsr n a) s = .next t ∧ Faults s t 1 0x16 0x0B v) ∧
    (mreg → ¬ bad → ¬ Replays s → exec (.wrsr n a) s = .next (onCur (onGrid s fun g =>
      { g with mregPend := g.mregPend ++ [(n.toNat - 0x030, v, s.cur.id)] }) fun t => { t with wait := .mregWrite })) ∧
    (mreg → ¬ bad → Replays s → exec (.wrsr n a) s = .next (keptForCommit s (.mreg (n.toNat - 0x030) v))) ∧
    (n = 0x008 ∨ n = 0x010 ∨ n = 0x011 ∨ n = 0x012 ∨ n = 0x013 → ∃ t, exec (.wrsr n a) s = .next t ∧
      Written 0x008 s.cur.tstat (if n = 0x008 then v else s.cur.tstat) t.cur.tstat ∧
      Written 0x010 s.cur.tvec (if n = 0x010 then v else s.cur.tvec) t.cur.tvec ∧
      Written 0x011 s.cur.tcause (if n = 0x011 then v else s.cur.tcause) t.cur.tcause ∧
      Written 0x012 s.cur.tpc (if n = 0x012 then v else s.cur.tpc) t.cur.tpc ∧
      Written 0x013 s.cur.tval (if n = 0x013 then v else s.cur.tval) t.cur.tval ∧
      t = { s with cur := { s.cur with
        tstat := t.cur.tstat, tvec := t.cur.tvec, tcause := t.cur.tcause, tpc := t.cur.tpc, tval := t.cur.tval, pc := s.cur.pc + 8 } })

/-- R248, R249, R313: `trap` enters the handler with code 5 and the next bundle as its return; `brk` with code 4, or halts the cluster
where its breakpoints are armed. -/
def Sys2Proof.Claims.TrapAndBreakpointEnterTheHandler : Prop :=
  ∀ (s : State) (i : BitVec 13),
    let cl := clusterOf s.cur.core
    let armed := (s.cluster cl).arm.getLsbD (coreInCluster s.cur.core)
    TrapTaken (.trap i) s 5 i.toNat 0 (s.cur.pc + 8) ∧
    (armed = false → TrapTaken (.brk i) s 4 i.toNat 0 (s.cur.pc + 8)) ∧
    (armed = true → exec (.brk i) s = .next (halts (onCur s nextBundle) cl 2 (coreInCluster s.cur.core)))

/-- R250, R329, R337, R339: `tret` goes back to `TPC` with HM clear, and lets go what waited for it; a misaligned `TPC` faults with cause
0x12, in the handler and outside it, and else a `tret` outside the handler with cause 0x22. What was kept of a bundle at `TPC` is taken up
again (log entry 65, DESIGN CHOICE). -/
def Sys2Proof.Claims.TretReturnsFromTheHandler : Prop :=
  ∀ (s : State),
    (s.cur.tstat.getLsbD 9 = false → s.cur.tpc.toNat % 8 = 0 → ∃ t, exec .tret s = .next t ∧ Faults s t 1 0x22 0 0) ∧
    (s.cur.tpc.toNat % 8 ≠ 0 → ∃ t, exec .tret s = .next t ∧ Faults s t 1 0x12 0x30 s.cur.tpc) ∧
    (s.cur.tstat.getLsbD 9 = true → s.cur.tpc.toNat % 8 = 0 → ∃ t, exec .tret s = .next t ∧
      t.cur.pc = s.cur.tpc ∧ (∀ k < 64, t.cur.tstat.getLsbD k = (s.cur.tstat.getLsbD k && k != 9)) ∧
      t.cur = { s.cur with pc := s.cur.tpc, tstat := t.cur.tstat, vreplay := s.cur.vreplay.map fun v => { v with untilTret := false }
                           half := s.cur.outer.filter (fun h => h.pc == s.cur.tpc), outer := none } ∧
      (∀ c ∈ t.copies, c.tid = s.cur.id → c.untilTret = false) ∧
      (∀ c ∈ t.cores, ∀ r ∈ c.mq, r.tid = s.cur.id → r.untilTret = false) ∧
      t = { s with cur := t.cur, cores := t.cores, copies := t.copies })

/-- R251: `halt` halts the cluster for an attached debugger (one that has armed a breakpoint is attached; else which is the model's
free choice, log entry 13), and else faults with STATUS 3 and cause 0x26. -/
def Sys2Proof.Claims.HaltStopsTheThread : Prop :=
  ∀ (s : State),
    let cl := clusterOf s.cur.core
    let k := coreInCluster s.cur.core
    ((s.cluster cl).arm ≠ 0 → exec .halt s = .next (halts (onCur s nextBundle) cl 3 k)) ∧
    ((s.cluster cl).arm = 0 → ∃ t u, exec .halt s = .next t ∧ u = { s with oracle := u.oracle, fresh := u.fresh } ∧
      (t = halts (onCur u nextBundle) cl 3 k ∨ Faults u t 3 0x26 0 0))

/-- R32, R33, R230, R327, R34, R232, R264: the parts above together. -/
def Obligations.TasksAreForkedAndTaken : Prop := ForkPushesItsTask ∧ NextTakesATaskOrParks

/-- R36, R231, R234, R37, R38, R235: the parts above together. -/
def Obligations.JoinExitAndMigr : Prop := JoinAndExitRelease ∧ MigrMovesOrStays

/-- R118, R240–R246, R356, R205, R240–R242, R246: the parts above together. -/
def Obligations.SystemRegistersAsListed : Prop := SystemRegistersReadAsListed ∧ SystemRegistersWriteAsListed

/-- R248, R249, R313, R250, R337, R339, R251: the parts above together. -/
def Obligations.TrapsReturnAndHalt : Prop := TrapAndBreakpointEnterTheHandler ∧ TretReturnsFromTheHandler ∧ HaltStopsTheThread

namespace Sys2Proof.Claims

/-! ### Tiles and vector instructions -/

/-- Element size, count and format of a TYPE code (R169); no format for INT32. -/
def elemBytes (ty : BitVec 2) : Nat := match ty.toNat with | 1 => 2 | 3 => 8 | _ => 4
def elemCount (ty : BitVec 2) : Nat := 256 / elemBytes ty
def elemFormat (ty : BitVec 2) : Option Fmt :=
  match ty.toNat with | 0 => some ⟨8, 23, true⟩ | 1 => some ⟨8, 7, true⟩ | 3 => some ⟨11, 52, true⟩ | _ => none

/-- Element `i` of a row (R169). -/
def element (ty : BitVec 2) (v : Row) (i : Nat) : Nat := v.toNat / 2 ^ (8 * elemBytes ty * i) % 2 ^ (8 * elemBytes ty)

/-- A 32-bit pattern as a signed number. -/
def signed32 (x : Nat) : Int := if x < 2 ^ 31 then x else x - 2 ^ 32

/-- The value of an element. -/
def elemValue (ty : BitVec 2) (x : Nat) : FV :=
  match elemFormat ty with | some m => m.decode x | none => .fin (decide (signed32 x < 0)) (signed32 x).natAbs 0

/-- A tile of the issuing thread's team, the row that an operand names (R170), and its content. -/
def tileAt (s : State) (n : BitVec 4) : Tile := (ownTeam s).tiles.getD n.toNat Tile.zero
def rowNumber (s : State) (r : RowOp) : Nat := if r.rs then (s.reg (r.idx.setWidth 4)).toNat % 64 else r.idx.toNat
def rowAt (s : State) (r : RowOp) : Row := (tileAt s r.tile).rows[rowNumber s r % 64]'(Nat.mod_lt _ (by decide))

/-- A tile with a row replaced by a vector instruction: its checksum is stale (R173). -/
def withRow (x : Tile) (n : Nat) (v : Row) : Tile :=
  { x with rows := x.rows.set (n % 64) v (Nat.mod_lt _ (by decide)), valid := false, sumBad := false }

/-- A row of the team's tile replaced, with fresh check bits (R345); nothing else changes. -/
def putRow (s : State) (r : RowOp) (v : Row) : State :=
  { s with
    teams := s.teams.map fun x =>
      if x.grid = s.cur.id.grid ∧ x.lteam = s.cur.id.team then
        { x with tiles := x.tiles.set r.tile.toNat (withRow (tileAt s r.tile) (rowNumber s r) v) }
      else x
    poison := s.poison.filter (· != tileErr s.cur.id r.tile.toNat (rowNumber s r % 64))
    soft := s.soft.filter (· != tileErr s.cur.id r.tile.toNat (rowNumber s r % 64)) }

/-- No `vld` into the tiles is in flight, none is the TC of a queued or running command, or of one that a replay-mode chunk will queue,
and no replay of the thread runs (R174, R187). -/
def TilesIdle (s : State) (tiles : List (BitVec 4)) : Prop :=
  s.aborted = false ∧ s.cur.vreplay = none ∧
  ∀ n ∈ tiles,
    (∀ r ∈ s.fabric, r.tid.grid = s.cur.id.grid → r.tid.team = s.cur.id.team → ∀ row v, r.dest ≠ .row n.toNat row v) ∧
    (∀ c, (ownTeam s).core = some c → ∀ r ∈ (s.core c).mq, r.tid.grid = s.cur.id.grid → r.tid.team = s.cur.id.team →
      (r.words.getD 0 0).extractLsb' 8 4 ≠ n) ∧
    (∀ who fpc words, Deferred.record who fpc words ∈ (ownGrid s).replay.deferred → who.team = s.cur.id.team →
      (words.getD 0 0).extractLsb' 8 4 ≠ n)

/-- And the team has them all (R168). -/
def TilesFree (s : State) (tiles : List (BitVec 4)) : Prop :=
  TilesIdle s tiles ∧ ∀ n ∈ tiles, n.toNat < (ownTeam s).tiles.length

/-- No error stands in the rows (R344, R345). -/
def RowsSound (s : State) (ops : List RowOp) : Prop :=
  ∀ r ∈ ops, tileErr s.cur.id r.tile.toNat (rowNumber s r) ∉ s.poison ∧ tileErr s.cur.id r.tile.toNat (rowNumber s r) ∉ s.soft

/-- The places of a tile's rows in the lists of errors cleared (R345). -/
def tileSound (s t : State) (n : BitVec 4) : State :=
  let out := fun p => !(decide (tileErr s.cur.id n.toNat 0 ≤ p) && decide (p < tileErr s.cur.id n.toNat 0 + 64))
  { t with poison := s.poison.filter out, soft := s.soft.filter out }

/-- The thread after an entry of the loop sequencer: its log, which keeps the last 16 (R186), and the next bundle. -/
def logged (s : State) (i : Instr) (ops : List RowOp) (scalars : List Word) (t : Thread) : Thread :=
  { t with log := (s.cur.log ++ [(⟨i, ops.map (rowNumber s), scalars⟩ : Entry)]).drop (s.cur.log.length - 15), pc := s.cur.pc + 8 }

/-- A vector instruction over rows of one TYPE completes: it writes its row alone, element `k` as `R` says of the sources' and the old
elements (R175). -/
def RowResult (i : Instr) (ops : List RowOp) (scalars : List Word) (s : State) (rd ra rb : RowOp) (R : Nat → Nat → Nat → Nat → Prop) : Prop :=
  let ty := (tileAt s rd.tile).type
  ∃ v, exec i s = .next { putRow s rd v with cur := logged s i ops scalars s.cur } ∧
    ∀ k < elemCount ty, R (element ty (rowAt s ra) k) (element ty (rowAt s rb) k) (element ty (rowAt s rd) k) (element ty v k)

/-- The exact result of a float element function rounded once by RoundNE, or the INT32 result modulo 2^32 (R175, R178). -/
def rounded (ty : BitVec 2) (f : FV → FV → FV → FV) (g : Nat → Nat → Nat → Nat) (a b d r : Nat) : Prop :=
  r = match elemFormat ty with | some m => (m.round .ne (f (m.decode a) (m.decode b) (m.decode d))).1 | none => g a b d % 2 ^ 32

/-- `vmin` (`low`) and `vmax` of an element: as R137, or signed. -/
def extremum (ty : BitVec 2) (low : Bool) (a b r : Nat) : Prop :=
  match elemFormat ty with
  | some m => ChosenOf m low a b r
  | none => (r = a ∨ r = b) ∧ (if low then signed32 r ≤ signed32 a ∧ signed32 r ≤ signed32 b else signed32 a ≤ signed32 r ∧ signed32 b ≤ signed32 r)

/-- The conditions of R180. -/
def meets (cc : Nat) (x y : FV) : Prop :=
  if x = .nan ∨ y = .nan then cc = 1
  else
    match cc with
    | 0 => place x = place y | 1 => place x ≠ place y | 2 => place x < place y | 3 => place x ≤ place y
    | 4 => place y < place x | _ => place y ≤ place x

/-- The element type of a TYPE code, in the words of `Convert` (R175). -/
def typeOf (ty : BitVec 2) : Elem := match ty.toNat with | 0 => .fp32 | 1 => .bf16 | 2 => .int32 | _ => .fp64

/-- What is posted for values of a row of a TYPE (R183, R188): their exact sum, rounded once. -/
def posted (ty : BitVec 2) (l : List FV) : Word :=
  match ty.toNat with
  | 2 => BitVec.ofInt 64 (l.map fun v => match v with | .fin neg m e => (if neg then -1 else 1) * (m * 2 ^ e.toNat : Int) | _ => 0).sum
  | 3 => BitVec.ofNat 64 ((⟨11, 52, true⟩ : Fmt).round .ne (sumFV false l)).1
  | _ => BitVec.ofNat 64 ((⟨8, 23, true⟩ : Fmt).round .ne (sumFV false l)).1

/-- The greatest or least of the elements of a row, as `fmax` and `fmin` over all of them (R183). -/
def ExtremeOf (ty : BitVec 2) (low : Bool) (l : List Nat) (r : Nat) : Prop :=
  let v := elemValue ty
  if ∀ x ∈ l, v x = .nan then some r = (elemFormat ty).map Fmt.canonNaN
  else r ∈ l ∧ v r ≠ .nan ∧ (∀ x ∈ l, v x ≠ .nan → if low then place (v r) ≤ place (v x) else place (v x) ≤ place (v r)) ∧
    (∀ x ∈ l, place (v r) = 0 → v x ≠ .nan → place (v x) = 0 → if low then (v x).neg? → (v r).neg? else (v r).neg? → (v x).neg?)

/-- An extreme as it is posted (R183). -/
def postedExtreme (ty : BitVec 2) (r : Nat) : Word :=
  match ty.toNat with | 1 => BitVec.ofNat 64 (r * 2 ^ 16) | 2 => BitVec.ofInt 64 (signed32 r) | _ => BitVec.ofNat 64 r

/-- Key order of R188 over the positions of a row: the greater value first, or the smaller; equal values in input order. -/
def Earlier (greater : Bool) (v : Nat → FV) (p q : Nat) : Prop :=
  (if greater then place (v q) < place (v p) else place (v p) < place (v q)) ∨ (place (v p) = place (v q) ∧ p < q)

/-- The positions of which `V` holds, in key order. -/
def InKeyOrder (greater : Bool) (v : Nat → FV) (V : Nat → Prop) (l : List Nat) : Prop :=
  l.Pairwise (Earlier greater v) ∧ ∀ p, p ∈ l ↔ V p

/-- The fill of R188. -/
def fillOf (ty : BitVec 2) (mn : Bool) : Nat :=
  match ty.toNat, mn with
  | 0, false => 0xFF800000 | 0, true => 0x7F800000 | 1, false => 0xFF80 | 1, true => 0x7F80
  | 2, false => 0x80000000 | 2, true => 0x7FFFFFFF | _, false => 0xFFF0000000000000 | _, true => 0x7FF0000000000000

/-- A row over an old one: element `k` below `n` is `f k`, the others are kept. -/
def RowFrom (ty : BitVec 2) (old v : Row) (n : Nat) (f : Nat → Nat) : Prop :=
  ∀ k < elemCount ty, element ty v k = if k < n then f k else element ty old k

/-- `topk` and `topkm` complete: rows tD and then tB written, `sC` set, two results posted (R189, R190). The thread's record in the
list of the others, if it had one there, changes in the same way. -/
def SelectionResult (i : Instr) (scalars : List Word) (s : State) (c : Reg) (rd rb ra : RowOp) (vd vb : Row) (status : Word) (posts : List Word) : Prop :=
  ∃ t, exec i s = .next t ∧
    (∀ r, t.reg r = if r = c ∧ c ≠ 0 then status else s.reg r) ∧
    ((∀ x ∈ s.rest, x.id ≠ s.cur.id) → t.rest = s.rest) ∧
    t = { putRow (putRow s rd vd) rb vb with
      cur := logged s i [rd, ra, rb] scalars { s.cur with regs := t.cur.regs, resq := s.cur.resq ++ posts }, rest := t.rest }

/-- A stream after loads that overlap what it has fetched ahead (R73, R160): the elements from the first of those on are gone, and the
fetch under way may be. -/
def CutFrom (x y : Option Stream) : Prop :=
  match x, y with
  | none, none => True
  | some a, some b =>
    (∃ more, a.fetched = b.fetched ++ more) ∧ (b.pending = a.pending ∨ b.pending = none) ∧ b = { a with fetched := b.fetched, pending := b.pending }
  | _, _ => False

/-- The operands of a selection are ready, of fitting TYPEs and without error (R175, R184, R189). -/
def SelectionReady (s : State) (rd rb ra : RowOp) (reads : List RowOp) : Prop :=
  TilesFree s [rd.tile, ra.tile, rb.tile] ∧ RowsSound s reads ∧ s.cur.resq.length ≤ 6 ∧
  (tileAt s rd.tile).type = (tileAt s ra.tile).type ∧ (tileAt s rb.tile).type = 2

end Sys2Proof.Claims

/-- R171, R172, R168: `tcfg` sets TYPE, keeps the data, clears OVF, and leaves the checksum valid only where the TYPE stays; `tzero`
clears the data, OVF and errors and makes it valid; a tile number not below the team's count faults with cause 0x16. -/
def Sys2Proof.Claims.TilesAreConfiguredAndCleared : Prop :=
  ∀ (s : State) (n : BitVec 4) (ty : BitVec 2),
    let x := tileAt s n
    let put := fun (y : Tile) => onCur (onTeam s s.cur.id.team fun t => { t with tiles := t.tiles.set n.toNat y }) nextBundle
    (TilesFree s [n] →
      exec (.tcfg n ty) s = .next (put { x with type := ty, ovf := false, valid := x.valid && x.type == ty, sumBad := x.sumBad && x.type == ty }) ∧
      (∃ y : Tile, exec (.tzero n) s = .next (tileSound s (put y) n) ∧ (∀ r (h : r < 64), y.rows[r] = 0) ∧ y.type = x.type ∧ y.valid = true ∧ y.ovf = false)) ∧
    (TilesIdle s [n] → (ownTeam s).tiles.length ≤ n.toNat →
      (∃ t, exec (.tcfg n ty) s = .next t ∧ Faults s t 1 0x16 1 (n.setWidth 64)) ∧
      (∃ t, exec (.tzero n) s = .next t ∧ Faults s t 1 0x16 1 (n.setWidth 64)))

/-- R175, R178, R180, R181: the vector instructions over three rows of one TYPE compute each element of tD from the elements of the
same place, with one rounding, and write nothing else. -/
def Sys2Proof.Claims.VectorInstructionsComputeEachElement : Prop :=
  ∀ (s : State) (cc : BitVec 3) (rd ra rb : RowOp),
    let ty := (tileAt s rd.tile).type
    TilesFree s [rd.tile, ra.tile, rb.tile] → RowsSound s [rd, ra, rb] → (tileAt s ra.tile).type = ty → (tileAt s rb.tile).type = ty →
    RowResult (.vadd rd ra rb) [rd, ra, rb] [] s rd ra rb (rounded ty (fun x y _ => sumFV false [x, y]) fun a b _ => a + b) ∧
    RowResult (.vsub rd ra rb) [rd, ra, rb] [] s rd ra rb (rounded ty (fun x y _ => sumFV false [x, negated y]) fun a b _ => a + 2 ^ 32 - b) ∧
    RowResult (.vmul rd ra rb) [rd, ra, rb] [] s rd ra rb (rounded ty (fun x y _ => x.mul y) fun a b _ => a * b) ∧
    RowResult (.vfma rd ra rb) [rd, ra, rb] [] s rd ra rb (rounded ty (fun x y d => sumFV false [x.mul y, d]) fun a b d => a * b + d) ∧
    RowResult (.vmin rd ra rb) [rd, ra, rb] [] s rd ra rb (fun a b _ r => extremum ty true a b r) ∧
    RowResult (.vmax rd ra rb) [rd, ra, rb] [] s rd ra rb (fun a b _ r => extremum ty false a b r) ∧
    (cc.toNat ≤ 5 → RowResult (.vcmp cc rd ra rb) [rd, ra, rb] [] s rd ra rb fun a b _ r =>
      (meets cc.toNat (elemValue ty a) (elemValue ty b) → r = 2 ^ (8 * elemBytes ty) - 1) ∧
      (¬ meets cc.toNat (elemValue ty a) (elemValue ty b) → r = 0)) ∧
    RowResult (.vsel rd ra rb) [rd, ra, rb] [] s rd ra rb (fun a b d r => r = if d ≠ 0 then a else b) ∧
    RowResult (.vperm rd ra rb) [rd, ra, rb] [] s rd ra rb (fun _ b _ r => r = element ty (rowAt s ra) (b % elemCount ty))

/-- R177, R179, R182: broadcast, sign, conversion and multiplication by a scalar, element by element. -/
def Sys2Proof.Claims.VectorInstructionsOfOneSource : Prop :=
  ∀ (s : State) (rd ra : RowOp) (b : Reg),
    let ty := (tileAt s rd.tile).type
    let v := (s.reg b).toNat
    let top := 2 ^ (8 * elemBytes ty - 1)
    (TilesFree s [rd.tile] → RowResult (.vbc rd b) [rd] [s.reg b] s rd rd rd fun _ _ _ r => r = v % 2 ^ (8 * elemBytes ty)) ∧
    (TilesFree s [rd.tile, ra.tile] → RowsSound s [ra] →
      ((tileAt s ra.tile).type = ty →
        RowResult (.vabs rd ra) [rd, ra] [] s rd ra ra (fun a _ _ r => r = if ty = 2 then (signed32 a).natAbs % 2 ^ 32 else a % top) ∧
        RowResult (.vneg rd ra) [rd, ra] [] s rd ra ra (fun a _ _ r => r = if ty = 2 then (2 ^ 32 - a) % 2 ^ 32 else (a + top) % (2 * top)) ∧
        RowResult (.vscale rd ra b) [rd, ra] [s.reg b] s rd ra ra fun a _ _ r => r = match ty.toNat with
          | 0 => ((⟨8, 23, true⟩ : Fmt).round .ne (((⟨8, 23, true⟩ : Fmt).decode a).mul ((⟨8, 23, true⟩ : Fmt).decode (v % 2 ^ 32)))).1
          | 1 => ((⟨8, 7, true⟩ : Fmt).round .ne (((⟨8, 7, true⟩ : Fmt).decode a).mul ((⟨8, 23, true⟩ : Fmt).decode (v % 2 ^ 32)))).1
          | 2 => a * v % 2 ^ 32
          | _ => ((⟨11, 52, true⟩ : Fmt).round .ne (((⟨11, 52, true⟩ : Fmt).decode a).mul ((⟨11, 52, true⟩ : Fmt).decode v))).1) ∧
      ∃ w, exec (.vcvt rd ra) s = .next { putRow s rd w with cur := logged s (.vcvt rd ra) [rd, ra] [] s.cur } ∧
        RowFrom ty (rowAt s rd) w (min (elemCount (tileAt s ra.tile).type) (elemCount ty)) fun k =>
          Elem.convert (element (tileAt s ra.tile).type (rowAt s ra) k) (typeOf (tileAt s ra.tile).type) (typeOf ty))

/-- R176, R73, R156: `vld` and `vst` send one request for the aligned units of the row's bytes, converted where the view is not raw, and
raise l or s; the thread goes on. -/
def Sys2Proof.Claims.RowAccessesSendTheirUnits : Prop :=
  ∀ (s u : State) (a : Reg) (off : BitVec 11) (r : RowOp) (keys : List Nat),
    let ea := effAddr (s.reg a) off.toInt
    let view := viewOf ea
    let ty := (tileAt s r.tile).type
    let z := if view = 0 then 8 else (Elem.ofView view).size
    let n := if view = 0 then 256 else elemCount ty * z
    let units := units8 (locOf ea) n
    let image := if view = 0 then (rowAt s r).toNat else
      ((List.range (elemCount ty)).map fun i => Elem.convert (element ty (rowAt s r) i) (typeOf ty) (Elem.ofView view) * 2 ^ (8 * z * i)).sum
    TilesFree s [r.tile] → view < 6 → locOf ea % z = 0 →
    (Mapped s u ea (units.map (·.1)) false keys →
      exec (.vld r a off) s = .next (sent u
        (requestOf u .read ((keys.zip units).map fun p => unitAt ea p.2.1 p.1 p.2.2 0) (.row r.tile.toNat (rowNumber s r) view) true false .l
          u.cur.phaseNo ea) [] (logged s (.vld r a off) [r] [ea] u.cur))) ∧
    (RowsSound s [r] → Mapped s u ea (units.map (·.1)) true keys →
      exec (.vst a off r) s = .next (sent u
        { requestOf u .write ((keys.zip units).map fun p =>
            unitAt ea p.2.1 p.1 p.2.2 (BitVec.ofNat 64 (image / 2 ^ (8 * p.2.1) % 2 ^ (8 * p.2.2)))) .none false true .s u.cur.phaseNo ea
          with tile := some r.tile.toNat } [] (logged s (.vst a off r) [r] [ea] u.cur)))

/-- R183, R185: `vred` posts the sum rounded once, or the extreme, of the elements of its row. -/
def Sys2Proof.Claims.ReductionsPostOneValue : Prop :=
  ∀ (s : State) (op : BitVec 2) (ra : RowOp),
    let ty := (tileAt s ra.tile).type
    let l := (List.range (elemCount ty)).map (element ty (rowAt s ra))
    op.toNat < 3 → TilesFree s [ra.tile] → RowsSound s [ra] → s.cur.resq.length ≤ 7 →
    ∃ t v, exec (.vred op ra) s = .next t ∧
      ((∀ x ∈ s.rest, x.id ≠ s.cur.id) → t.rest = s.rest) ∧
      t = { s with cur := logged s (.vred op ra) [ra] [] { s.cur with resq := s.cur.resq ++ [v] }, rest := t.rest } ∧
      (if op = 0 then v = posted ty (l.map (elemValue ty)) else ∃ r, ExtremeOf ty (op == 2) l r ∧ v = postedExtreme ty r)

/-- R188, R189, R190: `topk` selects the first k valid entries in key order and posts the sums of those selected and of the rest;
`topkm` selects among first occurrences of each index, and posts what the total leaves over. -/
def Sys2Proof.Claims.SelectionsKeepKeyOrder : Prop :=
  ∀ (s : State) (mn : Bool) (c : Reg) (rd rb ra : RowOp) (k1 : BitVec 7),
    let ty := (tileAt s ra.tile).type
    let k := k1.toNat + 1
    let raw := element ty (rowAt s ra)
    let v := fun p => elemValue ty (raw p)
    let idx := element 2 (rowAt s rb)
    let n := elemCount ty
    let named := fun p => p < min n 64 ∧ idx p ≠ 0xFFFFFFFF
    let valid := fun p => named p ∧ v p ≠ .nan
    let first := fun p => valid p ∧ ∀ q < p, valid q → idx q ≠ idx p
    let total := match ty.toNat with
      | 2 => FV.fin (decide ((s.reg c).toInt < 0)) (s.reg c).toInt.natAbs 0
      | 3 => (⟨11, 52, true⟩ : Fmt).decode (s.reg c).toNat
      | _ => (⟨8, 23, true⟩ : Fmt).decode ((s.reg c).toNat % 2 ^ 32)
    k ≤ min n 64 →
    (SelectionReady s rd rb ra [ra] → ∃ (l : List Nat) (vd vb : Row), InKeyOrder (!mn) v (fun p => p < n ∧ v p ≠ .nan) l ∧
      RowFrom ty (rowAt s rd) vd k (fun j => match (l.take k)[j]? with | some p => raw p | none => fillOf ty mn) ∧
      RowFrom 2 (rowAt (putRow s rd vd) rb) vb k (fun j => (l.take k).getD j 0xFFFFFFFF) ∧
      SelectionResult (.topk mn c rd rb ra k1) [] s c rd rb ra vd vb (BitVec.ofNat 64 ((l.take k).length + 2 ^ 16 * (n - l.length)))
        [posted ty ((l.take k).map v), posted ty ((l.drop k).map v)]) ∧
    (SelectionReady s rd rb ra [ra, rb] → ∃ (l rest nans : List Nat) (vd vb : Row),
      InKeyOrder (!mn) v first l ∧
      (rest.Pairwise (· < ·) ∧ ∀ p, p ∈ rest ↔ valid p ∧ ¬ first p) ∧
      (nans.Pairwise (· < ·) ∧ ∀ p, p ∈ nans ↔ named p ∧ v p = .nan) ∧
      RowFrom ty (rowAt s rd) vd k (fun j => match (l.take k)[j]? with | some p => raw p | none => fillOf ty mn) ∧
      RowFrom 2 (rowAt (putRow s rd vd) rb) vb k (fun j => match (l.take k)[j]? with | some p => idx p | none => 0xFFFFFFFF) ∧
      ∃ conf : Nat, (conf = 1 ∨ conf = 0) ∧ (conf = 1 ↔ ∃ p q, first q ∧ valid p ∧ idx p = idx q ∧ place (v p) ≠ place (v q)) ∧
        SelectionResult (.topkm mn c rd rb ra k1) [s.reg c] s c rd rb ra vd vb
          (BitVec.ofNat 64 ((l.take k).length + 2 ^ 16 * nans.length + 2 ^ 32 * conf))
          [posted ty ((l.take k).map v), posted ty (total :: ((l.take k ++ rest).map fun p => negated (v p)))])

/-- R191: `vsort` writes the valid entries in key order, then the NaN entries in input order, and the positions they came from. Where tD and
tB name one row the positions stand in it, which R191 does not say: the model's choice (log entry 40). -/
def Sys2Proof.Claims.SortingKeepsKeyOrder : Prop :=
  ∀ (s : State) (ds : Bool) (rd rb ra : RowOp),
    let ty := (tileAt s ra.tile).type
    let raw := element ty (rowAt s ra)
    let v := fun p => elemValue ty (raw p)
    let n := elemCount ty
    TilesFree s [rd.tile, ra.tile, rb.tile] → RowsSound s [ra] → (tileAt s rd.tile).type = ty → (tileAt s rb.tile).type = 2 →
    ∃ (l nans : List Nat) (vd vb : Row), InKeyOrder ds v (fun p => p < n ∧ v p ≠ .nan) l ∧ (nans.Pairwise (· < ·) ∧ ∀ p, p ∈ nans ↔ p < n ∧ v p = .nan) ∧
      RowFrom ty (rowAt s rd) vd n (fun j => raw ((l ++ nans).getD j 0)) ∧
      RowFrom 2 (rowAt (putRow s rd vd) rb) vb (min n 64) (fun j => (l ++ nans).getD j 0) ∧
      exec (.vsort ds rd rb ra) s =
        .next { putRow (putRow s rd vd) rb vb with cur := logged s (.vsort ds rd rb ra) [rd, ra, rb] [] s.cur }

/-- R185, R187, R8, R73: `vloop` sets its replays going over the last n entries and the thread goes on, with the registers that they will
write waiting for them; of what its read streams have fetched ahead nothing stays that the replayed `vld`s load; with too few entries it
faults; `vpop` takes the head of the result queue, or parks. -/
def Sys2Proof.Claims.LoopAndPop : Prop :=
  ∀ (s : State) (n1 : BitVec 4) (cnt : BitVec 12) (d : Reg),
    let n := n1.toNat + 1
    (s.cur.vreplay = none → ¬ Replays s → s.cur.log.length < n → ∃ t, exec (.vloop n1 cnt) s = .next t ∧ Faults s t 1 0x16 6 (BitVec.ofNat 64 n)) ∧
    (s.cur.vreplay = none → ¬ Replays s → n ≤ s.cur.log.length → ∃ (x y : List Entry) (t : State), s.cur.log = x ++ y ∧ y.length = n ∧ s.fresh ≤ t.fresh ∧
      exec (.vloop n1 cnt) s = .next t ∧
      t = { s with
        cur := { s.cur with
          pc := s.cur.pc + 8, awaiting := s.cur.awaiting ++ (replayRegs y).map fun r => (r, s.fresh)
          vreplay := some ⟨y, cnt.toNat, 1, 0, s.cur.pc, s.fresh + 1, s.cur.phaseNo, s.cur.epoch, none, false⟩
          streams := t.cur.streams }
        fresh := t.fresh } ∧
      (∀ (j : Nat) (h : j < 4), CutFrom s.cur.streams[j] t.cur.streams[j]) ∧
      ((∀ e ∈ y, ∀ d a i, e.instr ≠ .vld d a i) → t.cur.streams = s.cur.streams) ∧
      (∀ (j : Nat) (h : j < 4) (z : Stream), t.cur.streams[j] = some z → z.write = false → ∀ f ∈ z.fetched,
        ∀ u ∈ t.replayUnits t.cur t.fresh, u.1 = false → ¬ (f.key < u.2.1 + u.2.2 ∧ u.2.1 < f.key + 8))) ∧
    (∀ v rest, s.cur.resq = v :: rest → regErr s.cur.id 33 ∉ s.poison → regErr s.cur.id 33 ∉ s.soft →
      ∃ t, exec (.vpop d) s = .next t ∧ (∀ r, t.reg r = if r = d ∧ d ≠ 0 then v else s.reg r) ∧
        t = { s with cur := { s.cur with regs := t.cur.regs, resq := rest, pc := s.cur.pc + 8 } }) ∧
    (s.cur.resq = [] → exec (.vpop d) s = .next (onCur s fun t => { t with wait := .vpop d }))

/-- R175, R178, R180, R181, R177, R179, R182: the parts above together. -/
def Obligations.VectorInstructionsAsListed : Prop := VectorInstructionsComputeEachElement ∧ VectorInstructionsOfOneSource

/-- R171, R172, R168, R176, R73, R156: the parts above together. -/
def Obligations.TilesAndRowAccesses : Prop := TilesAreConfiguredAndCleared ∧ RowAccessesSendTheirUnits

/-- R183, R185, R187: the parts above together. -/
def Obligations.ReductionsLoopAndPop : Prop := ReductionsPostOneValue ∧ LoopAndPop

/-- R188, R189, R190, R191: the parts above together. What stands in a row that is both results of `vsort` is the model's choice (log entry
40). -/
def Obligations.SelectionsAndSortsKeepKeyOrder : Prop := SelectionsKeepKeyOrder ∧ SortingKeepsKeyOrder

namespace Sys2Proof.Claims

/-! ### Marks -/

/-- Is a region descriptor enabled, with a location in its range (R204)? -/
def Covers (lo hi : Word) (loc : Nat) : Prop :=
  hi.getLsbD 47 = true ∧ lo.toNat % 2 ^ 44 * 256 ≤ loc ∧ loc < lo.toNat % 2 ^ 44 * 256 + (lo.toNat / 2 ^ 44 % 2 ^ 18 + 1) * 256

/-- The region in which a location lies (R204, R206): the lowest-numbered enabled descriptor of the grid whose range holds it. -/
def InRegion (g : Grid) (loc : Nat) (rg : Region) : Prop :=
  ∃ n lo hi, g.mreg[n]? = some (lo, hi) ∧ (∀ m < n, ∀ p, g.mreg[m]? = some p → ¬ Covers p.1 p.2 loc) ∧ Covers lo hi loc ∧
    rg = ⟨n, lo.toNat % 2 ^ 44 * 256, (lo.toNat / 2 ^ 44 % 2 ^ 18 + 1) * 256, hi.toNat % 2 ^ 42, hi.toNat / 2 ^ 42 % 32, hi.toNat / 2 ^ 48 % 256⟩

/-- A mark operation as issued (R209, R205): one request for the word, with the region's descriptor; outside every region it faults with
cause 0x18. -/
def MarkIssues (i : Instr) (s : State) (a : Reg) (off : BitVec 11) (f : MarkFn) (amount opcode : Nat) (dest : Dest) (waits : List Reg)
    (isStore : Bool) (c : Counter) : Prop :=
  ∀ (u : State) (k : Nat),
    let ea := effAddr (s.reg a) off.toInt
    viewOf ea < 6 → locOf ea % 4 = 0 → Mapped s u ea [0] true [k] →
    (∀ rg, InRegion (ownGrid u) (locOf ea) rg →
      exec i s = .next (sent u (requestOf u (.mark f amount rg) [unitAt ea 0 k 4 0] dest true isStore c u.cur.phaseNo ea) waits
        (nextBundle u.cur))) ∧
    ((¬ ∃ rg, InRegion (ownGrid u) (locOf ea) rg) → ∃ t, exec i s = .next t ∧ Faults u t 1 0x18 opcode ea)

/-- The cells of the fixed stencils in index order (R210). -/
def stencilCells : Nat → List (Int × Int)
  | 0 => [(-1, -1), (0, -1), (1, -1), (-1, 0), (0, 0), (1, 0), (-1, 1), (0, 1), (1, 1)]
  | 1 => [(-2, -2), (-1, -2), (0, -2), (1, -2), (2, -2), (-2, -1), (-1, -1), (0, -1), (1, -1), (2, -1), (-2, 0), (-1, 0), (0, 0), (1, 0),
          (2, 0), (-2, 1), (-1, 1), (0, 1), (1, 1), (2, 1), (-2, 2), (-1, 2), (0, 2), (1, 2), (2, 2)]
  | 2 => [(0, -1), (-1, 0), (0, 0), (1, 0), (0, 1)]
  | _ => [(0, -1), (1, -1), (1, 0), (1, 1), (0, 1), (-1, 1), (-1, 0), (-1, -1)]

/-- A signed byte of a list of words in memory order. -/
def signedByte (l : List Word) (n : Nat) : Int := ((l.getD (n / 8) 0).extractLsb' (8 * (n % 8)) 8).toInt

/-- A legal pair list (R211), its pitch and its cells. -/
def PairList (l : List Word) (pitch : Nat) (cells : List (Int × Int)) : Prop :=
  let h := l.getD 0 0
  let count := h.toNat % 2 ^ 16
  1 ≤ count ∧ count ≤ 16 ∧ pitch = h.toNat / 2 ^ 16 % 2 ^ 16 ∧ pitch % 4 = 0 ∧ h.toNat < 2 ^ 32 ∧ l.getD 1 0 = 0 ∧ l.getD 2 0 = 0 ∧ l.getD 3 0 = 0 ∧
  cells = (List.range count).map fun j => (signedByte l (32 + 2 * j), signedByte l (33 + 2 * j))

/-- The cells of a sense that lie in a region of the grid (R212): index, effective address, region, in order. -/
def SensedCells (g : Grid) (centre : Word) (pitch : Nat) (cells : List (Int × Int)) (named : List (Nat × Word × Region)) : Prop :=
  (named.map (·.1)).Pairwise (· < ·) ∧
  ∀ i ea rg, (i, ea, rg) ∈ named ↔ ∃ dx dy, cells[i]? = some (dx, dy) ∧ ea = effAddr centre (dy * pitch + 4 * dx) ∧ InRegion g (locOf ea) rg

/-- A sense of cells (R210–R212): one request with an event for each patch, at the address of a cell in it; with no cell in a region `sD`
is written at once; a pitch that is no multiple of 4 is refused once the cells' pages have passed (R329). -/
def SenseIssues (i : Instr) (s : State) (d : Reg) (centre : Word) (pitch : Nat) (cells : List (Int × Int)) : Prop :=
  ∀ (u : State) (named : List (Nat × Word × Region)) (ps : List (Nat × Bool × Bool)),
    SensedCells (ownGrid s) centre pitch cells named →
    s.places s.cur.id.grid (named.map (·.2.1)) = ((named.map (·.2.1)).zip (ps.map fun p => Place.mem p.1 p.2.1 p.2.2), u) →
    ps.length = named.length → (∀ p ∈ ps, p.2.1 = true) →
    (pitch % 4 ≠ 0 → ∃ t, exec i s = .next t ∧ Faults u t 1 0x16 0x0C (BitVec.ofNat 64 pitch)) ∧
    (pitch % 4 = 0 → named = [] →
      ∃ t, exec i s = .next t ∧ WritesReg u t d (BitVec.ofNat 64 (31 * 2 ^ 16 + cells.length * 2 ^ 22)) (u.cur.pc + 8)) ∧
    (pitch % 4 = 0 → named ≠ [] → ∃ (patches : List Nat) (eas : List Word) (cs : List Cell),
      patches.Nodup ∧ (∀ x, x ∈ patches ↔ ∃ p ∈ ps, x = p.1 / 256) ∧ cs.length = named.length ∧ eas.length = patches.length ∧
      (∀ (n x : Nat) (ea : Word), patches[n]? = some x → eas[n]? = some ea →
        ∃ (j : Nat) (m : Nat × Word × Region) (p : Nat × Bool × Bool), named[j]? = some m ∧ ps[j]? = some p ∧ ea = m.2.1 ∧ x = p.1 / 256) ∧
      (∀ (n : Nat) (c : Cell), cs[n]? = some c → ∃ (m : Nat × Word × Region) (p : Nat × Bool × Bool), named[n]? = some m ∧ ps[n]? = some p ∧ c.idx = m.1 ∧ c.rg = m.2.2 ∧ c.key = p.1 ∧
        patches[c.patch]? = some (p.1 / 256)) ∧
      exec i s = .next (sent u
        (requestOf u (.sense cs (cells.length - named.length)) ((patches.zip eas).map fun x => ⟨x.2, x.1 * 256, 256, 0, false, 0, 0⟩) (.sense d)
          true false .l u.cur.phaseNo centre) [d] (nextBundle u.cur)))

end Sys2Proof.Claims

/-- R205, R206, R209: the mark operations on one word as issued, the amount at most 65,535; a word in no enabled region faults. -/
def Sys2Proof.Claims.MarkOperationsAsIssued : Prop :=
  ∀ (s : State) (d a b : Reg) (off : BitVec 11),
    let amount := min (s.reg b).toNat 65535
    MarkIssues (.mdepAdd a off b) s a off .depAdd amount 0x30 .none [] true .s ∧
    MarkIssues (.mdepMax a off b) s a off .depMax amount 0x31 .none [] true .s ∧
    MarkIssues (.mrd d a off) s a off .rd 0 0x33 (.raw d) [d] false .l ∧
    MarkIssues (.mclr a off) s a off .clr 0 0x34 .none [] true .s

/-- R210, R211, R212, R213: `msense` first loads its pair list, translates every cell and asks each patch once; `mtick` gives the next cycle at which a tick of the
region begins. -/
def Sys2Proof.Claims.SensesAndTicks : Prop :=
  ∀ (s : State) (d a b : Reg) (st : BitVec 3) (rg : BitVec 3),
    let centre := effAddr (s.reg a) 0
    let list := effAddr (s.reg b) 0
    let pitch := (s.reg b).toNat % 2 ^ 16
    let hi := ((ownGrid s).mreg.getD rg.toNat (0, 0)).2
    (viewOf centre < 6 → locOf centre % 4 = 0 → st.toNat < 4 → SenseIssues (.msense d a b st) s d centre pitch (stencilCells st.toNat)) ∧
    (viewOf centre < 6 → locOf centre % 4 = 0 → st.toNat = 4 → viewOf list < 6 → locOf list % 64 = 0 →
      AsksFor (.msense d a b st) s list 6 8 .none ∧
      ∀ words, words.length = 8 → AtHand s list words →
        (∀ pitch cells, PairList words pitch cells → SenseIssues (.msense d a b st) s d centre pitch cells) ∧
        ((¬ ∃ pitch cells, PairList words pitch cells) → ∃ t, exec (.msense d a b st) s = .next t ∧ Faults s t 1 0x16 0x0C list)) ∧
    GivesNext (.mtick d rg) s d (fun v => ∃ k, 1 ≤ k ∧ k ≤ 2 ^ (hi.toNat / 2 ^ 42 % 32) ∧ v = s.obs + BitVec.ofNat 64 k ∧
      (s.obs.toNat + k + 2 ^ 64 - hi.toNat % 2 ^ 42) % 2 ^ (hi.toNat / 2 ^ 42 % 32) = 0)

/-- R205, R206, R209, R210, R211, R212, R213: the parts above together. -/
def Obligations.MarksSensesAndTicks : Prop := MarkOperationsAsIssued ∧ SensesAndTicks

namespace Sys2Proof.Claims

/-! ### Function registers -/

/-- The bytes of the pool that the threads of the issuing thread's team hold (R102, R214), and its share (R24, R237). -/
def poolHeld (s : State) : Nat :=
  (((s.cur :: s.rest).filter fun x => x.id.grid == s.cur.id.grid && x.id.team == s.cur.id.team).map fun x =>
    (x.fregs.toList.map fun f => 8 * f.coef.length).sum).sum
def poolShare (s : State) : Nat := (ownGrid s).desc.shape.toNat / 2 ^ 21 % 2 ^ 7 * 512

/-- The function register may be written: no replay of `feval.v` still reads it (R187, R215). -/
def MayProduce (s : State) (d : FRegN) : Prop :=
  ∀ v, s.cur.vreplay = some v → ∀ e ∈ v.entries, ∀ rd rb, e.instr ≠ .fevalV rd d rb

/-- An operand function: not empty, without an uncorrectable error (R215, R345). -/
def Holds (s : State) (n : FRegN) (f : FReg) : Prop := s.cur.freg n = f ∧ f.coef ≠ [] ∧ regErr s.cur.id (16 + n.toNat) ∉ s.poison

/-- A function is produced at a machine `u` (R214): stored whole where the share has the bytes for it, while its operands and the old
destination still hold theirs; else the recoverable trap of code 3, with the destination unchanged. -/
def Produces (i : Instr) (s u : State) (d : FRegN) (f : FReg) : Prop :=
  (poolHeld u + 8 * f.coef.length ≤ poolShare u → ∃ t, exec i s = .next t ∧
    (∀ n, t.cur.freg n = if n = d then f else u.cur.freg n) ∧
    t = { u with
      cur := { u.cur with fregs := t.cur.fregs, pc := u.cur.pc + 8 }
      poison := u.poison.filter (· != regErr u.cur.id (16 + d.toNat))
      soft := u.soft.filter (· != regErr u.cur.id (16 + d.toNat)) }) ∧
  (poolShare u < poolHeld u + 8 * f.coef.length → ∃ t, exec i s = .next t ∧
    let need := BitVec.ofNat 64 (8 * f.coef.length)
    if u.cur.tstat.getLsbD 9 then Faults u t 1 0x20 3 need
    else if u.cur.tvec.toNat / 8 % 2 ^ 53 = 0 then Faults u t 1 0x21 3 need
    else EntersHandler { u with aborted := true } t 3 0 need u.cur.pc)

/-- An empty operand faults with cause 0x16, DETAIL 0x0D (R215, R332). -/
def EmptyFaults (i : Instr) (s : State) (n : FRegN) : Prop :=
  (s.cur.freg n).coef = [] → regErr s.cur.id (16 + n.toNat) ∉ s.poison → ∃ t, exec i s = .next t ∧ Faults s t 1 0x16 0x0D 0

/-- The value of a coefficient, and its magnitude. -/
def coefficient (l : List Word) (j : Nat) : FV := (⟨11, 52, true⟩ : Fmt).decode (l.getD j 0).toNat
def magnitude (x : FV) : ℚ := match x with | .fin _ m e => (m : ℚ) * (2 : ℚ) ^ e | _ => 0

/-- One rounding by RoundNE of the exact sum of terms, and whether it was inexact. -/
def roundedSum (l : List FV) : Word × Bool :=
  let r := (⟨11, 52, true⟩ : Fmt).round .ne (sumFV false l)
  (BitVec.ofNat 64 r.1, r.2.getLsbD 0)

/-- One rounding by RoundNE of an exact quotient. -/
def roundedQuotient (l : List FV) (d : FV) : Word × Bool :=
  let r := (⟨11, 52, true⟩ : Fmt).divOp .ne (sumFV false l) d
  (BitVec.ofNat 64 r.1, r.2.getLsbD 0)

/-- A value times a power of two. -/
def timesPower (k : Int) (x : FV) : FV := match x with | .fin a m e => .fin a m (e + k) | _ => x

/-- A value times a whole number of at least 1. -/
def timesNat (k : Nat) (x : FV) : FV := x.mul (.fin false k 0)

/-- `Finish` of R216: what is kept of `c`, whether a coefficient that was not ±0 was dropped, whether the result was cut. -/
def FinishOf (ftol : Nat) (c r : List Word) (inx trc : Bool) : Prop :=
  ∃ n, 1 ≤ n ∧ n ≤ c.length ∧
    ((∃ w ∈ c, ∀ a m e, (⟨11, 52, true⟩ : Fmt).decode w.toNat ≠ .fin a m e) → n = c.length) ∧
    ((∀ w ∈ c, ∃ a m e, (⟨11, 52, true⟩ : Fmt).decode w.toNat = .fin a m e) →
      ∃ top : ℚ, (∃ j < c.length, top = magnitude (coefficient c j)) ∧ (∀ j < c.length, magnitude (coefficient c j) ≤ top) ∧
        (∀ j, n ≤ j → j < c.length → magnitude (coefficient c j) ≤ top * (2 : ℚ) ^ (-(ftol : Int))) ∧
        (n = 1 ∨ top * (2 : ℚ) ^ (-(ftol : Int)) < magnitude (coefficient c (n - 1)))) ∧
    r = c.take (min n 128) ∧ (inx = true ↔ ∃ j, min n 128 ≤ j ∧ j < c.length ∧ (coefficient c j).isZero = false) ∧ trc = decide (128 < n)

/-- FTOL of `TSTAT` (R242). -/
def ftolOf (s : State) : Nat := s.cur.tstat.toNat / 2 ^ 16 % 128

/-- A finished result (R104, R216). -/
def Finished (i : Instr) (s : State) (d : FRegN) (a b : Word) (c : List (Word × Bool)) (ops : List FReg) : Prop :=
  ∃ r inx trc, FinishOf (ftolOf s) (c.map (·.1)) r inx trc ∧
    Produces i s s d ⟨a, b, (c.any (·.2) || inx) || ops.any (·.inx), trc || ops.any (·.trc), r⟩

/-- One step of R221 for the pair (i, j): the coefficients, and whether a rounding was inexact. -/
def productStep (a b : List Word) (c : List Word × Bool) (p : Nat × Nat) : List Word × Bool :=
  let h := roundedSum [timesPower (-1) ((coefficient a p.1).mul (coefficient b p.2))]
  let x := roundedSum [coefficient c.1 (p.1 + p.2), (⟨11, 52, true⟩ : Fmt).decode h.1.toNat]
  let d := c.1.set (p.1 + p.2) x.1
  let k := if p.1 < p.2 then p.2 - p.1 else p.1 - p.2
  let y := roundedSum [coefficient d k, (⟨11, 52, true⟩ : Fmt).decode h.1.toNat]
  (d.set k y.1, ((c.2 || h.2) || x.2) || y.2)

/-- The product of R221, in its loop order. -/
def productSeries (a b : List Word) : List Word × Bool :=
  ((List.range a.length).flatMap fun i => (List.range b.length).map fun j => (i, j)).foldl (productStep a b)
    (List.replicate (a.length + b.length - 1) 0, false)

/-- Line 04 or 08 of R222, with m × P, and line 05: the coefficients of m × P − B with `a` added to the first, and whether a rounding was
inexact. -/
def seriesLess (m : Nat) (p b : List Word) (a : Word) : List Word × Bool :=
  let q := (List.range (max p.length b.length)).map fun j => roundedSum [timesNat m (coefficient p j), negated (coefficient b j)]
  let c := roundedSum [coefficient (q.map (·.1)) 0, (⟨11, 52, true⟩ : Fmt).decode a.toNat]
  ((q.map (·.1)).set 0 c.1, q.any (·.2) || c.2)

/-- Lines 02–07 of R222, for the coefficients a_k still to come, k falling: from B_(k+1), B_(k+2) and the flags INX, TRC gathered so far to
B_1, B_2 and those flags. -/
def ComposedFrom (ftol : Nat) (g : List Word) : List Word → List Word → List Word → Bool → Bool → List Word × List Word × Bool × Bool → Prop
  | [], b1, b2, inx, trc, r => r = (b1, b2, inx, trc)
  | a :: rest, b1, b2, inx, trc, r => ∃ p ip tp b ib tb,
      FinishOf ftol (productSeries g b1).1 p ip tp ∧ FinishOf ftol (seriesLess 2 p b2 a).1 b ib tb ∧
      ComposedFrom ftol g rest b b1 (inx || (productSeries g b1).2 || ip || (seriesLess 2 p b2 a).2 || ib) (trc || tp || tb) r

/-- Lines 01–08 of R222: R before its `Finish`, and the flags gathered; a_0 alone where nA = 1. -/
def Composition (ftol : Nat) (a g r : List Word) (inx trc : Bool) : Prop :=
  (a.length = 1 ∧ r = a ∧ inx = false ∧ trc = false) ∨
  (1 < a.length ∧ ∃ b1 b2 i t p ip tp, ComposedFrom ftol g (a.drop 1).reverse [0] [0] false false (b1, b2, i, t) ∧
    FinishOf ftol (productSeries g b1).1 p ip tp ∧ r = (seriesLess 1 p b2 (a.getD 0 0)).1 ∧
    inx = (i || (productSeries g b1).2 || ip || (seriesLess 1 p b2 (a.getD 0 0)).2) ∧ trc = (t || tp))

/-- b − a. -/
def breadth (f : FReg) : FV := sumFV false [(⟨11, 52, true⟩ : Fmt).decode f.b.toNat, negated ((⟨11, 52, true⟩ : Fmt).decode f.a.toNat)]

/-- C_j of R223 for j from 1 on, over (b − a). -/
def integralTerm (f : FReg) (j : Nat) : Word × Bool :=
  let w := breadth f
  if j = 1 then roundedQuotient [(timesNat 2 (coefficient f.coef 0)).mul w, (negated (coefficient f.coef 2)).mul w] (.fin false 4 0)
  else roundedQuotient [(coefficient f.coef (j - 1)).mul w, (negated (coefficient f.coef (j + 1))).mul w] (.fin false (4 * j) 0)

/-- The integral of R223. -/
def integralSeries (f : FReg) : List (Word × Bool) :=
  let l := (List.range f.coef.length).map fun j => integralTerm f (j + 1)
  roundedSum ((List.range l.length).map fun k =>
    let v := (⟨11, 52, true⟩ : Fmt).decode (l.getD k (0, false)).1.toNat
    if k % 2 = 0 then v else negated v) :: l

/-- D_j of R224: 2·k·a_k twice, for k above j with k − j odd (half of it for j = 0), over b − a. -/
def derivativeTerm (f : FReg) (j : Nat) : Word × Bool :=
  roundedQuotient (((List.range f.coef.length).filter fun k => decide (j < k) && (k - j) % 2 == 1).map fun k =>
    timesNat ((if j = 0 then 2 else 4) * k) (coefficient f.coef k)) (breadth f)

/-- The derivative of R224. -/
def derivativeSeries (f : FReg) : List (Word × Bool) :=
  if f.coef.length = 1 then [(0, false)] else (List.range (f.coef.length - 1)).map (derivativeTerm f)

/-- u of R225. -/
def unitOf (f : FReg) (x : Word) : Word × Bool :=
  let v := fun (w : Word) => (⟨11, 52, true⟩ : Fmt).decode w.toNat
  roundedQuotient [timesPower 1 (v x), negated (v f.a), negated (v f.b)] (breadth f)

/-- `Clenshaw(f, x)` of R225, its loop over k from n − 1 down to 1; for n = 1 a −0 becomes +0. -/
def clenshaw (f : FReg) (x : Word) : Word :=
  let v := fun (w : Word) => (⟨11, 52, true⟩ : Fmt).decode w.toNat
  let u := v (unitOf f x).1
  let n := f.coef.length
  let b := (List.range (n - 1)).foldl (fun (b : Word × Word) m =>
    let y := (roundedSum [(timesPower 1 u).mul (v b.1), negated (v b.2)]).1
    ((roundedSum [v y, coefficient f.coef (n - 1 - m)]).1, b.1)) (0, 0)
  let r := (roundedSum [v (roundedSum [u.mul (v b.1), negated (v b.2)]).1, coefficient f.coef 0]).1
  if n = 1 ∧ r = 0x8000000000000000 then 0 else r

/-- The image of R103. -/
def imageOf (f : FReg) : List Word :=
  if f.coef = [] then [0, 0, 0, 0]
  else [f.a, f.b, BitVec.ofNat 64 (f.coef.length + 2 ^ 8 * f.inx.toNat + 2 ^ 9 * f.trc.toNat), 0] ++ f.coef

/-- The value of an FP64 pattern. -/
def fp64 (w : Word) : FV := (⟨11, 52, true⟩ : Fmt).decode w.toNat

/-- c_j of R227 over the samples (n of them, at least 2): (−1)^j · 2 · γ_j · Σ γ_m · RoundNE(s_m × K_jm) over n − 1, the sum exact, rounded
once; and whether a K_jm, a product or the quotient was inexact. `cosPi a b` is RoundNE(cos(π·a/b)). -/
def sampled (l : List Word) (j : Nat) : Word × Bool :=
  let n := l.length
  let k := fun m => cosPi (j * m) (n - 1)
  let t := fun m => roundedSum [(coefficient l m).mul (fp64 (k m).1)]
  let half := fun i => if i = 0 ∨ i = n - 1 then (-1 : Int) else 0
  let r := roundedQuotient ((List.range n).map fun m =>
    let v := timesPower (half m) (fp64 (t m).1)
    timesPower (1 + half j) (if j % 2 = 1 then negated v else v)) (.fin false (n - 1) 0)
  (r.1, r.2 || (List.range n).any fun m => (k m).2 || (t m).2)

/-- Sign of R228, undefined for NaN. -/
def signOf (x : FV) : Option Int :=
  match x with
  | .nan => none
  | .inf a => some (if a then -1 else 1)
  | .fin a m _ => some (if m = 0 then 0 else if a then -1 else 1)

/-- Next of R228, the next FP64 value above. -/
def nextAbove (w : Word) : Word :=
  if w = 0 ∨ w = 0x8000000000000000 then 1 else if w.msb then w - 1 else w + 1

/-- x_m of R228, line 02. -/
def samplePoint (lo hi : Word) (m : Nat) : Word :=
  if m = 0 then lo else if m = 256 then hi
  else (roundedSum [timesPower (-8) (timesNat (256 - m) (fp64 lo)), timesPower (-8) (timesNat m (fp64 hi))]).1

/-- Does the loop of R228, lines 04–07, end at m? -/
def endsAt (f : FReg) (lo hi : Word) (m : Nat) : Bool :=
  let v := fun j => signOf (fp64 (clenshaw f (samplePoint lo hi j)))
  decide (v m = some 0 ∨ (m < 256 ∧ v m ≠ none ∧ v (m + 1) ≠ none ∧ v (m + 1) ≠ some 0 ∧ v m ≠ v (m + 1)))

/-- Lines 09–16 of R228; `none` is NaN. The interval halves, so that 4,096 turns are more than FP64 allows. -/
def halved (f : FReg) (sL : Option Int) : Nat → Word → Word → Option Word
  | 0, l, _ => some l
  | turns + 1, l, r =>
    if place (fp64 (nextAbove l)) < place (fp64 r) then
      let m := (roundedSum [timesPower (-1) (fp64 l), timesPower (-1) (fp64 r)]).1
      let m := if place (fp64 m) = place (fp64 l) ∨ place (fp64 m) = place (fp64 r) then nextAbove l else m
      match signOf (fp64 (clenshaw f m)) with
      | none => none
      | some v => if v = 0 then some m else if some v = sL then halved f sL turns m r else halved f sL turns l m
    else some l

/-- The algorithm of R228 for bounds in their order; `none` is NaN. -/
def rootOf (f : FReg) (lo hi : Word) : Option Word :=
  match (List.range 257).find? (endsAt f lo hi) with
  | none => none
  | some m =>
    let v := signOf (fp64 (clenshaw f (samplePoint lo hi m)))
    if v = some 0 then some (samplePoint lo hi m) else halved f v 4096 (samplePoint lo hi m) (samplePoint lo hi (m + 1))

/-- Finite bounds in their order (R102, R218). -/
def IsInterval (a b : Word) : Prop :=
  ∃ n m e n' m' e', (⟨11, 52, true⟩ : Fmt).decode a.toNat = .fin n m e ∧ (⟨11, 52, true⟩ : Fmt).decode b.toNat = .fin n' m' e' ∧
    rational n m e < rational n' m' e'

end Sys2Proof.Claims

/-- R103, R214, R217: `fld.f` loads its image as one load, of as many bytes as it takes the image to have, and where the image that came has
more coefficients, also the rest (log entry 39); it produces the function of the image, and refuses an image that is none; `fst.f` sends the
image of its register as one store. -/
def Sys2Proof.Claims.FunctionImagesAreLoadedAndStored : Prop :=
  ∀ (s v w : State) (d n : FRegN) (a : Reg) (off : BitVec 11) (words more : List Word) (ks keys : List Nat),
    let ea := effAddr (s.reg a) off.toInt
    let c := (words.getD 2 0).toNat
    let len := c % 256
    let image := imageOf (s.cur.freg n)
    let bad := 128 < len ∨ 2 ^ 10 ≤ c ∨ words.getD 3 0 ≠ 0
    viewOf ea < 6 → locOf ea % 8 = 0 →
    ((∀ g ∈ s.cur.got, g.1 ≠ ea) → ∃ asked ≤ 128, AsksFor (.fldF d a off) s ea 3 (4 + asked) .l) ∧
    (4 ≤ words.length → (s.cur.got.filter fun g => g.1 == ea).getLast? = some (ea, words) →
      Mapped s v ea ((List.range (4 + len)).map (8 * ·)) false ks →
      (bad → ∃ t, exec (.fldF d a off) s = .next t ∧ Faults s t 1 0x16 0x0D (BitVec.ofNat 64 len)) ∧
      (¬ bad → len ≠ 0 → ¬ IsInterval (words.getD 0 0) (words.getD 1 0) →
        ∃ t x, exec (.fldF d a off) s = .next t ∧ (x = words.getD 0 0 ∨ x = words.getD 1 0) ∧ Faults s t 1 0x16 0x0D x) ∧
      (¬ bad → len = 0 → MayProduce s d → Produces (.fldF d a off) s s d ⟨0, 0, false, false, []⟩) ∧
      (¬ bad → len ≠ 0 → IsInterval (words.getD 0 0) (words.getD 1 0) →
        (words.length < 4 + len → AsksFor (.fldF d a off) s (eaPlus ea (8 * words.length)) 3 (4 + len - words.length) .l) ∧
        (words.length + more.length = 4 + len → more ≠ [] → AtHand s (eaPlus ea (8 * words.length)) more → MayProduce s d →
          Produces (.fldF d a off) s s d ⟨words.getD 0 0, words.getD 1 0, c.testBit 8, c.testBit 9, ((words ++ more).drop 4).take len⟩) ∧
        (4 + len ≤ words.length → MayProduce s d →
          Produces (.fldF d a off) s s d ⟨words.getD 0 0, words.getD 1 0, c.testBit 8, c.testBit 9, (words.drop 4).take len⟩))) ∧
    (regErr s.cur.id (16 + n.toNat) ∉ s.poison →
      Mapped s w ea ((List.range image.length).map (8 * ·)) true keys → StaysHere w keys →
      exec (.fstF a off n) s = .next (sent w
        (requestOf w .write (((((List.range image.length).map (8 * ·)).zip keys).zip image).map fun p => unitAt ea p.1.1 p.1.2 8 p.2)
          .none false true .s w.cur.phaseNo ea) [] (nextBundle w.cur)))

/-- R218, R219: `fset`, `fdom`, `ftrunc` and `flen`. -/
def Sys2Proof.Claims.FunctionsAreBuiltAndInspected : Prop :=
  ∀ (s : State) (d n : FRegN) (a b r : Reg) (j : BitVec 7) (k : BitVec 8) (f : FReg),
    (Holds s d f → MayProduce s d → ∃ c : List Word, Produces (.fset d a j) s s d { f with coef := c } ∧ c.length = max f.coef.length (j.toNat + 1) ∧
      ∀ m < c.length, c.getD m 1 = (if m = j.toNat then s.reg a else f.coef.getD m 0)) ∧
    EmptyFaults (.fset d a j) s d ∧
    (MayProduce s d → regErr s.cur.id (16 + d.toNat) ∉ s.poison → IsInterval (s.reg a) (s.reg b) →
      Produces (.fdom d a b) s s d (if (s.cur.freg d).coef = [] then ⟨s.reg a, s.reg b, false, false, [0]⟩
        else { s.cur.freg d with a := s.reg a, b := s.reg b })) ∧
    (¬ IsInterval (s.reg a) (s.reg b) → ∃ t x, exec (.fdom d a b) s = .next t ∧ (x = s.reg a ∨ x = s.reg b) ∧ Faults s t 1 0x16 0x0D x) ∧
    (Holds s n f → MayProduce s d → ∃ inx, (inx = true ↔ f.inx = true ∨ ∃ m, k.toNat ≤ m ∧ m < f.coef.length ∧ (coefficient f.coef m).isZero = false) ∧
      Produces (.ftrunc d n k) s s d ⟨f.a, f.b, inx, f.trc, f.coef.take k.toNat⟩) ∧
    EmptyFaults (.ftrunc d n k) s n ∧
    (regErr s.cur.id (16 + n.toNat) ∉ s.poison → GivesNext (.flen r n) s r
      (· = BitVec.ofNat 64 ((s.cur.freg n).coef.length + 2 ^ 8 * (s.cur.freg n).inx.toNat + 2 ^ 9 * (s.cur.freg n).trc.toNat)))

/-- R104, R214–R216, R220, R221, R223, R224: the finished results of whole-function arithmetic; operands that must share an interval and
do not are a domain mismatch, cause 0x17, whose FVAL is the A of fA where the A bounds differ, and else its B (R340). -/
def Sys2Proof.Claims.FunctionArithmeticIsFinished : Prop :=
  ∀ (s : State) (d m n : FRegN) (b : Reg) (x y : FReg), Holds s m x → Holds s n y → MayProduce s d →
    (x.a = y.a → x.b = y.b →
      Finished (.faddF d m n) s d x.a x.b ((List.range (max x.coef.length y.coef.length)).map fun j =>
        roundedSum [coefficient x.coef j, coefficient y.coef j]) [x, y] ∧
      Finished (.fsubF d m n) s d x.a x.b ((List.range (max x.coef.length y.coef.length)).map fun j =>
        roundedSum [coefficient x.coef j, negated (coefficient y.coef j)]) [x, y] ∧
      ∃ r inx trc, FinishOf (ftolOf s) (productSeries x.coef y.coef).1 r inx trc ∧
        Produces (.fmulF d m n) s s d
          ⟨x.a, x.b, ((productSeries x.coef y.coef).2 || inx) || (x.inx || y.inx), trc || (x.trc || y.trc), r⟩) ∧
    ((x.a ≠ y.a ∨ x.b ≠ y.b) → ∀ p ∈ [(Instr.faddF d m n, 0x44), (.fsubF d m n, 0x45), (.fmulF d m n, 0x46)],
      ∃ t, exec p.1 s = .next t ∧ Faults s t 1 0x17 p.2 (if x.a ≠ y.a then x.a else x.b)) ∧
    Finished (.fscl d m b) s d x.a x.b ((List.range x.coef.length).map fun j =>
      roundedSum [(coefficient x.coef j).mul ((⟨11, 52, true⟩ : Fmt).decode (s.reg b).toNat)]) [x] ∧
    Finished (.fint d m) s d x.a x.b (integralSeries x) [x] ∧
    Finished (.fder d m) s d x.a x.b (derivativeSeries x) [x]

/-- R222, R340: `fcomp` on the interval of its second operand: outside the first one's interval a domain mismatch, whose FVAL is lo where
lo < a, and else hi; else the finished
composition (for a constant first operand that constant). -/
def Sys2Proof.Claims.CompositionStaysInItsDomain : Prop :=
  ∀ (s : State) (d m n : FRegN) (x y : FReg), Holds s m x → Holds s n y → MayProduce s d →
    let v := fun (w : Word) => (⟨11, 52, true⟩ : Fmt).decode w.toNat
    let up := fun (l : List FV) => (⟨11, 52, true⟩ : Fmt).round .up (sumFV false l)
    let bound := (y.coef.drop 1).foldl (fun (acc : Word × Bool) w =>
      let r := up [v acc.1, v (w &&& 0x7FFFFFFFFFFFFFFF)]
      (BitVec.ofNat 64 r.1, acc.2 || r.2.getLsbD 0)) (0, false)
    let low := (⟨11, 52, true⟩ : Fmt).round .down (sumFV true [v (y.coef.getD 0 0), negated (v bound.1)])
    let high := up [v (y.coef.getD 0 0), v bound.1]
    let inside := v (BitVec.ofNat 64 low.1) ≠ .nan ∧ v (BitVec.ofNat 64 high.1) ≠ .nan ∧ v x.a ≠ .nan ∧ v x.b ≠ .nan ∧
      place (v x.a) ≤ place (v (BitVec.ofNat 64 low.1)) ∧ place (v (BitVec.ofNat 64 high.1)) ≤ place (v x.b)
    let g := unitOf x (y.coef.getD 0 0) :: (y.coef.drop 1).map fun w => roundedQuotient [timesPower 1 (v w)] (breadth x)
    let below := v (BitVec.ofNat 64 low.1) ≠ .nan ∧ v x.a ≠ .nan ∧ place (v (BitVec.ofNat 64 low.1)) < place (v x.a)
    (¬ inside → below → ∃ t, exec (.fcomp d m n) s = .next t ∧ Faults s t 1 0x17 0x48 (BitVec.ofNat 64 low.1)) ∧
    (¬ inside → ¬ below → ∃ t, exec (.fcomp d m n) s = .next t ∧ Faults s t 1 0x17 0x48 (BitVec.ofNat 64 high.1)) ∧
    (inside → ∃ c ic tc r inx trc, Composition (ftolOf s) x.coef (g.map (·.1)) c ic tc ∧ FinishOf (ftolOf s) c r inx trc ∧
      Produces (.fcomp d m n) s s d
        ⟨y.a, y.b, (bound.2 || low.2.getLsbD 0 || high.2.getLsbD 0 || g.any (·.2) || ic || inx) || (x.inx || y.inx),
          (tc || trc) || (x.trc || y.trc), r⟩)

/-- R225–R228: `feval` and `feval.v` evaluate by Clenshaw's recurrence; `fsamp` finishes the series of its samples, with the cosines of
R227, of which those that are exact stand here; `froot` returns what its search finds, NaN with NR set when it finds nothing. That a
constant function gives NaN where u is NaN or infinite is the model's reading of R225 (log entry 55), and that `feval.v` runs on tiles of different TYPE that of R175 and R226 (log entry 54). -/
def Obligations.FunctionsAreEvaluatedSampledAndSolved : Prop :=
  ∀ (s : State) (m : FRegN) (r b c : Reg) (rd rb : RowOp) (k : BitVec 8) (x : FReg), Holds s m x →
    let ty := (tileAt s rb.tile).type
    let dst := (tileAt s rd.tile).type
    let sample := fun j => BitVec.ofNat 64 (Elem.convert (element ty (rowAt s rb) j) (typeOf ty) .fp64)
    GivesNext (.feval r m b) s r (· = clenshaw x (s.reg b)) ∧
    (TilesFree s [rd.tile, rb.tile] → RowsSound s [rb] →
      ∃ w, exec (.fevalV rd m rb) s = .next { putRow s rd w with cur := logged s (.fevalV rd m rb) [rd, rb] [] s.cur } ∧
        RowFrom dst (rowAt s rd) w (min (elemCount ty) (elemCount dst)) fun j => Elem.convert (clenshaw x (sample j)).toNat .fp64 (typeOf dst)) ∧
    (TilesFree s [rb.tile] → RowsSound s [rb] → MayProduce s m → 1 ≤ k.toNat →
      (k.toNat ≤ elemCount ty → Finished (.fsamp m rb k) s m x.a x.b
        (if k = 1 then [(sample 0, false)] else (List.range k.toNat).map (sampled ((List.range k.toNat).map sample))) []) ∧
      (elemCount ty < k.toNat → ∃ t, exec (.fsamp m rb k) s = .next t ∧ Faults s t 1 0x16 0x0D (k.setWidth 64))) ∧
    (∀ n, 1 ≤ n → ∀ a, (a % (2 * n) = 0 → cosPi a n = (0x3FF0000000000000, false)) ∧ (a % (2 * n) = n → cosPi a n = (0xBFF0000000000000, false)) ∧
      (2 * (a % n) = n → cosPi a n = (0, false))) ∧
    (∀ v, IsInterval (s.reg b) (s.reg c) → rootOf x (s.reg b) (s.reg c) = some v → GivesNext (.froot r m b c) s r (· = v)) ∧
    ((¬ IsInterval (s.reg b) (s.reg c) ∨ rootOf x (s.reg b) (s.reg c) = none) → ∃ t, exec (.froot r m b c) s = .next t ∧
      (∀ n, t.reg n = if n = r ∧ r ≠ 0 then 0x7FF8000000000000 else s.reg n) ∧
      (∀ n < 64, t.cur.tstat.getLsbD n = (s.cur.tstat.getLsbD n || n == 8)) ∧
      t = { s with cur := { s.cur with regs := t.cur.regs, tstat := t.cur.tstat, pc := s.cur.pc + 8 } })

/-- R103, R214, R217, R218, R219: the parts above together. -/
def Obligations.FunctionsAreLoadedBuiltAndInspected : Prop := FunctionImagesAreLoadedAndStored ∧ FunctionsAreBuiltAndInspected

/-- R104, R214–R216, R220, R221, R223, R224, R222: the parts above together. -/
def Obligations.FunctionArithmeticAndComposition : Prop := FunctionArithmeticIsFinished ∧ CompositionStaysInItsDomain

namespace Sys2Proof.Claims

/-! ### What homes do, and what comes back -/

/-- The bytes of memory from a key on, little-endian, as a number (R3). -/
def bytesAt (s : State) (a n : Nat) : Nat := ((List.range n).map fun i => (s.byte (a + i)).toNat * 256 ^ i).sum

/-- Memory after a value has been stored in `n` bytes from `a`: those bytes hold it, every other byte is as before. The memory before
is in its canonical form, which every step keeps (MemoriesKeepTheirForm). -/
def Stored (s t : State) (a n : Nat) (v : Nat) : Prop :=
  Memory.wf s.mem = true → ∀ x, t.byte x = if a ≤ x ∧ x < a + n then BitVec.ofNat 8 (v / 256 ^ (x - a)) else s.byte x

/-- The full/empty bits after the word that holds `a` has taken one; `none` leaves it. -/
def FullAfter (s t : State) (a : Nat) (v : Option Bool) : Prop :=
  ∀ x, t.isFull x = if x / 8 = a / 8 then v.getD (s.isFull x) else s.isFull x

/-- A piece of a request marked as performed, with the value for the reply and the tick that a mark operation took. A request that is
then wholly performed goes behind the others: replies leave in the order of the events (R69). -/
def marked (s : State) (n k : Nat) (v : Word) (tick : Nat) : List Req :=
  let l := s.fabric.map fun x => if x.id = n then
    { x with parked := false, pieces := x.pieces.modify k fun p => { p with done := true, val := v, tick := tick } } else x
  match l.find? (·.id == n) with
  | some r => if r.pieces.all (·.done) then (l.filter fun x => x.id != n) ++ [r] else l
  | none => l

/-- A key lies in the TCM share of no core that is shadowed-off, whose saddlebag a store there changes too (R269). -/
def NotShadowed (s : State) (k : Nat) : Prop :=
  ∀ g l c, homeOf k = .tcm g l → (s.teamD g l).core = some c → (s.core c).power ≠ .shadowedOff

/-- A piece of a request performed at its home on the bytes from `a` (R70): `new` is stored, if anything, the full/empty bit set, the
value kept for the reply; nothing else changes (but what the keep region has still to make durable, the lines of data caches, and the
saddlebag of a core that is shadowed-off). -/
def Performed (s : State) (n k a len : Nat) (new : Option Nat) (fe : Option Bool) (v : Word) (tick : Nat) : Prop :=
  ∃ t, exec (.performAtHome n k) s = .next t ∧
    (match new with | some x => Stored s t a len x | none => t.mem = s.mem) ∧ FullAfter s t a fe ∧
    (isKeep a = false ∨ new = none ∧ fe = none → t.keepPending = s.keepPending ∧ t.fresh = s.fresh) ∧
    (NotShadowed s a → t.cores = s.cores) ∧
    (new = none → t.poison = s.poison ∧ t.soft = s.soft) ∧ (∀ w, w ∈ t.poison → w ∈ s.poison) ∧ (∀ w, w ∈ t.soft → w ∈ s.soft) ∧
    t = { s with
      mem := t.mem, empty := t.empty, poison := t.poison, soft := t.soft, lines := t.lines, keepPending := t.keepPending, fresh := t.fresh
      cores := t.cores, fabric := marked s n k v tick }

/-- No data cache holds an error in one of its lines (R345). -/
def CachesClean (s : State) : Prop := ∀ c w, lineErr c w ∉ s.poison ∧ lineErr c w ∉ s.soft

/-- The lines of data caches but those that `n` bytes from a key touch (R61). -/
def linesBut (s : State) (k n : Nat) : List Line :=
  s.lines.filter fun l => !(decide (32 * l.num < k + n) && decide (k < 32 * l.num + 32))

/-- The bytes that one code covers at word `w` of memory (R344): 64 of DRAM, 32 of the keep region's MRAM, 8 of SRAM. -/
def coded (w : Nat) : Nat := if 2 ^ 53 ≤ 8 * w then 8 else if isKeep (8 * w) then 32 else 64

/-- A read of `n` bytes from a key has nothing to correct: no error of one bit stands in the units of their words or in a line of the bank,
and no other error in a clean line of it, which would be read again (R344, R345). -/
def NothingToCorrect (s : State) (a n : Nat) : Prop :=
  ∀ w, w ∈ s.soft ∨ w ∈ s.poison ∧ inBankClean w = true →
    let z := coded w
    let first := placeWord w * 8 / z * z
    first + z ≤ a ∨ a + n ≤ first

/-- What a bank makes of a `BANKPART` write (R64, R65, R347, R356): W takes the value, cut to two megabytes below the live ways; a change to
it begins, unless one is in progress, after which the value then has its turn (log entry 43); the megabytes that a shrinking change takes
are withdrawn. -/
def BankTakes (x y : Bank) (v : Word) : Prop :=
  let w := min (v.toNat % 16) (16 - 4 * x.retired.length - 2)
  (x.busy ≠ none → y = { x with w := w, waiting := some w }) ∧
  (x.busy = none → w = x.cur → y = { x with w := w }) ∧
  (x.busy = none → x.cur < w → y = { x with w := w, busy := some w }) ∧
  (x.busy = none → w < x.cur → y = { x with w := w, busy := some w, withdrawn := y.withdrawn } ∧
    ∀ m why, (m, why) ∈ y.withdrawn ↔ if w ≤ m ∧ m < x.cur then why = .shrink else (m, why) ∈ x.withdrawn)

/-- Two keys have one home (R57, R73): that of one address space, the scratchpad of a cluster, or a bank and its carve-out, which it holds
(DEDUCED, log entry 78). -/
def OneHome (s : State) (k j : Nat) : Prop :=
  homeOf k = homeOf j ∨
  (∃ g l c h m d, homeOf k = .spad g l ∧ homeOf j = .spad h m ∧ (s.teamD g l).core = some c ∧ (s.teamD h m).core = some d ∧ clusterOf c = clusterOf d) ∨
  (∃ b, homeOf k = .carve b ∧ homeOf j = .bank s.host.pkgnum.toNat b) ∨ ∃ b, homeOf k = .bank s.host.pkgnum.toNat b ∧ homeOf j = .carve b

/-- The piece of a request arrives at a home that may perform it, without an error in its words or in a data cache, in no turn of a
replay-mode chunk, and no operation waits for the state of the word it reaches. -/
def Arrives (s : State) (r : Req) (k : Nat) (p : Piece) : Prop :=
  s.fabric.find? (·.id == r.id) = some r ∧ r.pieces[k]? = some p ∧ s.mayPerform r p = true ∧ s.carveState p.key = .ok ∧
  s.meetsError r k p (s.mapKey p.key) = false ∧ NothingToCorrect s (s.mapKey p.key) p.len ∧
  CachesClean s ∧ s.chunkWrites = none ∧
  ∀ q ∈ s.fabric, q.parked = true → ∀ x ∈ q.pieces, s.mapKey x.key / 8 ≠ s.mapKey p.key / 8

/-- The tick of a region at a cycle (R207). -/
def tickOf (rg : Region) (c : Word) : Nat := (c.toNat + 2 ^ 64 - rg.origin) % 2 ^ 42 / 2 ^ rg.nexp % 4096

/-- The value of a mark word faded to a tick (R100, R101). -/
def fadedTo (rg : Region) (w T : Nat) : Nat :=
  (fun v => v * (256 - rg.k) / 256)^[(T + 4096 - w / 16 % 4096) % 4096] (w / 2 ^ 16 % 2 ^ 16)

/-- An atomic's new value (R152, R153). -/
def atomicResult (f : AtomicFn) (old b cmp : Word) : Word :=
  match f with
  | .add => old + b
  | .and => old &&& b
  | .or => old ||| b
  | .xor => old ^^^ b
  | .min => if old.toInt ≤ b.toInt then old else b
  | .max => if b.toInt ≤ old.toInt then old else b
  | .minu => if old.toNat ≤ b.toNat then old else b
  | .maxu => if b.toNat ≤ old.toNat then old else b
  | .swap => b
  | .cas => if old = cmp then b else old
  | .addf64 => BitVec.ofNat 64 ((⟨11, 52, true⟩ : Fmt).round .ne
      (sumFV false [(⟨11, 52, true⟩ : Fmt).decode old.toNat, (⟨11, 52, true⟩ : Fmt).decode b.toNat])).1
  | .addf32 => BitVec.ofNat 64 ((⟨8, 23, true⟩ : Fmt).round .ne
      (sumFV false [(⟨8, 23, true⟩ : Fmt).decode (old.toNat % 2 ^ 32), (⟨8, 23, true⟩ : Fmt).decode (b.toNat % 2 ^ 32)])).1

/-- A thread changed wherever it stands. -/
def onThread (s : State) (who : Tid) (f : Thread → Thread) : State :=
  { s with cur := if s.cur.id = who then f s.cur else s.cur, rest := s.rest.map fun x => if x.id = who then f x else x }

/-- Is a core in run, entering no other power state (R267, R268)? -/
def Awake (s : State) (c : Nat) : Prop := (s.core c).power = .run ∧ (s.core c).entering = none

/-- A counter of `OUTCNT` lowered by one. -/
def lowered (n : BitVec 6) : BitVec 6 := if n = 0 then 0 else n - 1

/-- A thread after one of its requests is done with: its counter lowered, its registers free, some written. -/
def Answered (x y : Thread) (r : Req) (f : Reg → Option Word) : Prop :=
  (∀ d, y.reg d = if d = 0 then x.reg d else (f d).getD (x.reg d)) ∧
  y = { x with
    regs := y.regs
    awaiting := x.awaiting.filter fun a => a.2 != r.id
    cntL := if r.counter = .l then lowered x.cntL else x.cntL
    cntS := if r.counter = .s then lowered x.cntS else x.cntS }

/-- A request's reply has reached its thread, which is now `y`: the request is gone, and nothing else changes but the teams where a
row is written, and errors in the places written anew. -/
def Delivered (s t : State) (r : Req) (y : Thread) : Prop :=
  t.thread? r.tid = some y ∧ (∀ z, z ≠ r.tid → z.grid ≠ 0 → t.thread? z = s.thread? z) ∧
  (∀ w, w ∈ t.poison → w ∈ s.poison) ∧ (∀ w, w ∈ t.soft → w ∈ s.soft) ∧
  t = { s with
    cur := t.cur, rest := t.rest, fabric := s.fabric.filter fun q => q.id != r.id, teams := t.teams, poison := t.poison, soft := t.soft }

/-- The value that the pieces of a request returned, joined in order. -/
def returned (r : Req) : Nat := r.pieces.foldr (fun p n => p.val.toNat % 2 ^ (8 * p.len) + 2 ^ (8 * p.len) * n) 0

/-- A performed request of a thread that waits for it, with nothing in its way (R39, R156): no reply to an earlier event of a home it
shares comes first (R69), and its own has no error (R345). -/
def Ready (s : State) (r : Req) (x : Thread) : Prop :=
  s.fabric.find? (·.id == r.id) = some r ∧ (∀ p ∈ r.pieces, p.done = true) ∧ r.misrouted = false ∧ r.orphan = false ∧ Awake s r.core ∧
  s.replyBehind r = false ∧ replyErr r.id ∉ s.poison ∧ replyErr r.id ∉ s.soft ∧ s.thread? r.tid = some x ∧ r.tid.grid ≠ 0

/-- The cycle that a thread observes (R263): in replay mode that of its own team's turn, of which the last is over where a later team's
chunk runs, and none has begun where an earlier one's does. -/
def observed (s : State) (x : Thread) : Word :=
  let g := s.gridD x.id.grid
  let turn := if x.id.team < g.replay.team then 512 else if g.replay.team < x.id.team then 0 else g.replay.turn
  if g.desc.flag 4 then g.start + BitVec.ofNat 64 (512 * g.replay.innings + turn) else s.cycle

/-- Does a replay of the instruction access memory: a row, or the element that a selection appends (R125, R187)? -/
def ReplayAccesses (x : Thread) (i : Instr) : Prop :=
  (∃ d a b, i = .vld d a b) ∨ (∃ a b d, i = .vst a b d) ∨ ∃ c y, selectReg i = some c ∧ x.stream? c = some y ∧ y.write = true ∧ y.idx < y.count

/-- Everything that a thread issued below a number is performed, the accesses of its `vloop`'s replays included. -/
def AllPerformed (s : State) (who : Tid) (upto : Nat) : Prop :=
  (∀ r ∈ s.fabric, r.tid = who → r.id < upto → ∀ p ∈ r.pieces, p.done = true) ∧
  ∀ x ∈ s.cur :: s.rest, x.id = who → ∀ v, x.vreplay = some v → v.base < upto →
    ∀ e, e ∈ v.entries.drop v.k ∨ v.c < v.count ∧ e ∈ v.entries → ¬ ReplayAccesses x e.instr

/-- A thread goes on with the bundle after the one at which it waited; of that one nothing is left to issue (R43). -/
def goesOn (x : Thread) : Thread :=
  { x with
    wait := .running, pc := x.pc + 8
    half := match x.half with | some h => if h.pc = x.pc ∧ h.hm = x.tstat.getLsbD 9 then none else some h | none => none }

/-- The stores of a list that are durable where those with some numbers are (R86). -/
inductive DurableStore (l : List KeepStore) (named : List Nat) : KeepStore → Prop
  | reached (p : KeepStore) : p ∈ l → p.id ∈ named → DurableStore l named p
  | whole (p q : KeepStore) : p ∈ l → DurableStore l named q → p.id = q.id → DurableStore l named p
  | before (p q : KeepStore) : p ∈ l → DurableStore l named q → p.id < q.id →
      p.key / 8 = q.key / 8 ∨ p.tid = q.tid ∧ p.epoch < q.epoch → DurableStore l named p

/-- What an engine reads at an address (R79, R164): the bytes of memory there, each unit at the place to which it is translated, or 0 in the
matrix queue window, which stores nothing (R192). -/
def BytesOf (s : State) (sp : Space) (ea : Word) (n v : Nat) : Prop :=
  (∃ keys w, s.engineCheck sp ea n false = (.ok keys, w) ∧ v < 2 ^ (8 * n) ∧
    ∀ p ∈ keys.zip (units8 (locOf ea) n), v / 2 ^ (8 * p.2.1) % 2 ^ (8 * p.2.2) = bytesAt w (w.mapKey p.1) p.2.2) ∨
  ∃ o w, s.engineCheck sp ea n false = (.queueWindow o, w) ∧ v = 0

/-- Several reads one after another, and what each gave. -/
def ReadsInTurn (who : Tid) (upto : Nat) : List (Word × Nat) → List Nat → State → State → Prop
  | [], l, s, u => l = [] ∧ u = s
  | (ea, n) :: rest, l, s, u => ∃ v w left,
      l = v :: left ∧ s.engineRead (.grid who.grid) who upto ea n = (.bytes v, w) ∧ ReadsInTurn who upto rest left w u

/-- R79, R345: the reads of the engines give the bytes of memory; one gives them where no earlier store of its thread to them waits, their
homes hold nothing back and they hold no uncorrectable error; several are made in turn. -/
def EnginesReadMemory : Prop :=
  ∀ (s : State) (sp : Space) (who : Tid) (upto : Nat),
    (∀ ea n v u, s.engineRead sp who upto ea n = (.bytes v, u) → BytesOf s sp ea n v) ∧
    (∀ ea n keys w, s.engineCheck sp ea n false = (.ok keys, w) →
      (∀ p ∈ keys.zip (units8 (locOf ea) n), w.storePending who upto p.1 p.2.2 = false ∧ w.engineHeld p.1 = false ∧
        w.poisoned (w.mapKey p.1) p.2.2 = false) →
      ∃ v u, s.engineRead sp who upto ea n = (.bytes v, u)) ∧
    ∀ l reads u, s.engineReads who upto reads = (.ok l, u) → ReadsInTurn who upto reads l s u

/-- R30, R75, R78, R83–R85, R155–R157, R311: what ends the wait of a thread at its bundle, and how it goes on; until then nothing changes. A
`pfence tile` saves the core that holds the thread's team (R84; DESIGN CHOICE, log entry 44). -/
def WaitsEndWhenTheirConditionHolds : Prop :=
  ∀ (s : State) (who : Tid) (x : Thread), s.thread? who = some x →
    let f := s.focus who
    let on := fun (y : Thread) => { f with cur := y, aborted := false }
    let ends := fun (met : Prop) (y : Thread) => (met → s.wakeThread who = on y) ∧ (¬ met → s.wakeThread who = s)
    let complete := fun upto => AllPerformed s who upto ∧ x.closed = []
    let counted := x.cntC = 0 ∧ x.cntM = 0 ∧ x.closed.length < 3
    (∀ l sn cn m, x.wait = .waitc l sn cn m →
      ends (x.cntL.toNat ≤ l.toNat ∧ x.cntS.toNat ≤ sn.toNat ∧ x.cntC.toNat ≤ cn.toNat ∧ x.cntM.toNat ≤ m.toNat) (goesOn x)) ∧
    (∀ upto, x.wait = .performed upto true → ends (LoadsPerformedOf s who upto) (goesOn x)) ∧
    (∀ upto, x.wait = .performed upto false → ends (complete upto) (goesOn x)) ∧
    (∀ upto, x.wait = .acquire upto → ends (LoadsPerformedOf s who upto) { x with wait := .running }) ∧
    (∀ n, x.wait = .word n → ends ((∀ r ∈ s.fabric, r.id ≠ n) ∧ LoadsPerformedOf s who n) (goesOn x)) ∧
    (∀ sc full, x.wait = .fence sc full → ends (x.closed.length < 3)
      (if full then { released f sc x with wait := .performed f.fresh false } else goesOn (released f sc x))) ∧
    (∀ upto loc, x.wait = .publ .counters upto loc → ends counted { released f 4 x with wait := .publ .release f.fresh loc }) ∧
    (∀ upto loc, x.wait = .publ .release upto loc →
      (∀ k w e, (f.place who.grid loc).1 = .mem k w e → f.areaOf k ≠ none → ends (complete upto) { x with wait := .publ .exchange f.fresh loc }) ∧
      ((∀ k w e, (f.place who.grid loc).1 = .mem k w e → f.areaOf k = none) → ends (complete upto) (goesOn x))) ∧
    (∀ upto loc, x.wait = .publ .exchange upto loc → s.wakeThread who = s) ∧
    (∀ upto loc, x.wait = .publ .done upto loc → s.wakeThread who = on (goesOn x)) ∧
    (∀ upto, x.wait = .pfenceKeep upto false → ends counted { released f 4 x with wait := .pfenceKeep f.fresh true }) ∧
    (∀ upto, x.wait = .pfenceKeep upto true →
      (¬ complete upto → s.wakeThread who = s) ∧
      (complete upto → s.mramBad = [] → ∃ l : List KeepStore, l = s.keepPending.filter (fun p => decide (p ∈ l)) ∧
        (∀ p ∈ s.keepPending, p ∈ l ↔ DurableStore s.keepPending ((s.keepPending.filter fun q => q.tid == who).map (·.id)) p) ∧
        (∀ p ∈ s.keepPending, p.tid = who → p ∈ l) ∧
        s.wakeThread who = { on { goesOn x with epoch := x.epoch + 1 } with
          keepPending := s.keepPending.filter fun p => !decide (p ∈ l)
          keepDurable := l.foldl (fun m p => if p.bit = none then Memory.set m p.key p.val else m) s.keepDurable
          keepEmpty := l.foldl (fun e p => match p.bit with
            | none => e
            | some true => e.filter (· != p.key / 8)
            | some false => if p.key / 8 ∈ e then e else p.key / 8 :: e) s.keepEmpty })) ∧
    (x.wait = .pfenceTile →
      let c := (s.teamD who.grid who.team).core.getD x.core
      c ∉ s.mramBad → noPair c ∉ s.mramBad → ∃ t, s.wakeThread who = t ∧
        (let g : State := { f with cur := goesOn x }
         let k := s.core c
         t.core c = (if k.commitB then { k with slotA := some (g.snapshot c), commitB := false } else { k with slotB := some (g.snapshot c), commitB := true })) ∧
        (∀ d, d ≠ c → t.core d = s.core d) ∧ t = { on (goesOn x) with cores := t.cores })

end Sys2Proof.Claims

/-- R70, R71, R66, R150–R153, R206–R209, R64, R65, R356: what each operation does at its home: loads read, stores store, atomics return the old value
and store the new, full/empty operations test and set the bit, marks fade and deposit, a `BANKPART` write gives its bank a value; no other byte and no other bit changes. That `mrd`
leaves the stored word as it was is the model's choice, where R68 and R209 leave a rewrite open (log entry 29), and so is what a write
of `BANKPART` does while a change is in progress (log entry 43). -/
def Obligations.HomesPerformEachOperation : Prop :=
  ∀ (s : State) (r : Req) (k : Nat) (p : Piece), Arrives s r k p →
    let a := s.mapKey p.key
    let old := BitVec.ofNat 64 (bytesAt s a p.len)
    let word := BitVec.ofNat 64 (bytesAt s a 8)
    let did := Performed s r.id k a
    (r.op = .read → did p.len none none old 0) ∧
    (r.op = .write → did p.len (some p.data.toNat) none 0 0) ∧
    (∀ f cmp, r.op = .atomic f cmp → did p.len (some (atomicResult f old p.data cmp).toNat) none old 0) ∧
    (r.op = .ldf → s.isFull a = true → did 8 none none word 0) ∧
    (r.op = .lde → s.isFull a = true → did 8 none (some false) word 0) ∧
    (r.op = .stf → s.isFull a = true → did 8 (some p.data.toNat) none 0 0) ∧
    (r.op = .stw → s.isFull a = false → did 8 (some p.data.toNat) (some true) 0 0) ∧
    (∀ v, r.op = .feset v → did 8 none (some v) 0 0) ∧
    (r.op = .festat → did 8 none none (if s.isFull a then 1 else 0) 0) ∧
    (r.op = .join → did 8 (some (word - 1).toNat) none (word - 1) 0) ∧
    (∀ f amount rg, r.op = .mark f amount rg → (s.gridD r.tid.grid).desc.flag 4 = false →
      let T := tickOf rg s.cycle
      let v := fadedTo rg (bytesAt s a 4) T
      match f with
      | .rd => did 4 none none (BitVec.ofNat 64 v) T
      | .depAdd => did 4 (some (min (v + amount) 65535 * 2 ^ 16 + T * 16)) none 0 T
      | .depMax => did 4 (some (max v amount * 2 ^ 16 + T * 16)) none 0 T
      | .clr => did 4 (some (T * 16)) none 0 T) ∧
    (r.op = .bankRead → did 8 none none (s.bank ((p.key - 2 ^ 56) / 2 ^ 24 % 1024)).partReg 0) ∧
    (∀ v, r.op = .bankWrite v → NotShadowed s a →
      let b := (p.key - 2 ^ 56) / 2 ^ 24 % 1024
      ∃ t, exec (.performAtHome r.id k) s = .next t ∧ BankTakes (s.bank b) (t.bank b) v ∧ (∀ d, d ≠ b → t.bank d = s.bank d) ∧
        t = { s with banks := t.banks, fabric := marked s r.id k 0 0 })

/-- R31, R65, R69, R73, R78, R200, R212: an operation that the word's state does not allow waits at the end of the word's list; one that must
come after an access of its thread, the reads of a fill among them, or of its core to the same home, or whose phase is not yet its turn, is
not performed; one that comes to a carve-out which grows is held there; a sense keeps the best cell of a patch and the tick of each region.
That wait lists are served strictly in order of arrival is log entry 10; that a sense leaves the stored words as they were is the model's
choice, where R68 and R212 leave a rewrite open (log entry 29), and so is that an earlier request of the same core comes first, where R16
and R69 do not say whether a source is a core or a thread (log entry 51); that a bank and its carve-out are one home is log entry 78. -/
def Obligations.HomesKeepTheirOrder : Prop :=
  ∀ (s : State) (r : Req) (k : Nat) (p : Piece), s.fabric.find? (·.id == r.id) = some r → r.pieces[k]? = some p →
    (Arrives s r k p → r.orphan = false →
      ((r.op = .ldf ∨ r.op = .lde ∨ r.op = .stf) ∧ s.isFull (s.mapKey p.key) = false ∨ r.op = .stw ∧ s.isFull (s.mapKey p.key) = true) →
      exec (.performAtHome r.id k) s = .next { s with fabric := (s.fabric.filter fun x => x.id != r.id) ++ [{ r with parked := true }] }) ∧
    (∀ e ∈ s.fabric, e.id < r.id → e.tid = r.tid → (∃ q ∈ e.pieces, q.done = false) →
      let overlap := ∃ x ∈ r.pieces, ∃ q ∈ e.pieces, x.key < q.key + q.len ∧ q.key < x.key + x.len
      (r.isLoad = true ∧ overlap) ∨
        (r.isStore = true ∧ (e.isLoad = true ∨ overlap ∨ ∃ x ∈ r.pieces, ∃ q ∈ e.pieces, OneHome s x.key q.key)) →
      exec (.performAtHome r.id k) s = .next s) ∧
    (∀ c ∈ s.cores, ∀ f ∈ c.mq, f.tid = r.tid → (f.words.getD 0 0).toNat % 256 = 5 → f.id < r.id → f.rows < f.m →
      (r.isStore = true ∨ r.isLoad = true ∧ ∃ u ∈ s.fillUnits f, ∃ x ∈ r.pieces, x.key < u.1 + u.2 ∧ u.1 < x.key + x.len) →
      exec (.performAtHome r.id k) s = .next s) ∧
    (∀ e ∈ s.fabric, e.id < r.id → e.core = r.core → e.parked = false → e.dataFrom = none → s.ownWait e = false → s.replayWait e = false →
      (∃ q ∈ e.pieces, q.done = false ∧ (OneHome s q.key p.key ∨ s.destOf q.key = s.destOf p.key) ∧ s.heldThere e q = false) →
      exec (.performAtHome r.id k) s = .next s) ∧
    (s.mayReach r p = true → s.homeKeeps r p = false → s.carveState p.key = .hold → exec (.performAtHome r.id k) s =
      .next { s with fabric := s.fabric.map fun x => if x.id = r.id then { x with held := true } else x }) ∧
    ((∃ x, s.thread? r.tid = some x ∧ r.isStore = true ∧ ∃ c ∈ x.closed, c.upto ≤ r.id) → exec (.performAtHome r.id k) s = .next s) ∧
    (Arrives s r k p → (s.gridD r.tid.grid).desc.flag 4 = false → ∀ cells skipped, r.op = .sense cells skipped →
      (∀ c ∈ cells, NothingToCorrect s (s.mapKey c.key) 4) → ∃ v T,
      Performed s r.id k (s.mapKey p.key) p.len none none (BitVec.ofNat 64 v) T ∧
      (∀ c ∈ cells, c.patch = k → fadedTo c.rg (bytesAt s (s.mapKey c.key) 4) (tickOf c.rg s.cycle) * 256 + (255 - c.idx) ≤ v) ∧
      (v = 0 ∨ ∃ c ∈ cells, c.patch = k ∧ v = fadedTo c.rg (bytesAt s (s.mapKey c.key) 4) (tickOf c.rg s.cycle) * 256 + (255 - c.idx)) ∧
      ((∀ a ∈ cells, ∀ b ∈ cells, a.rg.num = b.rg.num → a.rg = b.rg) → ∀ c ∈ cells, c.patch = k →
        T / 4096 ^ c.rg.num % 4096 = tickOf c.rg s.cycle))

/-- R39, R147, R149, R156, R160, R161, R212, R231: a reply puts its payload where it belongs, an acknowledgement none; the counter is
lowered, the request is gone; words that a bundle asked for are at hand for it; a value for a write stream goes into the append issued
with its load; a `join` goes on when its count is 0 and else looks for a task. -/
def Obligations.RepliesAndAcknowledgementsReachTheirThread : Prop :=
  ∀ (s : State) (r : Req) (x : Thread), Ready s r x →
    let reply := fun (f : Reg → Option Word) =>
      ∃ t y, exec (.continuationReply r.id) s = .next t ∧ Answered x y r f ∧ Delivered s t r y ∧ t.teams = s.teams
    (∀ d view size uns, r.dest = .scalar d view size uns → (d, r.id) ∈ x.awaiting → x.stream? d = none →
      reply fun n => if n = d then some (viewDecode view size uns (BitVec.ofNat 64 (returned r))) else none) ∧
    (∀ d, r.dest = .raw d → (d, r.id) ∈ x.awaiting → x.stream? d = none →
      reply fun n => if n = d then some (BitVec.ofNat 64 (returned r)) else none) ∧
    (r.dest = .quad → r.pieces.length = 8 → (∀ d ∈ eightRegs, (d, r.id) ∈ x.awaiting) →
      reply fun n => if 8 ≤ n.toNat then some (r.pieces.getD (n.toNat - 8) (piece 0 0 0)).val else none) ∧
    (∀ n row view z, r.dest = .row n row view → (s.teamD r.tid.grid r.tid.team).tiles[n]? = some z →
      let ty := z.type
      let m := (Elem.ofView view).size
      let v := returned r
      ∃ t y w, exec (.continuationReply r.id) s = .next t ∧ Answered x y r (fun _ => none) ∧ Delivered s t r y ∧
        t.teams = (s.teams.map fun q => if q.grid = r.tid.grid ∧ q.lteam = r.tid.team then { q with tiles := q.tiles.set n (withRow z row w) } else q) ∧
        (view = 0 → w = BitVec.ofNat 2048 v) ∧
        (view ≠ 0 → ∀ i < elemCount ty, element ty w i = Elem.convert (v / 2 ^ (8 * m * i) % 2 ^ (8 * m)) (Elem.ofView view) (typeOf ty))) ∧
    (∀ d cells skipped, r.dest = .sense d → r.op = .sense cells skipped → (d, r.id) ∈ x.awaiting → x.stream? d = none → ∃ best straddle,
      (∀ q ∈ r.pieces, q.val.toNat ≤ best) ∧ (best = 0 ∨ ∃ q ∈ r.pieces, best = q.val.toNat) ∧
      (straddle = 1 ∨ straddle = 0) ∧
      (straddle = 1 ↔ (s.gridD r.tid.grid).desc.flag 4 = false ∧ ∃ a ∈ cells, ∃ b ∈ cells, a.rg.num = b.rg.num ∧
        (r.pieces.getD a.patch (piece 0 0 0)).tick / 4096 ^ a.rg.num % 4096 ≠
          (r.pieces.getD b.patch (piece 0 0 0)).tick / 4096 ^ b.rg.num % 4096) ∧
      reply fun n => if n = d then some (BitVec.ofNat 64 (best / 256 + (255 - best % 256) * 2 ^ 16 + straddle * 2 ^ 21 + skipped * 2 ^ 22)) else none) ∧
    (r.dest = .sync → ∃ t y, exec (.continuationReply r.id) s = .next t ∧ Delivered s t r y ∧ t.teams = s.teams ∧
      Answered { x with wait := (if x.wait = .fetching r.id then .running else x.wait), got := x.got ++ [(r.ea, r.pieces.map (·.val))] } y r
        (fun _ => none)) ∧
    (∀ d z, r.dest = .stream d → x.stream? d = some z → z.pending = some r.id → ∃ t y, exec (.continuationReply r.id) s = .next t ∧
      Delivered s t r y ∧ t.teams = s.teams ∧
      let q := r.pieces.getD 0 (piece 0 0 0)
      Answered { x.setStream d (some { z with
          pending := none
          fetched := z.fetched ++ [⟨viewDecode (viewOf q.ea) (2 ^ z.size.toNat) z.uns q.val, q.key, x.aheadNext⟩] }) with
        wait := if x.wait = .fetching r.id then .running else x.wait } y r (fun _ => none)) ∧
    (∀ d view size uns z q, r.dest = .scalar d view size uns → (d, r.id) ∈ x.awaiting → x.stream? d = some z → z.write = true →
      s.fabric.find? (fun e => e.tid == r.tid && e.dataFrom == some r.id) = some q → q.id ≠ r.id →
      let v := viewDecode view size uns (BitVec.ofNat 64 (returned r))
      ∃ t y, exec (.continuationReply r.id) s = .next t ∧ t.thread? r.tid = some y ∧ y.reg d = v ∧
        y.stream? d = some { z with last := v } ∧
        { q with
          dataFrom := none
          pieces := q.pieces.map fun p => { p with data := BitVec.ofNat 64 ((viewEncode (viewOf p.ea) v).toNat % 2 ^ (8 * p.len)) } } ∈ t.fabric) ∧
    (r.dest = .none → (∀ n since, x.wait ≠ .joining n since) →
      ∃ t y, exec (.homeAcknowledge r.id) s = .next t ∧ Answered x y r (fun _ => none) ∧ Delivered s t r y ∧ t.teams = s.teams) ∧
    (r.dest = .none → ∀ since, x.wait = .joining r.id since → x.taskAt = none → ∃ t y, exec (.homeAcknowledge r.id) s = .next t ∧
      Delivered s t r y ∧ t.teams = s.teams ∧
      Answered { x with wait := if (r.pieces.getD 0 (piece 0 0 0)).val = 0 then .performed r.id true else .next since } y r (fun _ => none))

/-- R30, R37, R47, R75, R78, R83–R85, R156, R157, R312: the end of each wait at a bundle; a sleeper whose value is reached goes on; a migrating thread arrives and makes the access it took along; a
message finds its team; the oldest closed phase completes when all it covers is performed; a missed promise makes a trap due. Which core a `pfence tile` saves is log entry 44. -/
def Obligations.ThreadsAreWokenMovedAndReleased : Prop :=
  WaitsEndWhenTheirConditionHolds ∧
  ∀ (s : State) (who : Tid) (x : Thread), s.thread? who = some x →
    (∀ v b, x.wait = .sleep v b → Awake s x.core → (s.gridD who.grid).desc.flag 4 = false →
      (v.toNat ≤ s.cycle.toNat → exec (.sleepWake who) s = .next (onThread s who goesOn)) ∧
      (s.cycle.toNat < v.toNat → exec (.sleepWake who) s = .next s)) ∧
    (x.wait = .migrating none → Awake s x.core →
      exec (.migrationArrive who) s = .next (onThread s who fun y => { y with wait := .running, half := none })) ∧
    (∀ r, x.wait = .migrating (some r) → Awake s x.core → exec (.migrationArrive who) s = .next
      { onThread s who (fun y => { y with
          wait := match r.op with
            | .join => .joining r.id (observed s x) | .ldf => .word r.id | .lde => .word r.id | .stf => .word r.id | .stw => .word r.id
            | _ => .running
          half := match r.op with | .join => y.half | .ldf => y.half | .lde => y.half | .stf => y.half | .stw => y.half | _ => none }) with
        fabric := s.fabric ++ [{ r with core := x.core }] }) ∧
    (∀ r, s.fabric.find? (·.id == r.id) = some r → r.tid = who → exec (.messageForward r.id) s = .next
      { s with fabric := s.fabric.map fun q => if q.id = r.id then { q with misrouted := false, core := x.core } else q }) ∧
    (∀ c rest, x.closed = c :: rest → (c.domain = false ∨ c.far = false ∨ ∀ l ∈ s.linksDown, l % 256 ≠ 2) →
      (¬ AllPerformed s who c.upto → exec (.phaseComplete who) s = .next s) ∧
      (AllPerformed s who c.upto →
        let due := (s.gridD who.grid).pushes.filter fun p => p.tid == who && decide (p.upto ≤ c.upto)
        exec (.phaseComplete who) s = .next { onThread s who (fun y => { y with closed := rest }) with
          grids := s.grids.map fun g => if g.num = who.grid then { g with pushes := g.pushes.filter fun p => !(p.tid == who && decide (p.upto ≤ c.upto)) } else g
          teams := s.teams.map fun q => if q.grid = who.grid ∧ q.lteam = who.team then
            { q with deque := q.deque ++ due.map fun p => { p.task with stamp := s.cycle } } else q })) ∧
    (∀ n p, (n, p) ∈ x.promises → (∀ y ∈ s.cur :: s.rest, ∀ q ∈ y.promises, q.1 = n → y = x ∧ q = (n, p)) →
      let gone := fun (y : Thread) => { y with promises := y.promises.filter fun q => q.1 != n }
      let unwritten := ∃ c ∈ s.copies, c.id = n ∧ (c.writes ≠ [] ∨ c.next < (c.ops.getD 3 0).toNat)
      ((observed s x).toNat < p.toNat → exec (.promiseCheck n) s = .next s) ∧
      (p.toNat ≤ (observed s x).toNat → (¬ unwritten ∨ (s.gridD who.grid).desc.flag 4 = true) →
        exec (.promiseCheck n) s = .next (onThread s who gone)) ∧
      (p.toNat ≤ (observed s x).toNat → unwritten → (s.gridD who.grid).desc.flag 4 = false →
        exec (.promiseCheck n) s = .next { onThread s who (fun y =>
            let z : Thread := { gone y with traps := y.traps ++ [⟨2, p, s.cycle⟩] }
            match y.wait with | .sleep _ _ => goesOn z | _ => z) with
          copies := s.copies.map fun c => if c.id = n then { c with missed := true } else c }))

/-- R79, R83, R160, R163–R165, R187: replays, streams and copies go on one element at a time, a replay on the conditions of its instruction;
the exchange of `publ` turns the window's halves over; what the engines read are the bytes of memory. That a row is read in one step is
the model's choice (log entry 8), and so are that the load of a stream's element counts in no counter, where R156 counts loads in l (log
entry 57), and that a stream asks for one element at a time (log entry 39). -/
def Obligations.EnginesGoOnStepByStep : Prop :=
  EnginesReadMemory ∧
  ∀ (s : State) (who : Tid) (x : Thread), s.thread? who = some x →
    -- the next replay of a `vloop`
    (∀ v e, x.vreplay = some v → v.entries[v.k]? = some e → s.replayReady x v e = true →
      let f := s.focus who
      let old := f.cur
      let moved := f.replayed who v.c e
      let start : State := { f with
        fresh := v.base + 64 * ((v.c - 1) * v.entries.length + v.k)
        cur := { old with pc := v.fpc, phaseNo := v.phase, epoch := v.epoch, wait := .running } }
      let plan := start.replayAppends moved
      let done := (entryBody moved who ((start.drawnAs plan.after).correctRows who (entryReads moved.instr moved.rows))).replaySelect plan v moved start.cur
      let left := if v.k + 1 < v.entries.length then some { v with k := v.k + 1 }
        else if v.c < v.count then some { v with k := 0, c := v.c + 1 } else none
      start.entryStop moved = none → plan.stops = [] →
      done.cur.wait = .running → done.aborted = false →
      exec (.vloopReplay who) s = .next (({ done with
        fresh := f.fresh, aborted := false
        cur := { done.cur with
          pc := old.pc, phaseNo := old.phaseNo, epoch := old.epoch, wait := old.wait, vreplay := left
          awaiting := if left = none then done.cur.awaiting.filter fun q => q.2 + 1 != v.base else done.cur.awaiting } } : State).focus s.cur.id)) ∧
    (∀ c e n, n < (rowsOf e.instr).length → (rowsOf e.instr).length = e.rows.length →
      (s.replayed who c e).rows[n]? = some (if ((rowsOf e.instr).getD n ⟨0, false, false, 0⟩).step then (e.rows.getD n 0 + c) % 64 else e.rows.getD n 0)) ∧
    -- the next element of a read stream
    (∀ (r : Reg) (y : Stream) (u : State) (k : Nat) (g : Grid), x.stream? r = some y → y.write = false → y.pending = none →
      y.idx + y.fetched.length < y.count → x.wait ≠ .faulted → x.wait ≠ .ended → Awake s x.core → s.orphansLeft x.core = false →
      (s.cluster (clusterOf x.core)).halted = false → s.grid? who.grid = some g → g.state = .placed → g.faults = [] → g.desc.flag 4 = false →
      let f := s.focus who
      let ea := effAddr y.base (y.stride.toInt * ((y.idx + y.fetched.length : Nat) : Int))
      let z := 2 ^ y.size.toNat
      FitsView (viewOf ea) z → locOf ea % z = 0 → Mapped f u ea [0] false [k] →
      let t := sent u (requestOf u .read [unitAt ea 0 k z 0] (.stream r) true false .none u.cur.phaseNo ea) [] u.cur
      exec (.streamFetch who r) s = .next
        (({ t with cur := t.cur.setStream r (some { y with pending := some u.fresh }) } : State).focus s.cur.id)) ∧
    -- the exchange of a `publ`
    (∀ upto loc k sp off, x.wait = .publ .exchange upto loc → (s.place who.grid loc).1 = .mem k true true → ∀ g l,
      s.areaOf k = some (g, l, sp, off) → s.halfRead (fun q => s.areaOf q == some (g, l, sp, off)) = false →
      exec (.windowExchange who) s = .next { onThread s who (fun y => { y with wait := .publ .done upto loc }) with
        teams := s.teams.map fun t => if t.grid = g ∧ t.lteam = l then
          { t with windows := t.windows.map fun w => if w.spad = sp ∧ w.off = off then { w with flipped := !w.flipped } else w } else t }) ∧
    -- one step of a copy: its next row read, its only unit written, its end
    (∀ c : Copy, s.copies.find? (·.id == c.id) = some c → c.tid = who → c.paused = none → c.untilTret = false → s.powered = true →
      (s.cluster c.cluster).halted = false → c.entry = none →
      (c.writes = [] → (c.ops.getD 3 0).toNat ≤ c.next → c.counted = true → exec (.copyTransfer c.id) s = .next
        { onThread s who (fun y => { y with cntC := lowered y.cntC }) with copies := s.copies.filter fun q => q.id != c.id }) ∧
      (∀ v keys (u w : State), c.writes = [] → c.next < (c.ops.getD 3 0).toNat → c.kind = 0 →
        let src := effAddr (c.ops.getD 0 0) ((c.ops.getD 4 0).toNat * c.next)
        let dst := effAddr (c.ops.getD 1 0) ((c.ops.getD 5 0).toNat * c.next)
        let n := (c.ops.getD 2 0).toNat
        s.engineRead (.grid c.grid) c.tid c.upto src n = (.bytes v, u) → u.engineCheck (.grid c.grid) dst n true = (.ok keys, w) →
        w.straddlesArea keys = false →
        let cut := (keys.zip (units8 (locOf dst) n)).map fun p =>
          unitAt dst p.2.1 p.1 p.2.2 (BitVec.ofNat 64 (v / 2 ^ (8 * p.2.1) % 2 ^ (8 * p.2.2)))
        exec (.copyTransfer c.id) s = .next { w with copies := w.copies.map fun q =>
          if q.id = c.id then { q with next := q.next + 1, writes := q.writes ++ cut } else q }) ∧
      (∀ (x v : Nat) keys (u0 u w : State), c.writes = [] → c.next < (c.ops.getD 3 0).toNat → c.kind = 1 ∨ c.kind = 2 →
        let n := (c.ops.getD 2 0).toNat
        let scaled := fun (base : Word) => effAddr base ((c.ops.getD 5 0).toNat * (x : Int))
        let inTurn := fun (base : Word) => effAddr base ((n : Int) * c.next)
        let src := if c.kind = 1 then scaled (c.ops.getD 0 0) else inTurn (c.ops.getD 0 0)
        let dst := if c.kind = 1 then inTurn (c.ops.getD 1 0) else scaled (c.ops.getD 1 0)
        s.engineRead (.grid c.grid) c.tid c.upto (effAddr (c.ops.getD 4 0) (4 * c.next)) 4 = (.bytes x, u0) →
        u0.engineRead (.grid c.grid) c.tid c.upto src n = (.bytes v, u) → u.engineCheck (.grid c.grid) dst n true = (.ok keys, w) →
        w.straddlesArea keys = false →
        let cut := (keys.zip (units8 (locOf dst) n)).map fun p =>
          unitAt dst p.2.1 p.1 p.2.2 (BitVec.ofNat 64 (v / 2 ^ (8 * p.2.1) % 2 ^ (8 * p.2.2)))
        exec (.copyTransfer c.id) s = .next { w with copies := w.copies.map fun q =>
          if q.id = c.id then { q with next := q.next + 1, writes := q.writes ++ cut } else q }) ∧
      (∀ p, c.writes = [p] → 1 ≤ p.len → (c.ops.getD 3 0).toNat ≤ c.next → s.carveState p.key = .ok → s.reachHeld p.key = false →
        s.homeless (s.copyKey p.key) = false →
        (p.len = 8 ∨ s.poisoned (s.copyKey p.key) p.len = false ∧ NothingToCorrect s (s.copyKey p.key) p.len) →
        isKeep (s.copyKey p.key) = false → CachesClean s → s.chunkWrites = none →
        ∃ t, exec (.copyTransfer c.id) s = .next t ∧ Stored s t (s.copyKey p.key) p.len p.data.toNat ∧
          (∀ w, w ∈ t.poison → w ∈ s.poison) ∧ (∀ w, w ∈ t.soft → w ∈ s.soft) ∧
          (NotShadowed s (s.copyKey p.key) → t.cores = s.cores) ∧
          t = { onThread s who (fun y => if c.counted then { y with cntC := lowered y.cntC } else y) with
            mem := t.mem, poison := t.poison, soft := t.soft, oracle := t.oracle, fresh := t.fresh, cores := t.cores
            lines := linesBut s p.key p.len
            copies := s.copies.filter fun q => q.id != c.id }))

namespace Sys2Proof.Claims

/-! ### The matrix unit -/

/-- A core changed and no other. -/
def CoreIs (s t : State) (c : Nat) (k : Core) : Prop := t.core c = k ∧ ∀ d, d ≠ c → t.core d = s.core d

/-- A core with one record fewer, and its instant of emptying (R203). -/
def dropRec (k : Core) (id : Nat) (now : Word) : Core :=
  let q := k.mq.filter (·.id != id)
  { k with mq := q, emptied := if q.isEmpty then now else k.emptied }

/-- A core with one record changed. -/
def mapRec (k : Core) (id : Nat) (f : MRec → MRec) : Core :=
  { k with mq := k.mq.map fun q => if q.id = id then f q else q }

/-- The head of a core's queue is a legal record of a kind that may run: the unit active, the core awake and not halted, no exchange, its
grid placed and without a chosen fault, no pause, no earlier access to its tile incomplete, no error of one bit in the record (R43, R174,
R195, R203, R344). -/
def HeadRuns (s : State) (c kind : Nat) (r : MRec) : Prop :=
  (s.core c).mq.head? = some r ∧ mqErr r.id ∉ s.soft ∧ (r.words.getD 0 0).toNat % 256 = kind ∧ r.illegal = false ∧ s.recRuns c r = true

/-- Header fields (R119). -/
def rowsOfRec (r : MRec) : Nat := (r.words.getD 0 0).toNat / 2 ^ 16 % 64 + 1
def colsOfRec (r : MRec) : Nat := (r.words.getD 0 0).toNat / 2 ^ 24 % 64 + 1
def innerOfRec (r : MRec) : Nat := (r.words.getD 0 0).toNat / 2 ^ 32 % 2 ^ 16 + 1
def zeroOfRec (r : MRec) : Bool := (r.words.getD 0 0).getLsbD 12
def tileOfRec (r : MRec) : Nat := (r.words.getD 0 0).toNat / 2 ^ 8 % 16
def strideOfRec (r : MRec) (n : Nat) : Nat := (r.words.getD 3 0).toNat / 2 ^ (16 * n) % 2 ^ 16
def viewOfRec (r : MRec) : Nat := viewOf (r.words.getD 1 0)
def presentOfRec (r : MRec) : Nat := if (r.words.getD 0 0).getLsbD 13 then 8 else 16

/-- The value of an element under a view (R58). -/
def viewValue (view x : Nat) : FV :=
  match view with
  | 1 => (⟨4, 3, false⟩ : Fmt).decode x
  | 2 => (⟨8, 7, true⟩ : Fmt).decode x
  | 3 => (⟨8, 23, true⟩ : Fmt).decode x
  | _ => .fin (decide (128 ≤ x)) (if x < 128 then x else 256 - x) 0

/-- Element `n` of `z` bytes of a number that holds a row. -/
def piecewise (z v n : Nat) : Nat := v / 2 ^ (8 * z * n) % 2 ^ (8 * z)

/-- A rounding of a sum into FP32. -/
def single (l : List FV) : Nat := ((⟨8, 23, true⟩ : Fmt).round .ne (sumFV false l)).1
def singleValue (x : Nat) : FV := (⟨8, 23, true⟩ : Fmt).decode x
def singleProduct (a b : FV) : Nat := ((⟨8, 23, true⟩ : Fmt).round .ne (a.mul b)).1

/-- R97: one rounding for each group of 16; modulo 2^32 for INT8. -/
def plainSum (view K acc : Nat) (p : Nat → FV) : Nat :=
  if view = 4 then
    (BitVec.ofInt 32 (signed32 acc + ((List.range K).map fun k => match p k with | .fin n m _ => if n then -(m : Int) else m | _ => 0).sum)).toNat
  else (List.range ((K + 15) / 16)).foldl (fun a g =>
    single (singleValue a :: ((List.range K).filter fun k => k / 16 == g).map p)) acc

/-- The inner accumulator of a block of R98, and OVF. -/
def innerOf (K kb : Nat) (p : Nat → Option FV) : FV × Bool :=
  ((List.range 4).filter fun g => decide (128 * kb + 32 * g < K)).foldl (fun a g =>
    let x := roundE8M15 (sumFV false (a.1 :: ((List.range K).filter fun k => k / 128 == kb && k % 128 / 32 == g).filterMap p))
    (x.1, a.2 || x.2)) (.fin false 0 0, false)

/-- R98: a promotion with the scales after each block of 128. -/
def scaledSum (K acc : Nat) (p : Nat → Option FV) (sa sb : Nat → Nat) : Nat × Bool :=
  (List.range ((K + 127) / 128)).foldl (fun a kb =>
    let x := innerOf K kb p
    let u := singleProduct (singleValue (singleProduct x.1 (singleValue (sa kb)))) (singleValue (sb kb))
    (single [singleValue a.1, singleValue u], a.2 || x.2)) (acc, false)

/-- The reads of row i (R99, R194, R197): A; in `mma.sp` the mask; with scales SA, and SB where it is not yet held; the rows of B. -/
def readsOfRow (r : MRec) (kind : Nat) (scaled : Bool) (i : Nat) : List (Word × Nat) :=
  let at_ := fun (n stride i : Nat) => effAddr (r.words.getD n 0) ((stride * i : Nat) : Int)
  let K := innerOfRec r
  let z := (Elem.ofView (viewOfRec r)).size
  [(at_ 1 (strideOfRec r 0) i, if kind = 3 then K / 32 * presentOfRec r else K * z)] ++
  (if kind = 3 then [(at_ 6 (4 * (K / 32)) i, 4 * (K / 32))] else []) ++
  (if scaled then [(at_ 4 (strideOfRec r 2) i, 4 * ((K + 127) / 128))] else []) ++
  (if scaled && r.scalesB.isEmpty then (List.range ((K + 127) / 128)).map fun k => (at_ 5 (strideOfRec r 3) k, 4) else []) ++
  (List.range K).map fun k => (at_ 2 (strideOfRec r 1) k, colsOfRec r * z)

/-- Element j of a result row from what its reads answered (R196, R197), and OVF. -/
def resultOf (r : MRec) (kind : Nat) (scaled : Bool) (l : List Nat) (old j : Nat) : Nat × Bool :=
  let K := innerOfRec r
  let view := viewOfRec r
  let z := (Elem.ofView view).size
  let nb := (K + 127) / 128
  let mask := fun g => piecewise 4 (l.getD 1 0) g
  let m := (if kind = 3 then 2 else 1)
  let b := fun k => piecewise z (l.getD (m + (if scaled then 1 else 0) + (if scaled && r.scalesB.isEmpty then nb else 0) + k) 0) j
  let a := fun k => if kind = 3 then
      (if (mask (k / 32)).testBit (k % 32) then
        some (piecewise 1 (l.getD 0 0) (k / 32 * presentOfRec r + ((List.range (k % 32)).filter fun p => (mask (k / 32)).testBit p).length))
      else none)
    else some (piecewise z (l.getD 0 0) k)
  let sb := fun kb => if r.scalesB.isEmpty then l.getD (m + 1 + kb) 0 else (r.scalesB.getD kb 0).toNat
  let acc := if zeroOfRec r then 0 else old
  if scaled then scaledSum K acc (fun k => (a k).map fun x => (viewValue view x).mul (viewValue view (b k))) (piecewise 4 (l.getD m 0)) sb
  else (plainSum view K acc fun k => (viewValue view ((a k).getD 0)).mul (viewValue view (b k)), false)

/-- The whole tile is written from zero (R173). -/
def wholeTile (r : MRec) : Bool := zeroOfRec r && rowsOfRec r == 64 && colsOfRec r == 64

/-- One row of a multiplying command (R195, R196): the row's N elements written to TC together, OVF sticky, ROWPROG one further, the scales
that it read kept with its record, since each is read once (R99); the last row leaves the checksum valid where R173 says so, and completes the command unless more of it follows. A row written whole has fresh
check bits (R345). -/
def RowMultiplied (i : Instr) (s : State) (c : Nat) (kind : Nat) (scaled ends : Bool) : Prop :=
  ∀ (r : MRec) (u : State) (l : List Nat) (z : Tile),
    let n := tileOfRec r
    let id := r.tid
    HeadRuns s c kind r → r.rows < rowsOfRec r → s.recBad r = none → s.tcError r = false → r.readMisaligned r.rows = none →
    (kind = 4 → scaled = (r.words.getD 0 0).getLsbD 14) →
    s.engineReads id r.upto (readsOfRow r kind scaled r.rows) = (.ok l, u) →
    (kind = 3 → ∀ g < innerOfRec r / 32, ((List.range 32).filter fun p => (piecewise 4 (l.getD 1 0) g).testBit p).length = presentOfRec r) →
    (u.teamD id.grid id.team).tiles[n]? = some z → (zeroOfRec r = true ∧ colsOfRec r % 2 = 0 ∨ tileErr id n r.rows ∉ u.soft) →
    ∃ (t : State) (w : Row),
      let row := z.rows[r.rows % 64]'(Nat.mod_lt _ (by decide))
      let result := resultOf r kind scaled l
      let ovf := (List.range (colsOfRec r)).any fun j => (result (element z.type row j) j).2
      let last := r.rows + 1 == rowsOfRec r
      let started := if wholeTile r && !r.running then false else z.ovf
      let y : Tile := { z with
        rows := z.rows.set (r.rows % 64) w (Nat.mod_lt _ (by decide)), ovf := started || ovf
        valid := z.valid || (last && wholeTile r), sumBad := if last then z.valid && z.sumBad && !wholeTile r else z.sumBad }
      let next : MRec := { r with
        running := true, rows := r.rows + 1
        scalesA := if scaled then (List.range ((innerOfRec r + 127) / 128)).map fun kb =>
          BitVec.ofNat 64 (piecewise 4 (l.getD (if kind = 3 then 2 else 1) 0) kb) else []
        scalesB := if scaled then (if r.scalesB.isEmpty then ((List.range ((innerOfRec r + 127) / 128)).map fun kb =>
          BitVec.ofNat 64 (l.getD ((if kind = 3 then 2 else 1) + 1 + kb) 0)) else r.scalesB) else r.scalesB }
      exec i s = .next t ∧
      (∀ j < elemCount z.type, element z.type w j = if j < colsOfRec r then (result (element z.type row j) j).1 else element z.type row j) ∧
      CoreIs u t c (if last && ends then dropRec (u.core c) r.id u.cycle
        else (mapRec (u.core c) r.id fun q =>
          { q with running := next.running, rows := next.rows, scalesA := q.scalesA ++ next.scalesA, scalesB := next.scalesB })) ∧
      t = { (if last && ends then onThread u id (fun x => { x with cntM := lowered x.cntM }) else u) with
        teams := u.teams.map fun q => if q.grid = id.grid ∧ q.lteam = id.team then { q with tiles := q.tiles.set n y } else q
        poison := if colsOfRec r = 64 then u.poison.filter (· != tileErr id n r.rows) else u.poison
        soft := if colsOfRec r = 64 then u.soft.filter (· != tileErr id n r.rows) else u.soft
        cores := t.cores }

/-- A command complete (R192): its slot free, m lowered; `u` is the machine but for that. -/
def CommandEnds (i : Instr) (s u : State) (c : Nat) (r : MRec) : Prop :=
  ∃ t, exec i s = .next t ∧
    CoreIs u t c (dropRec (u.core c) r.id u.cycle) ∧
    t = { onThread u r.tid (fun x => { x with cntM := lowered x.cntM }) with cores := t.cores }

/-- A command goes on: its record changed; `u` is the machine but for that. -/
def CommandGoesOn (i : Instr) (s u : State) (c : Nat) (r : MRec) (f : MRec → MRec) : Prop :=
  ∃ t, exec i s = .next t ∧
    CoreIs u t c (mapRec (u.core c) r.id f) ∧ t = { u with cores := t.cores }

/-- The team's tile that a record names, changed. -/
def tileChanged (u : State) (r : MRec) (y : Tile) : State :=
  { u with teams := u.teams.map fun q => if q.grid = r.tid.grid ∧ q.lteam = r.tid.team then { q with tiles := q.tiles.set (tileOfRec r) y } else q }

/-- The team whose window receives a block (R26, R198): A and its scales go to the west neighbour in the square of side `d`, B and its scales
to the north neighbour. -/
def receiverOf (d team tag : Nat) : Nat :=
  let q := team / (d * d)
  let y := team % (d * d) / d
  let x := team % d
  if tag = 0 ∨ tag = 2 then d * d * q + d * y + (x + (d - 1)) % d else d * d * q + d * ((y + (d - 1)) % d) + x

/-- What the send of a block reads, or holds from the multiply (R99, R199): A and B from memory; the scales as the multiply has read them. -/
def BlockRows (r : MRec) (tag : Nat) (rows : List Nat) (s u : State) : Prop :=
  let z := (Elem.ofView (viewOfRec r)).size
  let K := innerOfRec r
  let nb := (K + 127) / 128
  let at_ := fun (n stride i : Nat) => effAddr (r.words.getD n 0) ((stride * i : Nat) : Int)
  match tag with
  | 0 => ReadsInTurn r.tid r.upto ((List.range (rowsOfRec r)).map fun i => (at_ 1 (strideOfRec r 0) i, K * z)) rows s u
  | 1 => ReadsInTurn r.tid r.upto ((List.range K).map fun i => (at_ 2 (strideOfRec r 1) i, colsOfRec r * z)) rows s u
  | 2 => u = s ∧ rows.length = rowsOfRec r ∧ ∀ i < rowsOfRec r, ∀ kb < nb,
      piecewise 4 (rows.getD i 0) kb = if i * nb + kb < r.scalesA.length then (r.scalesA.getD (i * nb + kb) 0).toNat % 2 ^ 32 else 0
  | _ => u = s ∧ rows = r.scalesB.map (·.toNat)

/-- The blocks of an `mrot` as they stand ready to be sent (R199): each row cut into its units at the neighbour's window, at the strides of
its source. -/
def BlocksReady (r : MRec) : List Nat → List (Nat × List Piece) → State → State → Prop
  | [], l, s, u => l = [] ∧ u = s
  | tag :: rest, l, s, u => ∃ (rows : List Nat) (keys : Nat → List Nat) (ps : List Piece) (left : List (Nat × List Piece)) (w : State),
      l = (tag, ps) :: left ∧ BlockRows r tag rows s w ∧ BlocksReady r rest left w u ∧
      let z := (Elem.ofView (viewOfRec r)).size
      let nb := (innerOfRec r + 127) / 128
      let n := match tag with | 0 => innerOfRec r * z | 1 => colsOfRec r * z | 2 => 4 * nb | _ => 4
      let word := match tag with | 0 => 6 | 1 => 7 | 2 => 4 | _ => 5
      let dst := fun (i : Nat) => effAddr (withTeam (effAddr (r.words.getD word 0) 0) (receiverOf (s.gridD r.tid.grid).desc.side r.tid.team tag))
        ((strideOfRec r tag * i : Nat) : Int)
      (∀ i < rows.length, (w.engineCheck (.grid r.tid.grid) (dst i) n true).1 = .ok (keys i)) ∧
      ps = (List.range rows.length).flatMap fun i => ((keys i).zip (units8 (locOf (dst i)) n)).map fun p =>
        unitAt (dst i) p.2.1 p.1 p.2.2 (BitVec.ofNat 64 (rows.getD i 0 / 2 ^ (8 * p.2.1) % 2 ^ (8 * p.2.2)))

end Sys2Proof.Claims

/-- R193–R199, R97–R99: each multiplying command computes the next row of its result, from the products in their groups, in the order of
R97 or R98; what it reads are the bytes of memory. That a row is one step is the model's choice (log entry 8). -/
def Obligations.MatrixCommandsMultiplyRowByRow : Prop :=
  EnginesReadMemory ∧
  ∀ (s : State) (c : Nat),
    RowMultiplied (.mma c) s c 1 false true ∧ RowMultiplied (.mmaS c) s c 2 true true ∧ RowMultiplied (.mmaSp c) s c 3 true true ∧
    RowMultiplied (.mrot c) s c 4 false false ∧ RowMultiplied (.mrot c) s c 4 true false

/-- R192, R121, R73, R99, R199–R202: a record is queued by `st.q` into the window; an illegal one faults; `mrot` sends its blocks and exchanges
windows; `mfill`, which loads a row after what its thread has loaded of it before, `mdrain` and `mzero` move rows, write the status word and clear the tile. The order of checks and the grain of the
steps are the model's choices (log entries 8 and 20); that an access of a thread waits for its fills is log entry 77. -/
def Obligations.MatrixRecordsFillDrainAndRotate : Prop :=
  EnginesReadMemory ∧
  ∀ (s : State) (c : Nat) (a : Reg) (imm : BitVec 13),
    -- the queue
    (let ea := effAddr (s.reg a) imm.toInt
     let at_ := (ownTeam s).core.getD s.cur.core
     let words := eightRegs.map s.reg
     viewOf ea < 6 → locOf ea % 64 = 0 → 0xF100000000000 ≤ locOf ea → locOf ea < 0xF100000000000 + 512 → ¬ Replays s →
     (8 ≤ (s.core at_).mq.length → exec (.stQ a imm) s = .next { s with aborted := true }) ∧
     ((s.core at_).mq.length < 8 → ((s.reg 8).toNat % 256 = 5 → ∀ y ∈ s.rest, y.id ≠ s.cur.id) → ∃ t r, exec (.stQ a imm) s = .next t ∧ r.words = words ∧ r.tid = s.cur.id ∧ r.fpc = s.cur.pc ∧ r.rows = 0 ∧
       r.running = false ∧ r.id = s.fresh ∧
       CoreIs s t at_ { s.core at_ with
         mq := (s.core at_).mq ++ [r]
         unit := if (s.core at_).mq = [] ∧ (s.core at_).unit = .inactive then .requesting s.cycle else (s.core at_).unit } ∧
       t = { s with cores := t.cores, fresh := s.fresh + 1, cur := { s.cur with
         streams := if (s.reg 8).toNat % 256 = 5 then (s.cutStreams s.cur ((s.fillUnits r).map fun u => piece u.1 u.2 0)).streams else s.cur.streams
         cntM := s.cur.cntM + 1, pc := s.cur.pc + 8 } })) ∧
    -- an illegal record
    (∀ r, (s.core c).mq.head? = some r → r.illegal = true → s.recRuns c r = true → ∃ t, exec (.illegalRecord c) s = .next t ∧
      CoreIs s t c (dropRec (s.core c) r.id s.cycle) ∧
      t = { onThread s r.tid (fun x => { x with wait := .faulted }) with
        cores := t.cores
        grids := s.grids.map fun g => if g.num = r.tid.grid ∧ ∀ f ∈ g.faults, f.cycle = s.cycle then
          { g with faults := g.faults ++ [⟨s.cycle, true, r.tid.team, r.tid.thread, 1, 0x11, (r.words.getD 0 0).toNat % 256, r.fpc, r.words.getD 0 0⟩]
                   nfault := min (g.nfault + 1) 65535 } else g }) ∧
    -- `mrot` after its multiply
    (∀ r, HeadRuns s c 4 r → rowsOfRec r ≤ r.rows →
      (r.multiplied = false → ∀ l u, s.rotSends r (if (r.words.getD 0 0).getLsbD 14 then [0, 1, 2, 3] else [0, 1]) = (.ok l, u) → (u.core c).num = c →
        ∃ t, exec (.mrot c) s = .next t ∧ t = { u with cores := t.cores } ∧
          CoreIs u t c (mapRec (u.core c) r.id fun q => { q with multiplied := true, sends := l })) ∧
      (r.multiplied = true → r.sends = [] → s.rotExchanged r = true → ∃ (t : State) (ws : List Nat), exec (.mrot c) s = .next t ∧
        ws.Nodup ∧ (∀ w, w ∈ ws ↔ ∃ p ∈ s.rotWindows r, p.2 = w) ∧
        CoreIs s t c (dropRec (s.core c) r.id s.cycle) ∧
        t = { onThread s r.tid (fun x => { x with cntM := lowered x.cntM }) with
          cores := t.cores
          teams := s.teams.map fun q => if q.grid = r.tid.grid ∧ q.lteam = r.tid.team then
            { q with mrotStep := q.mrotStep + 1
                     mrotWins := (ws.map fun w => (w, q.mrotStep)) ++ q.mrotWins.filter fun p => !decide (p.1 ∈ ws) } else q }) ∧
      (∀ tags l u, (∀ tag ∈ tags, tag < 4) → s.rotSends r tags = (.ok l, u) → BlocksReady r tags l s u) ∧
      (∀ tag p q rest u, r.sends = (tag, p :: q :: rest) :: [] → s.rotMaySend r tag = some true →
        (∀ x ∈ p :: q :: rest, x.key < 2 ^ 55 ∧ x.len = 8 ∧ s.homeless (s.copyKey x.key) = false ∧ isKeep (s.copyKey x.key) = false ∧
          s.reachHeld x.key = false ∧ NotShadowed s (s.copyKey x.key)) →
        CachesClean s → s.chunkWrites = none → u = { s with oracle := u.oracle, fresh := u.fresh } → s.draw.2 = u →
        ∃ t x, exec (.mrotSend c) s = .next t ∧ x ∈ p :: q :: rest ∧ Stored s t (s.copyKey x.key) 8 x.data.toNat ∧
          (∀ w, w ∈ t.poison → w ∈ s.poison) ∧ (∀ w, w ∈ t.soft → w ∈ s.soft) ∧
          t = { u with mem := t.mem, poison := t.poison, soft := t.soft, lines := linesBut s x.key 8, cores := t.cores } ∧
          ∃ left, (p :: q :: rest).Perm (x :: left) ∧
            CoreIs s t c (mapRec (s.core c) r.id fun y => { y with sends := [(tag, left)] }))) ∧
    (∀ g l win r (w : DWindow), s.rotRecord g l = some r → (s.teamD g l).windows[win]? = some w →
      (∃ p ∈ s.rotWindows r, p.2 = win) → (∀ p ∈ s.rotWindows r, p.2 = win → p.1 ∈ w.recv) → w.step ≤ (s.teamD g l).mrotStep →
      s.halfRead (fun k => s.areaOf k == some (g, l, w.spad, w.off)) = false →
      exec (.mrotExchange g l win) s = .next { s with teams := s.teams.map fun x => if x.grid = g ∧ x.lteam = l then
        { x with windows := x.windows.modify win fun y => { y with flipped := !y.flipped, step := x.mrotStep + 1, recv := [] } } else x }) ∧
    -- a row filled, after what its thread has loaded of it before
    (∀ r z q p, HeadRuns s c 5 r → s.recBad r = none →
      let ea := effAddr (r.words.getD 1 0) ((strideOfRec r 0 * r.rows : Nat) : Int)
      let view := viewOf ea
      let n := if view = 0 then 256 else elemCount z.type * (Elem.ofView view).size
      locOf ea % (if view = 0 then 8 else (Elem.ofView view).size) = 0 → (s.teamD r.tid.grid r.tid.team).tiles[tileOfRec r]? = some z →
      q ∈ s.fabric → q.tid = r.tid → q.id < r.id → q.isLoad = true → p ∈ q.pieces → p.done = false →
      (∃ u ∈ s.unitsNow r.tid.grid ea n, p.key < u.1 + u.2 ∧ u.1 < p.key + p.len) → exec (.mfill c) s = .next s) ∧
    (∀ r z v u, HeadRuns s c 5 r → s.recBad r = none → r.rows < rowsOfRec r →
      let ea := effAddr (r.words.getD 1 0) ((strideOfRec r 0 * r.rows : Nat) : Int)
      let view := viewOf ea
      let n := if view = 0 then 256 else elemCount z.type * (Elem.ofView view).size
      locOf ea % (if view = 0 then 8 else (Elem.ofView view).size) = 0 →
      (s.teamD r.tid.grid r.tid.team).tiles[tileOfRec r]? = some z → s.fillBehind r ea n = false →
      s.engineRead (.grid r.tid.grid) r.tid r.upto ea n = (.bytes v, u) →
      ∃ (w : Row) (y : Tile),
        (view = 0 → w = BitVec.ofNat 2048 v) ∧
        (view ≠ 0 → ∀ i < elemCount z.type, element z.type w i = Elem.convert (piecewise (Elem.ofView view).size v i) (Elem.ofView view) (typeOf z.type)) ∧
        y = { z with
          rows := z.rows.set (r.rows % 64) w (Nat.mod_lt _ (by decide))
          valid := z.valid || (rowsOfRec r == 64 && r.rows + 1 == 64), sumBad := z.sumBad && !(rowsOfRec r == 64 && r.rows + 1 == 64) } ∧
        let u2 := { tileChanged u r y with
          poison := u.poison.filter (· != tileErr r.tid (tileOfRec r) r.rows), soft := u.soft.filter (· != tileErr r.tid (tileOfRec r) r.rows) }
        if r.rows + 1 = rowsOfRec r then CommandEnds (.mfill c) s u2 c r
        else CommandGoesOn (.mfill c) s u2 c r fun q => { q with running := true, rows := r.rows + 1 }) ∧
    -- a drain: a row read, its last unit written, the status word
    (∀ r z u keys, HeadRuns s c 6 r → s.recBad r = none → (s.teamD r.tid.grid r.tid.team).tiles[tileOfRec r]? = some z →
      let ea := effAddr (r.words.getD 1 0) ((strideOfRec r 0 * r.rows : Nat) : Int)
      let view := viewOf ea
      let n := if view = 0 then 256 else elemCount z.type * (Elem.ofView view).size
      let row := z.rows[r.rows % 64]'(Nat.mod_lt _ (by decide))
      let image := if view = 0 then row.toNat else
        ((List.range (elemCount z.type)).map fun i => Elem.convert (element z.type row i) (typeOf z.type) (Elem.ofView view) * 2 ^ (8 * (Elem.ofView view).size * i)).sum
      (r.writes = [] → r.rows < rowsOfRec r → tileErr r.tid (tileOfRec r) r.rows ∉ s.poison →
        locOf ea % (if view = 0 then 8 else (Elem.ofView view).size) = 0 → s.engineCheck (.grid r.tid.grid) ea n true = (.ok keys, u) →
        tileErr r.tid (tileOfRec r) r.rows ∉ u.soft →
        let ps := (keys.zip (units8 (locOf ea) n)).map fun p =>
          unitAt ea p.2.1 p.1 p.2.2 (BitVec.ofNat 64 (image / 2 ^ (8 * p.2.1) % 2 ^ (8 * p.2.2)))
        CommandGoesOn (.mdrain c) s u c r fun q => { q with running := true, writes := ps }) ∧
      (∀ p, r.writes = [p] → 1 ≤ p.len → s.carveState p.key = .ok → s.reachHeld p.key = false →
        s.homeless (s.mapKey p.key) = false → NotShadowed s (s.mapKey p.key) →
        (p.len = 8 ∨ s.poisoned (s.mapKey p.key) p.len = false ∧ NothingToCorrect s (s.mapKey p.key) p.len) →
        isKeep (s.mapKey p.key) = false → CachesClean s → s.chunkWrites = none →
        ∃ t, exec (.mdrain c) s = .next t ∧ Stored s t (s.mapKey p.key) p.len p.data.toNat ∧
          CoreIs s t c (mapRec (s.core c) r.id fun q => { q with writes := [], rows := r.rows + 1 }) ∧
          (∀ w, w ∈ t.poison → w ∈ s.poison) ∧ (∀ w, w ∈ t.soft → w ∈ s.soft) ∧
          t = { s with
            mem := t.mem, poison := t.poison, soft := t.soft, lines := linesBut s p.key p.len
            oracle := t.oracle, fresh := t.fresh, cores := t.cores }) ∧
      (∀ k, r.writes = [] → rowsOfRec r ≤ r.rows → s.engineCheck (.grid r.tid.grid) (effAddr (r.words.getD 4 0) 0) 8 true = (.ok [k], u) →
        u.carveState k = .ok → u.reachHeld k = false → NotShadowed u (u.mapKey k) → u.homeless (u.mapKey k) = false → isKeep (u.mapKey k) = false →
        CachesClean u → u.chunkWrites = none → z.sumBad = false → u.teams = s.teams → ∃ v, CommandEnds (.mdrain c) s v c r ∧
          (∀ w, w ∈ v.poison → w ∈ u.poison) ∧ (∀ w, w ∈ v.soft → w ∈ u.soft) ∧
          v = { u with mem := v.mem, poison := v.poison, soft := v.soft, lines := linesBut u k 8 } ∧
          Stored u v (u.mapKey k) 8 (1 + 2 * z.valid.toNat + 8 * z.ovf.toNat + 256 * rowsOfRec r))) ∧
    -- a tile cleared
    (∀ r z, HeadRuns s c 7 r → s.recBad r = none → (s.teamD r.tid.grid r.tid.team).tiles[tileOfRec r]? = some z → ∃ y : Tile,
      (∀ n (h : n < 64), y.rows[n] = 0) ∧ y.type = z.type ∧ y.valid = true ∧ y.ovf = false ∧
      let old := fun w => !(decide (tileErr r.tid (tileOfRec r) 0 ≤ w) && decide (w < tileErr r.tid (tileOfRec r) 0 + 64))
      CommandEnds (.mzero c) s { tileChanged s r y with poison := s.poison.filter old, soft := s.soft.filter old } c r)

namespace Sys2Proof.Claims

/-! ### The rein, the modes, background work -/

/-- A cluster changed and no other. -/
def ClusterIs (s t : State) (c : Nat) (k : Cluster) : Prop :=
  t.cluster c = k ∧ (∀ d, d ≠ c → t.cluster d = s.cluster d) ∧ t = { s with clusters := t.clusters }

/-- A bank changed and no other. -/
def BankIs (s t : State) (b : Nat) (k : Bank) : Prop := t.bank b = k ∧ ∀ d, d ≠ b → t.bank d = s.bank d

/-- One core changed, and nothing else. -/
def OnlyCore (i : Instr) (s : State) (c : Nat) (k : Core) : Prop :=
  ∃ t, exec i s = .next t ∧ CoreIs s t c k ∧ t = { s with cores := t.cores }

/-- A telemetry record with the ring empty of room: dropped and counted; with room: written at TAIL, which moves on; from KIND 2 on with
interrupt cause 4 (R343, R362, R286). Data caches lose their copies of what is written (R61). `u` is the machine before the record. -/
def Reported (u t : State) (kind sub loc addr value : Nat) : Prop :=
  let h := u.host
  let full := h.telSize.toNat ≤ 1 ∨ (h.telTail.toNat + 1) % h.telSize.toNat = h.telHead.toNat
  let base := (h.telbase.toNat / 2 ^ 5 % 2 ^ 48) * 32 + 32 * h.telTail.toNat
  let irq := (h.irqaddr.toNat / 2 ^ 2 % 2 ^ 51) * 4
  let word := fun n => match n with
    | 0 => u.cycle.toNat | 1 => kind + sub * 2 ^ 8 + loc % 2 ^ 13 * 2 ^ 16 | 2 => addr | _ => value
  (Memory.wf u.mem = true → ∀ x, t.byte x =
    if 2 ≤ kind ∧ irq ≤ x ∧ x < irq + 4 then BitVec.ofNat 8 (4 / 256 ^ (x - irq))
    else if ¬ full ∧ base ≤ x ∧ x < base + 32 then BitVec.ofNat 8 (word ((x - base) / 8) / 256 ^ ((x - base) % 8))
    else u.byte x) ∧
  (∀ w, w ∈ t.poison → w ∈ u.poison ∨ ∃ c, lineErr c w ∈ u.poison) ∧ (∀ w, w ∈ t.soft → w ∈ u.soft ∨ ∃ c, lineErr c w ∈ u.soft) ∧
  (∀ l, l ∈ t.lines → l ∈ u.lines) ∧
  t = { u with
    mem := t.mem, poison := t.poison, soft := t.soft, lines := t.lines
    host := if full then { h with telDrop := if h.telDrop = 65535 then 65535 else h.telDrop + 1 }
            else { h with telTail := BitVec.ofNat 12 ((h.telTail.toNat + 1) % h.telSize.toNat) } }

/-- A storage place without an error, uncorrectable or of one bit. -/
def Sound (s : State) (n : Nat) : Prop := n ∉ s.poison ∧ n ∉ s.soft

end Sys2Proof.Claims

/-- R203, R270, R303, R20, R290: one unit is admitted in a step, in order of request; one steps down in a step, in the order of the steps
in which the queues emptied, which is given as that step is over; sixteen steps later it is inactive, and until then the cluster's rein table stays; the modes written take
effect at their instants. -/
def Obligations.ReinAndPackageModes : Prop :=
  ∀ (s : State) (cl c : Nat),
    (c ∈ clusterCores cl → s.cycle.toNat % 4 = 0 → (∀ d ∈ clusterCores cl, (s.core d).unit ≠ .active s.cycle) → ∀ t,
      (s.core c).unit = .requesting t →
      (∀ d ∈ clusterCores cl, ∀ u, (s.core d).unit = .requesting u → d = c ∨ t.toNat < u.toNat ∨ t = u ∧ c < d) →
      OnlyCore (.reinAdmission cl) s c { s.core c with unit := .active s.cycle }) ∧
    (s.cycle.toNat % 4 ≠ 0 ∨ (∃ d ∈ clusterCores cl, (s.core d).unit = .active s.cycle) → exec (.reinAdmission cl) s = .next s) ∧
    (let slot := s.cycle - 4
     let may := fun d => (∃ f, (s.core d).unit = .active f) ∧ (s.core d).mq = [] ∧ (s.core d).emptied.toNat < s.cycle.toNat
     (c ∈ clusterCores cl → s.cycle.toNat % 4 = 0 → (∀ d ∈ clusterCores cl, (s.core d).unit ≠ .steppingDown slot) → may c →
       (∀ d ∈ clusterCores cl, may d → d = c ∨ (s.core c).emptied.toNat / 4 < (s.core d).emptied.toNat / 4 ∨
         (s.core c).emptied.toNat / 4 = (s.core d).emptied.toNat / 4 ∧ c < d) →
       OnlyCore (.reinStepDown cl) s c { s.core c with unit := .steppingDown slot }) ∧
     (s.cycle.toNat % 4 ≠ 0 ∨ (∃ d ∈ clusterCores cl, (s.core d).unit = .steppingDown slot) → exec (.reinStepDown cl) s = .next s)) ∧
    (∀ t, (s.core c).unit = .steppingDown t →
      (t.toNat + 4 * 16 ≤ s.cycle.toNat →
        OnlyCore (.stepDownComplete c) s c { s.core c with unit := if (s.core c).mq = [] then .inactive else .requesting s.cycle }) ∧
      (s.cycle.toNat < t.toNat + 4 * 16 → exec (.stepDownComplete c) s = .next s)) ∧
    (let busy := ∃ d ∈ clusterCores cl, ∃ f, (s.core d).unit = .active f ∨ (s.core d).unit = .steppingDown f
     (s.cycle.toNat % 4 = 0 → ¬ busy → ∃ t, exec (.reinTableChange cl) s = .next t ∧ ClusterIs s t cl { s.cluster cl with fast := s.host.fast }) ∧
     (s.cycle.toNat % 4 ≠ 0 ∨ busy → exec (.reinTableChange cl) s = .next s)) ∧
    (∀ v, exec (.pkgmodeWrite v) s = .next { s with host := { s.host with budget := v.setWidth 2, fast := v.getLsbD 2 } }) ∧
    (s.cycle.toNat % 2 ^ 20 = 0 → exec .budgetChange s = .next { s with host := { s.host with budgetInForce := s.host.budget } }) ∧
    (s.cycle.toNat % 2 ^ 20 ≠ 0 → exec .budgetChange s = .next s)

/-- R65, R347, R208, R271, R272, R344, R345, R352: a bank's change ends with its megabytes reading zeros and full; a failed bus cuts a
carve-out from its top; the sweeper keeps what a mark word says; background accesses come after
the others of their cycle, and keep content; scrub reports a clean copy that it drops as KIND 2; calibration changes nothing. Which
lines a growing change takes from the cache is log entry 60. That a corrected error is reported at once the first time, and again only
after 2^24 cycles, is log entry 25 (DEDUCED; R343 says at most once); the count of spares that wear levelling leaves is log entry 46. -/
def Obligations.BackgroundWorkKeepsContent : Prop :=
  ∀ (s : State),
    (∀ b w, (s.bank b).busy = some w → (∀ q ∈ s.fabric, q.parked = true → ∀ p ∈ q.pieces,
        p.key < carveKey b ((s.bank b).cur * 2 ^ 20) ∨ carveKey b (w * 2 ^ 20) ≤ p.key) → ∃ t, exec (.bankpartChangeEnd b) s = .next t ∧
      (let lo := min (s.bank b).cur w * 2 ^ 20
       let hi := max (s.bank b).cur w * 2 ^ 20
       (∀ x, t.byte x = if carveKey b lo ≤ x ∧ x < carveKey b hi then 0 else s.byte x) ∧
       (∀ x, t.isFull x = if carveKey b lo ≤ x / 8 * 8 ∧ x / 8 * 8 < carveKey b hi then true else s.isFull x)) ∧
      (∀ p, p ∈ t.poison → p ∈ s.poison) ∧ (∀ p, p ∈ t.soft → p ∈ s.soft) ∧
      t = { s with mem := t.mem, empty := t.empty, poison := t.poison, soft := t.soft, banks := t.banks } ∧
      (∀ d, d ≠ b → t.bank d = s.bank d) ∧ (t.bank b).cur = w ∧
      ((s.bank b).waiting = none → (t.bank b).busy = none ∧ (t.bank b).w = (s.bank b).w) ∧
      (∀ v, (s.bank b).waiting = some v →
        let held := ∃ r ∈ s.fabric, r.held = true ∧ r.parked = false ∧ ∃ p ∈ r.pieces, p.done = false ∧ carveKey b 0 ≤ p.key ∧ p.key < carveKey b (w * 2 ^ 20)
        (held → (t.bank b).busy = some w ∧ (t.bank b).waiting = some v) ∧
        (¬ held → v ≤ 14 - 4 * (s.bank b).retired.length → (t.bank b).busy = (if v = w then none else some v) ∧ (t.bank b).waiting = none))) ∧
    (∀ b q, q < 4 → q ∉ (s.bank b).retired →
      let x := s.bank b
      let top := 16 - 4 * (x.retired.length + 1) - 2
      ∃ u t, exec (.verticalBusFailure b q) s = .next t ∧
        Reported u t 3 3 b 0 (q + min x.cur top * 2 ^ 8 + (16 - 4 * (x.retired.length + 1) - min x.cur top) * 2 ^ 16) ∧
        (u.bank b).retired = q :: x.retired ∧ (u.bank b).cur = min x.cur top ∧ (∀ d, d ≠ b → u.bank d = s.bank d) ∧
        (∀ y, u.byte y = if carveKey b (min x.cur top * 2 ^ 20) ≤ y ∧ y < carveKey b (x.cur * 2 ^ 20) then 0 else s.byte y) ∧
        (∀ y, y ∈ u.poison → y ∈ s.poison) ∧ (∀ y, y ∈ u.soft → y ∈ s.soft) ∧
        u = { s with mem := u.mem, empty := u.empty, poison := u.poison, soft := u.soft, banks := u.banks }) ∧
    (∀ g rg w k, rg < 8 → (s.gridD g).sweeps rg = true → 4 * w < ((s.gridD g).regionNo rg).size → (s.gridD g).replay.apart = none →
      s.keyNow g (((s.gridD g).regionNo rg).base + 4 * w) = some k → s.poisoned (s.mapKey k) 4 = false →
      (∃ x, (s.gridD g).region (((s.gridD g).regionNo rg).base + 4 * w) = some x ∧ x.num = ((s.gridD g).regionNo rg).num) →
      let r := (s.gridD g).regionNo rg
      let T := tickOf r (s.markCycle g)
      let old := bytesAt s (s.mapKey k) 4
      (2048 < (T + 4096 - old / 16 % 4096) % 4096 → ∃ t, exec (.sweeperNormalise g rg w) s = .next t ∧
        Stored s t (s.mapKey k) 4 (fadedTo r old T * 2 ^ 16 + T * 2 ^ 4) ∧ t = { s with mem := t.mem }) ∧
      ((T + 4096 - old / 16 % 4096) % 4096 ≤ 2048 → exec (.sweeperNormalise g rg w) s = .next s)) ∧
    (∀ i n g rg w, i = Instr.patrolScrub n ∨ i = .mramScrub n ∨ i = .sweeperNormalise g rg w → i.wf = true →
      s.act (.event i) = .next { s with background := s.background ++ [i] } ∧
      (s.background = [i] → ∀ t, exec i { s with background := [] } = .next t → s.runBackground = t)) ∧
    (∀ n, Sound s n → exec (.patrolScrub n) s = .next s ∧ ((∀ w ∈ codeWords n, Sound s w) → exec (.mramScrub n) s = .next s)) ∧
    (∀ n, n < 2 ^ 60 → storageKind (8 * n) = 8 ∨ storageKind (8 * n) = 9 → exec (.patrolScrub n) s = .next s) ∧
    (∀ n, n < 2 ^ 60 → n ∉ s.poison → n ∈ s.soft → storageKind (8 * n) ≠ 9 →
      (isKeep (8 * n) = true → ∀ w ∈ codeWords n, w ≠ n → Sound s w ∧ ∀ c, Sound s (lineErr c w)) →
      let scrub := if isKeep (8 * n) then Instr.mramScrub n else .patrolScrub n
      let u : State := { s with soft := s.soft.filter (· != n) }
      ((∀ c ∈ s.corrected, c.key ≠ n) → ∃ t, exec scrub s = .next t ∧
        Reported { u with corrected := ⟨n, 0, s.cycle⟩ :: s.corrected } t 1 (storageKind (8 * n)) (s.whereOf (8 * n)) (s.addrOf (8 * n)) 1) ∧
      (∀ c, s.corrected.find? (·.key == n) = some c →
        (s.cycle.toNat < c.last.toNat + 2 ^ 24 → exec scrub s = .next { u with
          corrected := s.corrected.map fun x => if x.key = n then { c with count := c.count + 1 } else x }) ∧
        (c.last.toNat + 2 ^ 24 ≤ s.cycle.toNat → ∃ t, exec scrub s = .next t ∧
          Reported { u with corrected := s.corrected.map fun x => if x.key = n then { c with count := 0, last := s.cycle } else x } t
            1 (storageKind (8 * n)) (s.whereOf (8 * n)) (s.addrOf (8 * n)) (c.count + 1)))) ∧
    (∀ n, n < 2 ^ 60 → n ∈ s.poison → storageKind (8 * n) = 3 → ∃ t, exec (.patrolScrub n) s = .next t ∧
      Reported s t 2 3 (s.whereOf (8 * n)) (s.addrOf (8 * n)) 0) ∧
    (∀ n w, n < 2 ^ 60 → isKeep (8 * n) = true → w ∈ codeWords n → w ∈ s.poison → (∀ v ∈ codeWords n, v < w → v ∉ s.poison) →
      ∃ t, exec (.mramScrub n) s = .next t ∧ Reported s t 2 8 (s.whereOf (8 * w)) (s.addrOf (8 * w)) 0) ∧
    (∀ w, w < 2 ^ 60 → bankClean w ∈ s.poison → ∃ t, exec (.patrolScrub (bankClean w)) s = .next t ∧
      Reported { s with poison := s.poison.filter (· != bankClean w), soft := s.soft.filter (· != bankClean w) } t
        2 3 (s.whereOf (8 * w)) (s.addrOf (8 * w)) 0) ∧
    (∀ c, c ∉ s.mramBad → exec (.wearLevelling c) s = .next s) ∧
    (∀ c, c ∈ s.mramBad → s.spares.getD (towerOf c) 0 ≠ 0 → ∃ t u v, exec (.wearLevelling c) s = .next t ∧
      u = { s with spares := s.spares.set (towerOf c) (s.spares.getD (towerOf c) 0 - 1), mramBad := s.mramBad.erase c } ∧
      Reported u v 5 0 c 0 (s.spares.getD (towerOf c) 0 - 1) ∧
      (if s.spares.getD (towerOf c) 0 - 1 < 64 then Reported v t 6 0 c 0 (s.spares.getD (towerOf c) 0 - 1) else t = v)) ∧
    exec .calibration s = .next s

namespace Sys2Proof.Claims

/-! ### The life of a grid -/

/-- A grid changed. -/
def onGridNo (s : State) (g : Nat) (f : Grid → Grid) : State := { s with grids := s.grids.map fun x => if x.num = g then f x else x }

/-- Does a key lie in a window of a grid (R51, R57)? -/
def windowOf (g k : Nat) : Bool :=
  (decide (2 ^ 53 ≤ k) && decide (k < 2 ^ 54) && (k - 2 ^ 53) / 2 ^ 31 == g) ||
  (decide (2 ^ 54 ≤ k) && decide (k < 2 ^ 55) && (k - 2 ^ 54) / 2 ^ 34 == g)

/-- Is something held that breakpoint `k` has matched (R291)? -/
def heldBy (s : State) (k : Nat) : Bool := s.queues.any (fun q => q.held.contains k) || s.grids.any fun g => g.held.contains k

/-- HIT of each breakpoint as what is held gives it (R291): bit 19 of `CPBC`. -/
def hitsSet (s : State) : State :=
  { s with host := { s.host with cpbc := s.host.cpbc.mapIdx fun k c => if heldBy s k then c ||| 0x80000 else c &&& ~~~0x80000 } }

/-- Everything a grid holds is freed: its windows read zeros and full when they are allocated again (R27, R28, R316); an exchange of one
of its teams is abandoned, and its cores are frozen (R325); the saddlebag pair of a team that stays saved is a spare again (DESIGN CHOICE,
log entry 46); no breakpoint holds it any more. -/
def Freed (s u : State) (g : Nat) : Prop :=
  let held := (s.teams.filter fun t => t.grid == g).filterMap (·.core)
  let hit := fun p : Nat × Nat => held.contains p.1 || held.contains p.2
  (∀ k, u.byte k = if windowOf g k then 0 else s.byte k) ∧ (∀ k, u.isFull k = if windowOf g (k / 8 * 8) then true else s.isFull k) ∧
  (∀ w ∈ u.poison, w ∈ s.poison) ∧ (∀ w ∈ u.soft, w ∈ s.soft) ∧
  (∀ c, let k := s.core c
    let left := k.mq.filter (·.tid.grid != g)
    let paired := s.exchanges.any fun p => hit p && (p.1 == c || p.2 == c)
    u.core c = { k with
      mq := left, emptied := if left = [] ∧ k.mq ≠ [] then s.cycle else k.emptied, exchanging := k.exchanging && !paired
      frozen := if paired = true ∧ c ∈ s.cores.map (·.num) then 4 else k.frozen }) ∧
  u = hitsSet { s with
    cur := if s.cur.id.grid = g then Thread.vacant else s.cur
    rest := s.rest.filter (·.id.grid != g), teams := s.teams.filter (·.grid != g), grids := s.grids.filter (·.num != g)
    fabric := s.fabric.filter (·.tid.grid != g), fs := s.fs.filter (·.tid.grid != g)
    copies := s.copies.filter fun c => c.entry.isSome || c.grid != g
    exchanges := s.exchanges.filter fun p => !hit p
    spares := (s.teams.filter fun t => t.grid == g && t.core.isNone).foldl
      (fun l t => l.set (towerOf t.savedFrom) (l.getD (towerOf t.savedFrom) 0 + 1)) s.spares
    cores := u.cores, mem := u.mem, empty := u.empty, poison := u.poison, soft := u.soft }

/-- The byte at `x` of words laid out from `a` (R3). -/
def byteOfWords (l : List Nat) (a x : Nat) : Byte := BitVec.ofNat 8 (l.getD ((x - a) / 8) 0 / 256 ^ ((x - a) % 8))

/-- The record of a grid that ends, `u` being the machine with everything freed: without an entry and with DONE 0 there is none; with
DONE, its word takes the status and is full; with an entry, the block of 64 bytes, then the completion record (R239, R255, R266, R319). -/
def Ended (u : State) (g : Grid) (status cause : Nat) (block : List Nat) (t : State) : Prop :=
  (g.entry = none → g.desc.done = 0 → t = u) ∧
  (g.entry = none → locOf g.desc.done % 8 = 0 → ∀ k, g.desc.done ≠ 0 → status = 0 → locOf g.desc.done < 0xF000000000000 →
    (∃ x, u.walkQueue g.queue (locOf g.desc.done) = .mem k true x) → isKeep k = false → CachesClean u → u.chunkWrites = none →
    (∀ r ∈ u.fabric, r.parked = true → ∀ p ∈ r.pieces, u.mapKey p.key / 8 ≠ k / 8) →
    Stored u t k 8 (status + g.num * 2 ^ 8) ∧ FullAfter u t k (some true) ∧ (∀ w, w ∈ t.poison → w ∈ u.poison) ∧ (∀ w, w ∈ t.soft → w ∈ u.soft) ∧
      t = { u with mem := t.mem, empty := t.empty, poison := t.poison, soft := t.soft, lines := linesBut u k 8 }) ∧
  (∀ q n, g.entry = some (q, n) → g.desc.done = 0 → ∀ e : QEntry, (u.queue q).entries.find? (·.id == n) = some e →
    (∀ x, e.addr + 48 ≤ x → x < e.addr + 256 → isKeep x = false) → CachesClean u → u.chunkWrites = none →
    (Memory.wf u.mem = true → ∀ x, t.byte x =
      if e.addr + 48 ≤ x ∧ x < e.addr + 64 then
        byteOfWords [status + cause * 2 ^ 8 + g.num * 2 ^ 16 + 2 ^ 31 + e.num % 2 ^ 32 * 2 ^ 32, u.cycle.toNat] (e.addr + 48) x
      else if e.addr + 192 ≤ x ∧ x < e.addr + 256 then byteOfWords block (e.addr + 192) x
      else u.byte x) ∧
    t.queue q = { u.queue q with entries := (u.queue q).entries.map fun x =>
      if x.id = n then { x with done := true, grid := g.num, status := status, cause := cause, written := true } else x } ∧
    (∀ d, d ≠ q → t.queue d = u.queue d) ∧ (∀ w, w ∈ t.poison → w ∈ u.poison) ∧ (∀ w, w ∈ t.soft → w ∈ u.soft) ∧
    (∀ l, l ∈ t.lines → l ∈ u.lines) ∧
    t = { u with mem := t.mem, poison := t.poison, soft := t.soft, lines := t.lines, queues := t.queues })

/-- The team `l` of a grid at its start cycle (R24, R26, R27). -/
def teamAtStart (g : Grid) (l c : Nat) (now : Word) : Team :=
  let d := g.desc
  { Team.vacant with
    grid := g.num, lteam := l, core := some c, tiles := List.replicate (bits d.shape 20 16) Tile.zero, pool := 512 * bits d.shape 27 21
    tcm := 4096 * bits d.shape 34 28, spad := 4096 * bits d.shape 44 35, spill := bits d.shape 57 45, nthread := bits d.shape 15 13 + 1
    windows := g.windows, placedAt := now }

/-- The cores that the referee chose, one for each team, each with room, no two alike, no two in one cluster where partitions count. -/
def RoomFor (s : State) (g : Grid) (cores : List Nat) : Prop :=
  cores.length = bits g.desc.shape 12 0 + 1 ∧ cores.Nodup ∧ (bits g.desc.shape 44 35 = 0 ∨ (cores.map clusterOf).Nodup) ∧
  courtOk g.desc.side cores = true ∧ ∀ c ∈ cores, s.coreFits g c = true

/-- No launch that comes before a grid, by priority, time, queue and number, could be placed now (R258). -/
def FirstInLine (s : State) (g : Grid) : Prop := ∀ x ∈ s.ranked, x.num ≠ g.num → x.before g = true → s.canPlace x = false

/-- The threads and the cores without the lines of the grid's queue (R62). -/
def LinesDropped (s t : State) (cores : List Nat) (q : Nat) : Prop :=
  ∀ c, t.core c = { s.core c with mq := (t.core c).mq, unit := (t.core c).unit, icache := (t.core c).icache } ∧
    (t.core c).icache = if c ∈ cores then (s.core c).icache.filter (·.queue != q) else (s.core c).icache

end Sys2Proof.Claims

/-- R24–R28, R35, R204, R258: every team of a grid starts at once with its threads as R27 says; threads parked without work end; a grid whose
threads, copies, records and children are gone is complete. Which cores the referee chooses is free within the limits (log entry 11). -/
def Obligations.GridsStartParkAndComplete : Prop :=
  ∀ (s : State) (gn : Nat) (g : Grid), s.grid? gn = some g →
    (∀ cores, g.state = .queued → g.held = [] → s.launchBefore g = false → s.siblingFirst g = false → FirstInLine s g → RoomFor s g cores →
      (∀ x ∈ s.cur :: s.rest, x.id.grid ≠ gn) → (∀ x ∈ s.teams, x.grid ≠ gn) → ∃ t, exec (.gridStart gn cores) s = .next t ∧
      t.teams = s.teams ++ cores.zipIdx.map (fun p => teamAtStart g p.2 p.1 s.cycle) ∧
      (∃ new, t.rest = s.rest ++ new ∧ new.length = cores.length * (bits g.desc.shape 15 13 + 1) ∧
        ∀ x ∈ new, x.id.grid = gn ∧ cores[x.id.team]? = some x.core ∧ x.id.thread < bits g.desc.shape 15 13 + 1 ∧ x.wait = .running ∧
          x.pc = g.desc.entry ∧ x.tvec = g.desc.tvec ∧ s.slotTaken x.core x.slot = false ∧ x.homeSlot = x.slot ∧
          (∀ d : Reg, x.reg d = if 1 ≤ d.toNat ∧ d.toNat ≤ 7 then g.desc.args.getD (d.toNat - 1) 0 else 0) ∧
          x.tstat = 0x340000 ∧ x.resq = [] ∧ x.log = [] ∧ ∀ n (h : n < 8), x.fregs[n] = FReg.empty) ∧
      LinesDropped s t cores g.queue ∧ (∀ c, (t.core c).mq = (s.core c).mq ∧ (t.core c).unit = (s.core c).unit) ∧
      t = { onGridNo s gn (fun x => { x with
              state := .placed, start := s.cycle, placedSince := s.cycle, live := false
              mreg := x.regions.map fun p => (p.1, setBits p.2 41 0 ((bits p.2 41 0 + s.cycle.toNat) % 2 ^ 42)) }) with
            teams := t.teams, rest := t.rest, cores := t.cores }) ∧
    (g.state = .placed → g.faults = [] → g.pushes = [] → g.replay.apart = none → g.replay.committing = false →
      (∀ q ∈ s.teams, q.grid = gn → q.deque = []) →
      (∀ x ∈ s.cur :: s.rest, x.id.grid = gn → (∃ c, x.wait = .next c) ∨ x.wait = .ended) →
      let ends := fun x : Thread => if x.id.grid = gn ∧ x.wait ≠ .ended then { x with wait := .exiting s.fresh } else x
      exec (.nextParkEnd gn) s = .next { s with cur := ends s.cur, rest := s.rest.map ends }) ∧
    (g.state = .placed → g.faults = [] → g.pushes = [] → g.replay.apart = none → g.replay.committing = false →
      (∀ x ∈ s.cur :: s.rest, x.id.grid = gn → x.wait = .ended) → (∀ c ∈ s.copies, c.entry = none → c.grid ≠ gn) →
      (∀ c ∈ s.cores, ∀ r ∈ c.mq, r.tid.grid ≠ gn) → (∀ x ∈ s.grids, x.parent ≠ some gn) →
      (∀ r ∈ s.fabric, r.tid.grid = gn → ∀ p ∈ r.pieces, p.done = true) →
      ∃ t u, exec (.gridComplete gn) s = .next t ∧ Freed s u gn ∧
        Ended u g 0 0 [g.consumed.toNat, g.start.toNat, s.cycle.toNat, g.tasks, g.qwait, g.search, g.run,
          g.steals % 2 ^ 32 + min g.failed (2 ^ 32 - 1) * 2 ^ 32] t)

/-- R315, R316, R319, R322, R323: the earliest fault ends its grid, once its cycle is over, which leaves its fault record; a watchdog window ends every grid
that was not live in it, unless its threads only wait. That FINISH of a fault record is the cycle of the fault, at which the grid's threads
stopped, is the model's reading of R319; that a team which stays saved gives its saddlebag pair back is log entry 46 (DESIGN CHOICE). -/
def Obligations.FaultsAndTheWatchdogEndGrids : Prop :=
  ∀ (s : State),
    (∀ gn g f, s.grid? gn = some g → f ∈ g.faults →
      (∀ x ∈ g.faults, x = f ∨ f.cycle < x.cycle ∨ f.cycle = x.cycle ∧ (f.byThread = true ∧ x.byThread = false ∨
        f.byThread = x.byThread ∧ (f.team < x.team ∨ f.team = x.team ∧ f.thread < x.thread))) →
      (∀ x ∈ s.grids, x.parent = none) → g.replay.apart = none → g.replay.committing = false → f.cycle ≠ s.cycle →
      (∀ k ∈ s.cores, ∀ r ∈ k.mq, r.tid.grid = gn → r.midRow = false) → (s.fabric.map (·.id)).Nodup →
      (∀ r ∈ s.fabric, r.tid.grid = gn → r.parked = true ∨ r.dataFrom ≠ none ∨ ∀ p ∈ r.pieces, p.done = true) →
      (∀ c ∈ s.copies, c.entry = none → c.grid = gn → c.writes = []) → (∀ x ∈ s.cur :: s.rest, x.id.grid = gn → x.vreplay = none) →
      ∃ t u, exec (.gridFaultEnd gn) s = .next t ∧ Freed s u gn ∧
        Ended u g f.status f.cause
          ([g.consumed.toNat, g.start.toNat, f.cycle.toNat] ++
           (if f.byThread then [f.fpc.toNat, f.fval.toNat, f.team % 2 ^ 13 + f.thread * 2 ^ 13 + f.detail * 2 ^ 16 + 2 ^ 24]
            else [0, f.fval.toNat, f.detail * 2 ^ 16]) ++ [g.tasks, g.nfault]) t) ∧
    (∀ gn g f, s.grid? gn = some g → chosenFault g.faults = some f → f.cycle = s.cycle → exec (.gridFaultEnd gn) s = .next s) ∧
    (let w := s.host.wdog.toNat % 64
     let n := if 24 ≤ w ∧ w ≤ 40 then w else 31
     let off := s.host.wdog.toNat / 64 == 1
     let judged := fun g : Grid =>
       !off && (g.state == .placed || (match g.state with | .quiescing _ => true | _ => false)) && g.faults == [] &&
       decide (g.placedSince.toNat + 2 ^ n ≤ s.cycle.toNat) && !g.live && !s.gridHalted g.num && !s.waitsOnly g.num
     let fault : FaultRec := ⟨s.cycle, false, 0, 0, 2, 0, 0, 0, 0⟩
     let judge := fun g : Grid =>
       if judged g then { g with faults := [fault], nfault := min (g.nfault + 1) 65535, live := false } else { g with live := false }
     (s.cycle.toNat % 2 ^ n ≠ 0 → exec .watchdogWindowEnd s = .next s) ∧
     (s.cycle.toNat % 2 ^ n = 0 → (s.grids.map (·.num)).Nodup →
       exec .watchdogWindowEnd s = .next { s with grids := s.grids.map judge }))

/-- R43, R51, R205, R258–R260, R324: a grid of lower priority quiesces for the first ready launch that cannot be placed, and is saved once
it has; one that does not quiesce in time, that R51 comes to protect, or for which spare slot pairs no longer suffice (R352), goes on; a saved grid is placed again as a whole; a write of a
region descriptor is applied as one event. That the saddlebag pairs are told by their number alone is log entry 46, that a saved thread stands on core 8192, which
is none, log entry 30, and that a saved grid is ready from the cycle in which it is saved log entry 74 (DESIGN CHOICE each). -/
def Obligations.PreemptionSavesAndResumes : Prop :=
  ∀ (s : State) (gn : Nat) (g : Grid), s.grid? gn = some g →
    (let able := fun x : Grid => x.state = .placed ∧ x.faults = [] ∧ s.carveProtected x = false ∧ s.pairsFor x.num = true
     (∀ w rest, s.ranked = w :: rest → able g → s.exchanges = [] → g.prio < w.prio →
       (∀ x ∈ s.grids, x.num ≠ gn → able x → g.prio < x.prio ∨ g.prio = x.prio ∧ x.start ≤ g.start) → s.withoutQuiescing.canPlace w = false →
       exec (.preempt gn) s = .next (onGridNo s gn fun x => { x with state := .quiescing s.cycle })) ∧
     (g.state = .placed → (s.ranked = [] ∨ s.exchanges ≠ [] ∨ ∃ w rest, s.ranked = w :: rest ∧ (w.prio ≤ g.prio ∨ s.withoutQuiescing.canPlace w = true)) →
       exec (.preempt gn) s = .next s)) ∧
    (∀ since, g.state = .quiescing since →
      (s.carveProtected g = true ∨ s.pairsFor gn = false → exec (.preempt gn) s = .next (onGridNo s gn fun x => { x with state := .placed })) ∧
      (s.carveProtected g = false → g.faults = [] → s.quiesced gn = true → s.cycle.toNat ≤ since.toNat + 2 ^ 22 →
        (∀ q ∈ s.teams, q.grid = gn → ∀ c, q.core = some c → c ∉ s.mramBad ∧ noPair c ∉ s.mramBad) →
        (s.teams.map fun q => (q.grid, q.lteam)).Nodup → (s.grids.map (·.num)).Nodup →
        (∀ w < 4, 64 + s.teams.length ≤ s.spares.getD w 0) → (∀ q ∈ s.teams, q.grid = gn → ∀ c, q.core = some c → c < 8192) → s.spares.length = 4 →
        ∃ t, exec (.preempt gn) s = .next t ∧
        (∀ q ∈ s.teams, q.grid = gn → ∀ c, q.core = some c → ∃ y ∈ t.teams, y.grid = gn ∧ y.lteam = q.lteam ∧ y.core = none ∧
          y.savedMq.map (·.words) = ((s.core c).mq.filter fun r => r.tid.grid == gn && r.tid.team == q.lteam).map (·.words) ∧
          y = { q with core := none, savedMq := y.savedMq, savedFrom := c } ∧ (∀ r ∈ (t.core c).mq, r.tid.grid ≠ gn ∨ r.tid.team ≠ q.lteam) ∧
          (t.core c).committed = none) ∧
        (∀ w < 4, t.spares.getD w 0 + (s.teams.filter fun q => q.grid == gn && q.core.any fun c => towerOf c == w).length = s.spares.getD w 0) ∧
        (∀ q, q.grid ≠ gn → (q ∈ t.teams ↔ q ∈ s.teams)) ∧
        (∀ x ∈ s.cur :: s.rest, x.id.grid ≠ gn → x ∈ t.cur :: t.rest) ∧
        (∀ x ∈ s.cur :: s.rest, x.id.grid = gn → x.wait = .running → { x with core := 8192 } ∈ t.cur :: t.rest) ∧
        (∀ x ∈ s.cur :: s.rest, x.id.grid = gn → (∃ v b, x.wait = .sleep v b) →
          { x with
            core := 8192, wait := .running, got := [], pc := match x.half with | some h => h.pc | none => x.pc
            awaiting := x.awaiting.filter fun p => x.vreplay.any fun v => p.2 + 1 == v.base } ∈ t.cur :: t.rest) ∧
        (∀ x ∈ s.cur :: s.rest, x.id.grid = gn → ∃ y ∈ t.cur :: t.rest, y.id = x.id ∧ y.core = 8192 ∧ y.regs = x.regs ∧ y.tstat = x.tstat ∧
          (y.pc = x.pc ∨ ∃ h, x.half = some h ∧ y.pc = h.pc) ∧
          ((∃ n r, x.wait = .word n ∧ s.fabric.find? (·.id == n) = some r ∧ r.parked = true) → y.wait = .running)) ∧
        t = { onGridNo s gn (fun x => { x with state := .saved, readyAt := s.cycle }) with
          cur := t.cur, rest := t.rest, teams := t.teams, cores := t.cores, spares := t.spares
          fabric := s.fabric.filter fun r => !(r.tid.grid == gn && (r.parked || r.dataFrom.isSome)) }) ∧
      (since.toNat + 2 ^ 22 < s.cycle.toNat → ∃ t, exec (.preemptAbandon gn) s = .next t ∧
        Reported (onGridNo s gn fun x => { x with state := .placed }) t 11 0 0 0 gn) ∧
      (s.cycle.toNat ≤ since.toNat + 2 ^ 22 → exec (.preemptAbandon gn) s = .next s)) ∧
    (∀ cores, g.state = .saved → g.faults = [] → FirstInLine s g → RoomFor s g cores → (∀ q ∈ s.teams, q.grid = gn → q.core = none) →
      (s.teams.map fun q => (q.grid, q.lteam)).Nodup → (∀ l < cores.length, ∃ q ∈ s.teams, q.grid = gn ∧ q.lteam = l) → s.spares.length = 4 →
      (∀ c ∈ cores, noPair c ∉ s.mramBad) →
      (∀ l c, cores[l]? = some c → (s.core c).mq.length + (s.teamD gn l).savedMq.length ≤ 8) →
      ∃ t, exec (.resume gn cores) s = .next t ∧
      (∀ l c, cores[l]? = some c → (s.teamD gn l).grid = gn → ∃ y ∈ t.teams, y.grid = gn ∧ y.lteam = l ∧
        y = { s.teamD gn l with core := some c, savedMq := [], placedAt := s.cycle } ∧
        (t.core c).mq = (s.core c).mq ++ (s.teamD gn l).savedMq) ∧
      (∀ q, q.grid ≠ gn → (q ∈ t.teams ↔ q ∈ s.teams)) ∧
      (∀ x ∈ s.cur :: s.rest, x.id.grid ≠ gn → x ∈ t.cur :: t.rest) ∧
      (∀ x ∈ s.cur :: s.rest, x.id.grid = gn → ∀ c, cores[x.id.team]? = some c → ∃ n, { x with core := c, slot := n, homeSlot := n } ∈ t.cur :: t.rest) ∧
      (∀ w < 4, t.spares.getD w 0 = s.spares.getD w 0 + (cores.filter fun c => towerOf c == w).length) ∧
      LinesDropped s t cores g.queue ∧
      t = { onGridNo s gn (fun x => { x with state := .placed, placedSince := s.cycle }) with
        cur := t.cur, rest := t.rest, teams := t.teams, cores := t.cores, spares := t.spares }) ∧
    (∀ n v who rest, g.mregPend = (n, v, who) :: rest → (s.grids.map (·.num)).Nodup →
      let p := g.mreg.getD (n / 2) (0, 0)
      let put := fun (old m : Word) => (old &&& ~~~m) ||| (v &&& m)
      let mreg := g.mreg.set (n / 2) (if n % 2 = 0 then (put p.1 0x3FFFFFFFFFFFFFFF, p.2) else (p.1, put p.2 0x00FFFFFFFFFFFFFF))
      exec (.mregWriteApply gn) s = .next (onThread (onGridNo s gn fun x => { x with mreg := mreg, mregPend := rest }) who fun x =>
        if x.wait = .mregWrite then goesOn x else x))

/-- R44–R48, R325, R350: at a swap instant the counts are formed and the pairs that save most, of those that save enough, begin their
exchange; an exchange moves both teams, which commits both cores, or neither, and freezes the cores; it is abandoned where a grid of a team on them is to end (R316). Whether an exchange is abandoned
otherwise is a free choice (log entry 15). -/
def Obligations.SwapsExchangeTwoTeams : Prop :=
  ∀ (s : State),
    (s.cycle.toNat % 2 ^ 22 ≠ 0 → exec .swapInstant s = .next s) ∧
    (s.cycle.toNat % 2 ^ 22 = 0 → ∃ t ps, exec .swapInstant s = .next t ∧
      (let u : State := { s with teams := t.teams }
       let share := fun (p q : Nat) (x : Nat × Nat) => x.1 = p ∨ x.1 = q ∨ x.2 = p ∨ x.2 = q
       (ps.flatMap fun p => [p.1, p.2]).Nodup ∧
       (∀ p ∈ ps, p.1 < p.2 ∧ adjacent p.1 p.2 = true ∧ ∃ a b, u.swapTeam p.1 = some a ∧ u.swapTeam p.2 = some b ∧
         let old := swapCost a b a p.1 + swapCost a b b p.2
         let new := swapCost a b a p.2 + swapCost a b b p.1
         new + 1024 ≤ old ∧ old < 8 * (old - new)) ∧
       ∀ n p q, p < q → adjacent p q = true → u.swapPair p q = some (n, p, q) →
         ∃ x ∈ ps, share p q x ∧ ∃ m, u.swapPair x.1 x.2 = some (m, x.1, x.2) ∧ n ≤ m) ∧
      (∀ c, t.core c = { s.core c with
        frozen := (s.core c).frozen - 1, exchanging := (s.core c).exchanging || (ps.flatMap fun p => [p.1, p.2]).contains c }) ∧
      t = { s with
        teams := s.teams.map fun q => { q with sent := [], hist := if q.core.isSome then q.sent :: q.hist else [] }
        cores := t.cores, exchanges := s.exchanges ++ ps }) ∧
    (∀ p q, p ≠ q → (p, q) ∈ s.exchanges → s.stoppedFor p = true → s.stoppedFor q = true → s.poison = [] →
      (∀ c, c = p ∨ c = q → c ∉ s.mramBad ∧ noPair c ∉ s.mramBad) →
      ∃ t, exec (.exchange p q) s = .next t ∧
      (∀ c, (c = p ∨ c = q → (t.core c).exchanging = false ∧ (t.core c).frozen = 4) ∧ (c ≠ p → c ≠ q → t.core c = s.core c)) ∧
      (t.teams = s.teams ∧ t.fabric = s.fabric ∧ t.cur = s.cur ∧ t.rest = s.rest ∧ (t.core p).mq = (s.core p).mq ∧ (t.core q).mq = (s.core q).mq ∨
       (let other := fun c : Nat => if c = p then q else if c = q then p else c
        let moves := fun x : Thread => (s.teamD x.id.grid x.id.team).core = some p ∨ (s.teamD x.id.grid x.id.team).core = some q
        let go := fun x : Thread => if moves x then { x with core := other x.core } else x
        t.teams = s.teams.map (fun y => { y with core := y.core.map other }) ∧ t.cur = go s.cur ∧ t.rest = s.rest.map go ∧
        (t.core p).mq = (s.core q).mq ∧ (t.core q).mq = (s.core p).mq ∧
        (∀ c, c = p ∨ c = q → (t.core c).forwardSince = some s.cycle ∧ ∃ x, (t.core c).committed = some x ∧ x.cycle = s.cycle ∧ x.mq = (t.core c).mq) ∧
        t.fabric = s.fabric.map fun r => { r with misrouted := r.misrouted || s.toMoved p q r })) ∧
      t = { s with
        teams := t.teams, cores := t.cores, exchanges := s.exchanges.filter (· != (p, q)), fabric := t.fabric, cur := t.cur, rest := t.rest
        oracle := t.oracle, fresh := t.fresh }) ∧
    (∀ p q, let ends := ∃ y ∈ s.teams, (y.core = some p ∨ y.core = some q) ∧ s.ending y.grid = true
      ((p, q) ∉ s.exchanges ∨ ¬ ends ∧ (s.stoppedFor p = false ∨ s.stoppedFor q = false) → exec (.exchange p q) s = .next s) ∧
      (p ≠ q → (p, q) ∈ s.exchanges → ends → ∃ t, exec (.exchange p q) s = .next t ∧
        t = { s with cores := t.cores, exchanges := s.exchanges.filter (· != (p, q)) } ∧
        ∀ c, t.core c = if c = p ∨ c = q then { s.core c with exchanging := false, frozen := 4 } else s.core c)) ∧
    (∀ c since, (s.core c).forwardSince = some since → since.toNat + 65536 ≤ s.cycle.toNat → (∀ r ∈ s.fabric, r.misrouted = false) →
      OnlyCore (.forwardingWithdraw c) s c { s.core c with forwardSince := none })

/-- R262–R265, R327: the chunk that has run its 512 turns, or whose thread has faulted, is committed: what it wrote is written, once no
running reach program holds it (R294), also where it leaves the value, and what others wrote elsewhere stays; then its other effects one by one in program order; then its threads go
on, and the next team's chunk follows. That chunks run one after another is the model's choice (log entry 14), and so is the cycle with
which a task pushed in a chunk is stamped (log entry 62). -/
def Obligations.ChunksAreCommittedWhole : Prop :=
  ∀ (s : State) (gn : Nat) (g : Grid), s.grid? gn = some g → (s.grids.map (·.num)).Nodup →
    let r := g.replay
    let put := fun (u : State) (f : Replay → Replay) =>
      ({ u with grids := u.grids.map fun (y : Grid) => if y.num = gn then { y with replay := f y.replay } else y } : State)
    (∀ x : Apart, r.apart = some x → r.committing = false →
      ((r.turn = 512 ∨ g.faults ≠ []) → s.reachHolds x = false → ∃ t, exec (.inningsCommit gn) s = .next t ∧
        (let stored := fun k => (∃ w ∈ x.writes, w.1 ≤ k ∧ k < w.1 + w.2) ∨ Memory.get x.mem k ≠ Memory.get x.mem0 k
         Memory.wf s.mem = true → ∀ k, (stored k → t.byte k = Memory.get x.mem k) ∧ (¬ stored k → t.byte k = s.byte k)) ∧
        (∀ k, t.isFull k = if k / 8 ∈ x.empty ∧ k / 8 ∉ x.empty0 then false else if k / 8 ∉ x.empty ∧ k / 8 ∈ x.empty0 then true else s.isFull k) ∧
        (let kept := x.keep.map fun y => { y with id := s.fresh + y.id - (x.keep.headD y).id }
         s.fresh ≤ t.fresh ∧ (∀ y ∈ kept, y.id < t.fresh) ∧
         t = { put s (fun y => { y with apart := none, committing := true, commitAt := s.cycle }) with
           mem := t.mem, empty := t.empty, keepPending := s.keepPending ++ kept, fresh := t.fresh })) ∧
      (r.turn ≠ 512 ∧ g.faults = [] ∨ s.reachHolds x = true → exec (.inningsCommit gn) s = .next s)) ∧
    (∀ d rest, r.committing = true → r.deferred = d :: rest →
      (∀ l k, d = .push l k → exec (.inningsCommit gn) s = .next { put s (fun y => { y with deferred := rest }) with
        teams := s.teams.map fun q => if q.grid = gn ∧ q.lteam = l then
          { q with deque := q.deque ++ [{ k with stamp := g.start + BitVec.ofNat 64 (512 * r.innings + r.turn) }] } else q }) ∧
      (∀ core who v, d = .bank core who v → ∃ t, exec (.inningsCommit gn) s = .next t ∧
        BankIs s t (clusterOf core) ((s.bank (clusterOf core)).write v) ∧ t = { put s (fun y => { y with deferred := rest }) with banks := t.banks }) ∧
      (∀ who x, (d = .pfence who true ∨ ∃ loc, d = .publ who loc) → s.thread? who = some x → (x.cntC ≠ 0 ∨ x.cntM ≠ 0) → g.faults = [] →
        exec (.inningsCommit gn) s = .next s) ∧
      (∀ who kind fpc ops id p x, d = .copy who kind fpc ops id p → s.thread? who = some x → g.faults = [] →
        32 ≤ (s.copies.filter fun c => c.cluster == clusterOf x.core).length → exec (.inningsCommit gn) s = .next s)) ∧
    (r.committing = true → r.deferred = [] → (r.team < bits g.desc.shape 12 0 ∨ ∀ n < 8, g.sweeps n = false) → (∀ f ∈ s.fs, f.inRing = true) →
      let go := fun y : Thread => if y.id.grid = gn ∧ y.id.team = r.team ∧ y.wait = .commit then goesOn y else y
      exec (.inningsCommit gn) s = .next { put s (fun y => { y with
          turn := 0, committing := false
          team := if r.team < bits g.desc.shape 12 0 then r.team + 1 else 0
          innings := if r.team < bits g.desc.shape 12 0 then r.innings else r.innings + 1 }) with
        cur := go s.cur, rest := s.rest.map go })

namespace Sys2Proof.Claims

/-! ### Queues -/

/-- A queue changed and no other. -/
def QueueIs (s t : State) (q : Nat) (k : Queue) : Prop := t.queue q = k ∧ ∀ d, d ≠ q → t.queue d = s.queue d

/-- One queue changed, and nothing else. -/
def OnlyQueue (i : Instr) (s : State) (q : Nat) (k : Queue) : Prop :=
  ∃ t, exec i s = .next t ∧ QueueIs s t q k ∧ t = { s with queues := t.queues }

/-- The 8-byte word at a key. -/
def wordAt (s : State) (a : Nat) : Nat := bytesAt s a 8

/-- The address [52:8] of a link (R252). -/
def linkOf (v : Nat) : Nat := v / 2 ^ 8 % 2 ^ 45 * 2 ^ 8

/-- No word that `n` bytes from `a` touch holds an error, of one bit or uncorrectable, and their homes answer (R344, R345, R355). -/
def NoError (s : State) (a n : Nat) : Prop := (∀ o < n, s.poisoned (a + o) 8 = false) ∧ NothingToCorrect s a n

/-- The queue stands at an entry of a kind, at `a`, which the referee may consume as far as its BAR goes: enabled, nothing of it held, no
wait-value entry pending, none that stops the queue under way, nothing it reads in error (R252, R253, R256, R274, R320, R345). -/
def AtEntry (s : State) (q kind a : Nat) : Prop :=
  let x := s.queue q
  let h := wordAt s a
  s.powered = true ∧ x.en = true ∧ x.pos = a ∧ a ≠ 0 ∧ x.held = [] ∧ (∀ g ∈ s.grids, g.queue = q → g.held = []) ∧ x.waitKind = none ∧
  (∀ e ∈ x.entries, (e.done = false → e.kind ≠ 3) ∧ (e.old = false → e.stops = false)) ∧
  1 ≤ kind ∧ kind ≤ 5 ∧ h % 16 = kind ∧
  (h / 2 ^ 4 % 2 = 1 ∨ kind = 2 ∨ kind = 3 ∨ kind = 4 → ∀ e ∈ x.entries, e.done = true) ∧
  NoError s a 192

/-- NDEP, and dependence `j`: its queue and the number it waits for (R253). -/
def ndepOf (s : State) (a : Nat) : Nat := wordAt s a / 2 ^ 8 % 8
def depOf (s : State) (a j : Nat) : Nat × Nat := let d := wordAt s (a + 16 + 8 * j); (d % 2 ^ 16, d / 2 ^ 16)

/-- R320 rejects the dependences: more than four, or one on a queue that is none. -/
def DepsRejected (s : State) (a : Nat) : Prop := 4 < ndepOf s a ∨ ∃ j < ndepOf s a, 2048 ≤ (depOf s a j).1

/-- The dependences are met: each queue's sequence word has reached the number (R253). -/
def DepsMet (s : State) (a : Nat) : Prop :=
  ∀ j < min (ndepOf s a) 4, (depOf s a j).2 ≤ wordAt s ((s.queue ((depOf s a j).1 % 2048)).seq.toNat / 2 ^ 3 % 2 ^ 50 * 8)

/-- The queue stands at a legal entry of a kind, its dependences met. -/
def Stands (s : State) (q kind a : Nat) : Prop :=
  AtEntry s q kind a ∧ wordAt s a / 2 ^ 5 % 8 = 0 ∧ wordAt s a / 2 ^ 11 = 0 ∧ ¬ DepsRejected s a ∧ DepsMet s a

/-- The step of a kind of entry (R256). -/
def entryStep (q : Nat) : Nat → Instr
  | 1 => .launchEntry q
  | 2 => .graphEntry q
  | 3 => .waitValueEntry q
  | 4 => .signalEntry q
  | _ => .copyEntry q

/-- An entry as consumed (R254). -/
def entryOf (s : State) (q kind : Nat) (done : Bool) (status cause : Nat) : QEntry :=
  { id := s.fresh, num := (s.queue q).number + 1, old := false, addr := (s.queue q).pos, kind := kind, grid := 0, done := done
    status := status, cause := cause, written := false, stops := cause == 0x32 }

/-- The entry consumed: it has the next number, the queue goes on to the address in `link`, its grids are live (R254, R323). -/
def Consumed (s u : State) (q kind link : Nat) (done : Bool) (status cause : Nat) : Prop :=
  let x := s.queue q
  QueueIs s u q { x with
    number := x.number + 1, entries := x.entries ++ [entryOf s q kind done status cause], pos := linkOf (wordAt s link), link := link
    passed := false } ∧
  u = { s with queues := u.queues, fresh := s.fresh + 1, grids := s.grids.map fun g => if g.queue = q then { g with live := true } else g }

/-- The word at offset 64 + 8 j of an entry. -/
def bodyWord (s : State) (a j : Nat) : Word := BitVec.ofNat 64 (wordAt s (a + 64 + 8 * j))

/-- Nothing keeps the referee from the word at a key: no home holds it, it has no error, it is not in the keep region; no data cache
holds an error, and no replay-mode turn is under way. -/
def Reachable (s : State) (k : Nat) : Prop :=
  s.engineHeld k = false ∧ NoError s k 8 ∧ isKeep k = false ∧ CachesClean s ∧ s.chunkWrites = none

/-- A word written by the referee at its home (R61, R256): no cache keeps a copy of its line. -/
def Signalled (s t : State) (k v : Nat) : Prop :=
  Stored s t k 8 v ∧ (∀ w, w ∈ t.poison → w ∈ s.poison) ∧
  (∀ w, w ∈ t.soft → w ∈ s.soft) ∧
  t = { s with mem := t.mem, empty := t.empty, poison := t.poison, soft := t.soft, lines := linesBut s k 8 }

/-- The record that an outstanding fault-service request leaves once it is answered. -/
def answeredFs (s : State) (tok : Nat) : State := { s with fs := s.fs.filter (·.token != tok) }

end Sys2Proof.Claims

/-- R252, R288, R55, R274, R289, R362: what a write of each queue and fault-service register does, and the end of an invalidation. -/
def Obligations.QueueRegistersActWhenWritten : Prop :=
  ∀ (s : State) (q : Nat) (v : Word),
    let x := s.queue q
    (x.pos = 0 → x.link ≠ 0 → NoError s x.link 8 → OnlyQueue (.qtailDoorbell q v) s q { x with pos := linkOf (wordAt s x.link) }) ∧
    (x.pos ≠ 0 ∨ x.link = 0 → exec (.qtailDoorbell q v) s = .next s) ∧
    (x.en = false → OnlyQueue (.queueEnable q v) s q { x with
      en := true, prio := BitVec.ofNat 3 (v.toNat / 2), sirq := v.getLsbD 4, pos := linkOf x.head.toNat, link := 0, number := 0, seqDone := 0
      passed := false, entries := x.entries.map fun e => { e with old := true } }) ∧
    (x.en = true → OnlyQueue (.queueEnable q v) s q { x with prio := BitVec.ofNat 3 (v.toNat / 2), sirq := v.getLsbD 4 }) ∧
    OnlyQueue (.queueDisable q v) s q { x with en := false, prio := BitVec.ofNat 3 (v.toNat / 2), sirq := v.getLsbD 4 } ∧
    OnlyQueue (.qlatWrite q v) s q { x with lat := BitVec.ofNat 32 v.toNat } ∧
    OnlyQueue (.invalidationCommand q v) s q { x with invl := BitVec.ofNat 36 v.toNat, invBusy := true, invUpto := s.fresh } ∧
    (let lo := x.inva.toNat / 2 ^ 16 % 2 ^ 36 * 65536
     let hi := lo + x.invl.toNat * 65536
     let inside := fun t : TlbEntry => t.queue == x.num && decide (t.base < hi) && decide (lo < t.base + t.size)
     x.invBusy = true → (∀ t ∈ s.tlb, inside t = true → s.usesTranslation t = false) →
     ∃ t, exec (.invalidationComplete q) s = .next t ∧ QueueIs s t q { x with invBusy := false } ∧
       t = { s with queues := t.queues, tlb := s.tlb.filter fun e => !inside e }) ∧
    (∀ k, exec (.cpbRelease k) s = .next (hitsSet { s with
      queues := s.queues.map fun y => if k ∈ y.held then { y with held := [] } else y
      grids := s.grids.map fun g => if k ∈ g.held then { g with held := [] } else g })) ∧
    (let h : HostRegs := { s.host with fsqSize := BitVec.ofNat 12 v.toNat, fsqHead := BitVec.ofNat 12 (v.toNat / 2 ^ 16) }
     ((∀ r ∈ s.fs, r.inRing = true) → exec (.fsqptrWrite v) s = .next { s with host := h }) ∧
     (∀ pre r post, s.fs = pre ++ r :: post → (∀ y ∈ pre ++ post, y.inRing = true) → r.inRing = false → (s.gridD r.tid.grid).replay.apart = none → 2 ≤ h.fsqSize.toNat →
       (h.fsqTail.toNat + 1) % h.fsqSize.toNat ≠ h.fsqHead.toNat → ∃ t, exec (.fsqptrWrite v) s = .next t ∧
       (let base := h.fsqbase.toNat / 2 ^ 5 % 2 ^ 48 * 32 + 32 * h.fsqTail.toNat
        let irq := h.irqaddr.toNat / 2 ^ 2 % 2 ^ 51 * 4
        let words := [r.va.toNat, r.tid.grid + r.tid.team * 2 ^ 15 + r.tid.thread * 2 ^ 28 + r.kind * 2 ^ 31,
          r.queue + r.token % 2 ^ 32 * 2 ^ 32, r.cycle.toNat]
        Memory.wf s.mem = true → ∀ y, t.byte y =
          if irq ≤ y ∧ y < irq + 4 then BitVec.ofNat 8 ((2 + r.queue % 2048 * 256) / 256 ^ (y - irq))
          else if base ≤ y ∧ y < base + 32 then byteOfWords words base y else s.byte y) ∧
       t = { s with
        mem := t.mem, poison := t.poison, soft := t.soft, lines := t.lines, fs := pre ++ { r with inRing := true } :: post
        host := { h with fsqTail := BitVec.ofNat 12 ((h.fsqTail.toNat + 1) % h.fsqSize.toNat) } }))

/-- R252–R256, R237, R320: a launch entry queues its grid, or is rejected, or is held by the breakpoints that match it; a copy entry starts
its copy, or is rejected; an entry of no kind, or with a header that R320 refuses, is rejected; each takes its number and the queue goes on
to NEXT. That no grid has the number 0 is log entry 11, that a region table can be refused log entry 73 (DESIGN CHOICE both). -/
def Sys2Proof.Claims.EntriesLaunchAndCopy : Prop :=
  ∀ (s : State) (q a : Nat),
    (Stands s q 1 a →
      let d := Descriptor.ofWords ((List.range 16).map (bodyWord s a))
      (s.queue q).passed = true ∨ s.host.breakpoints d.entry q = [] →
      (¬ ReservedSet d → FieldRefused d → ∃ t, exec (.launchEntry q) s = .next t ∧ Consumed s t q 1 (a + 8) true 5 0x33) ∧
      (∀ regions windows v w, ¬ FieldRefused d → s.entryTable q d.mregp 16 (List.replicate 8 (0, 0x280000000000)) = (.ok regions, v) →
        v.entryTable q d.dwin 8 [] = (.ok windows, w) →
        ((∃ k, LaunchRefused none d regions windows k) → ∃ t, exec (.launchEntry q) s = .next t ∧ Consumed w t q 1 (a + 8) true 5 0x33) ∧
        ((∀ k, ¬ LaunchRefused none d regions windows k) → d.capacity < d.shape.toNat % 2 ^ 13 + 1 →
          ∃ t, exec (.launchEntry q) s = .next t ∧ Consumed w t q 1 (a + 8) true 5 0x36) ∧
        ((∀ k, ¬ LaunchRefused none d regions windows k) → d.shape.toNat % 2 ^ 13 + 1 ≤ d.capacity → w.grids.length < 32767 →
          ∃ t u g, exec (.launchEntry q) s = .next t ∧ Consumed w u q 1 (a + 8) false 0 0 ∧
            1 ≤ g.num ∧ g.num ≤ 32767 ∧ (∀ x ∈ w.grids, x.num ≠ g.num) ∧
            g = { Grid.vacant with
              num := g.num, queue := q, prio := (w.queue q).prio.toNat, desc := d, regions := regions
              windows := windows.filterMap DWindow.ofEntry, readyAt := w.cycle, consumed := w.cycle, entry := some (q, w.fresh) } ∧
            t = { u with oracle := t.oracle, fresh := t.fresh, grids := u.grids ++ [g] }))) ∧
    (Stands s q 1 a →
      let d := Descriptor.ofWords ((List.range 16).map (bodyWord s a))
      (ReservedSet d → ∃ t, exec (.launchEntry q) s = .next t ∧ Consumed s t q 1 (a + 8) true 5 0x31) ∧
      ∀ ks, ¬ ReservedSet d → (s.queue q).passed = false → s.host.breakpoints d.entry q = ks → ks ≠ [] →
      ∃ t u, exec (.launchEntry q) s = .next t ∧ QueueIs s u q { s.queue q with held := ks, passed := true } ∧
        u = hitsSet { s with queues := u.queues } ∧ t = u.interrupt 3 q) ∧
    (∀ entry k, k ∈ s.host.breakpoints entry q ↔ k < 4 ∧
      let c := s.host.cpbc.getD k 0
      c.getLsbD 16 = true ∧ (c.getLsbD 17 = true ∨ c.getLsbD 18 = true) ∧
      (c.getLsbD 17 = true → (s.host.cpba.getD k 0).toNat / 2 ^ 3 % 2 ^ 53 = entry.toNat / 2 ^ 3 % 2 ^ 53) ∧
      (c.getLsbD 18 = true → c.toNat % 2 ^ 11 = q)) ∧
    (∀ kind, AtEntry s q kind a → DepsRejected s a ∨ DepsMet s a ∧ (wordAt s a / 2 ^ 5 % 8 ≠ 0 ∨ wordAt s a / 2 ^ 11 ≠ 0) →
      ∃ t, exec (entryStep q kind) s = .next t ∧ Consumed s t q kind (a + 8) true 5 0x31) ∧
    (Stands s q 5 a →
      let ops := (List.range 6).map (bodyWord s a)
      let n := (bodyWord s a 2).toNat
      let m := (bodyWord s a 3).toNat
      let views := viewOf (bodyWord s a 0) < 6 ∧ viewOf (bodyWord s a 1) < 6
      (2 ^ 20 < n ∨ 2 ^ 16 < m ∨ ¬ views → ∃ t, exec (.copyEntry q) s = .next t ∧ Consumed s t q 5 (a + 8) true 5 0x34) ∧
      (views → n ≤ 2 ^ 20 → m ≤ 2 ^ 16 → n = 0 ∨ m = 0 → ∃ t, exec (.copyEntry q) s = .next t ∧ Consumed s t q 5 (a + 8) true 0 0) ∧
      (views → n ≤ 2 ^ 20 → m ≤ 2 ^ 16 → n ≠ 0 → m ≠ 0 → (∃ c < 1024, (s.copies.filter (·.cluster == c)).length < 32) →
        ∃ t u v cl, exec (.copyEntry q) s = .next t ∧ v = { s with oracle := v.oracle, fresh := v.fresh } ∧
          Consumed v u q 5 (a + 8) false 0 0 ∧ cl < 1024 ∧ (s.copies.filter (·.cluster == cl)).length < 32 ∧
          t = { u with
            fresh := u.fresh + 1
            copies := s.copies ++ [{
              id := u.fresh, kind := 0, tid := ⟨0, 0, 0⟩, grid := 0, core := 8192, cluster := cl, ops := ops, next := 0, writes := [], promise := 0
              missed := false, paused := none, untilTret := false, counted := false, fpc := 0, upto := 0, entry := some (q, v.fresh) }] })) ∧
    (s.mayConsume q = true → (s.queue q).pos = a → wordAt s a % 16 = 0 ∨ 5 < wordAt s a % 16 → NoError s a 192 →
      ∃ t, exec (.illegalKindEntry q) s = .next t ∧ Consumed s t q (wordAt s a % 16) (a + 8) true 5 0x30)

/-- R256, R257, R320: a graph entry goes on to the target that its word chooses, a loop counts it down; a wait-value entry waits for its
word; a signal entry writes its word; each is rejected for a bad OP, or a word that it cannot reach. -/
def Sys2Proof.Claims.EntriesChooseWaitAndSignal : Prop :=
  ∀ (s : State) (q a k : Nat) (v : State),
    let ea := effAddr (bodyWord s a 0) 0
    let placed := viewOf ea < 6 ∧ locOf ea % 8 = 0
    let legal := placed ∧ Reachable v k
    let unreachable := fun w : Bool => placed ∧ ((∃ c d va, s.engineCheck (.queue q) ea 8 w = (.fault c d va, v) ∧ c ≠ 0x1A) ∨
      (∃ va, s.engineCheck (.queue q) ea 8 w = (.absent va, v)))
    let rejected := fun (u : State) (kind cause : Nat) => ∃ t, exec (entryStep q kind) s = .next t ∧ Consumed u t q kind (a + 8) true 5 cause
    (Stands s q 2 a →
      let op := (bodyWord s a 1).toNat
      let n := op / 2 ^ 8 % 16
      let bad := op % 4 = 3 ∨ op / 2 ^ 2 % 2 ^ 6 ≠ 0 ∨ op / 2 ^ 12 ≠ 0 ∨ op % 4 = 2 ∧ (n = 0 ∨ n = 15)
      (bad ∨ ¬ placed → rejected s 2 0x32) ∧ (¬ bad → unreachable (op % 4 == 1) → rejected v 2 0x32)) ∧
    (∀ kind, kind = 3 ∨ kind = 4 → Stands s q kind a →
      let bad := (if kind = 3 then 3 else 2) < (bodyWord s a 2).toNat
      (bad → rejected s kind 0x31) ∧ (¬ bad → ¬ placed → rejected s kind 0x35) ∧ (¬ bad → unreachable (kind == 4) → rejected v kind 0x35)) ∧
    (let op := (bodyWord s a 1).toNat
     let n := op / 2 ^ 8 % 16
     legal → Stands s q 2 a → op % 4 ≠ 3 → op / 2 ^ 2 % 2 ^ 6 = 0 → op / 2 ^ 12 = 0 → (op % 4 = 2 → 1 ≤ n ∧ n ≤ 14) →
     s.engineCheck (.queue q) ea 8 (op % 4 == 1) = (.ok [k], v) →
     ∃ t u, exec (.graphEntry q) s = .next t ∧
       (let w : BitVec 64 := BitVec.ofNat 64 (wordAt v k)
        let target := match op % 4 with | 0 => (if w = 0 then 0 else 1) | 1 => (if 0 < w.toInt then 1 else 0) | _ => min w.toNat (n - 1)
        Consumed u t q 2 (a + 80 + 8 * target) true 0 0 ∧
        (if op % 4 = 1 ∧ 0 < w.toInt then Signalled v u k (w.toNat - 1) ∧ u.empty = v.empty else u = v))) ∧
    (let op := (bodyWord s a 2).toNat
     let x := bodyWord s a 1
     let met := fun w : Nat => match op with | 0 => w == x.toNat | 1 => decide (x.toNat ≤ w) | 2 => w != x.toNat | _ => w &&& x.toNat != 0
     legal → Stands s q 3 a → op ≤ 3 → s.engineCheck (.queue q) ea 8 false = (.ok [k], v) →
     v.walkErrorKey q (locOf ea) = none → v.keyIn (.queue q) (locOf ea) = some k →
     ∃ t u, exec (.waitValueEntry q) s = .next t ∧ Consumed v u q 3 (a + 8) false 0 0 ∧
       t = { u with queues := t.queues } ∧
       QueueIs u t q (if met (wordAt v k) then
           { u.queue q with polledAt := s.cycle, entries := (u.queue q).entries.map fun e => if e.kind = 3 ∧ e.done = false then { e with done := true, status := 0, cause := 0 } else e }
         else { u.queue q with waitKind := some (BitVec.ofNat 64 (locOf ea), x, op), polledAt := s.cycle })) ∧
    (∀ loc x op, (s.queue q).waitKind = some (loc, x, op) → s.keyIn (.queue q) loc.toNat = some k → Reachable s k →
     let met := fun w : Nat => match op with | 0 => w == x.toNat | 1 => decide (x.toNat ≤ w) | 2 => w != x.toNat | _ => w &&& x.toNat != 0
     s.walkErrorKey q loc.toNat = none →
     OnlyQueue (.waitValuePoll q) s q (if met (wordAt s k) then
         { s.queue q with waitKind := none, entries := (s.queue q).entries.map fun e => if e.kind = 3 ∧ e.done = false then { e with done := true, status := 0, cause := 0 } else e }
       else { s.queue q with polledAt := s.cycle })) ∧
    (let op := (bodyWord s a 2).toNat
     let x := (bodyWord s a 1).toNat
     legal → Stands s q 4 a → op ≤ 2 → s.engineCheck (.queue q) ea 8 true = (.ok [k], v) →
     (op = 2 → ∀ r ∈ s.fabric, r.parked = true → ∀ p ∈ r.pieces, v.mapKey p.key / 8 ≠ k / 8) →
     ∃ t u, exec (.signalEntry q) s = .next t ∧ Consumed u t q 4 (a + 8) true 0 0 ∧
       Signalled v u k (if op = 1 then (wordAt v k + x) % 2 ^ 64 else x) ∧ FullAfter v u k (if op = 2 then some true else none))

/-- R254, R255: a completed entry leaves its record; the sequence word of its queue then rises to it, once every earlier entry has
completed. -/
def Obligations.CompletedEntriesAreRecordedInOrder : Prop :=
  ∀ (s : State) (q : Nat) (e : QEntry),
    let x := s.queue q
    let seq := x.seq.toNat / 2 ^ 3 % 2 ^ 50 * 8
    let irq := s.host.irqaddr.toNat / 2 ^ 2 % 2 ^ 51 * 4
    let words := [e.status + e.cause * 2 ^ 8 + e.grid * 2 ^ 16 + 2 ^ 31 + e.num % 2 ^ 32 * 2 ^ 32, s.cycle.toNat]
    e ∈ x.entries → e.done = true → e.written = false → e.old = false → (x.entries.map (·.id)).Nodup →
    (∀ y ∈ x.entries, y.num = e.num → y = e) → CachesClean s → s.chunkWrites = none →
    (∀ b, e.addr + 48 ≤ b ∧ b < e.addr + 64 ∨ seq ≤ b ∧ b < seq + 8 → isKeep b = false) →
    (e.num ≠ x.seqDone + 1 → (∀ y ∈ x.entries, y.num = x.seqDone + 1 → y.old = true ∨ y.done = false ∨ y.written = false) →
      ∃ t, exec (.entryComplete q e.num) s = .next t ∧
      (Memory.wf s.mem = true → ∀ b, t.byte b = if e.addr + 48 ≤ b ∧ b < e.addr + 64 then byteOfWords words (e.addr + 48) b else s.byte b) ∧
      QueueIs s t q { x with en := x.en && !e.stops, entries := x.entries.map fun y => if y.id = e.id then { y with written := true } else y } ∧
      (∀ w, w ∈ t.poison → w ∈ s.poison) ∧ (∀ w, w ∈ t.soft → w ∈ s.soft) ∧ (∀ l, l ∈ t.lines → l ∈ s.lines) ∧
      t = { s with mem := t.mem, poison := t.poison, soft := t.soft, lines := t.lines, queues := t.queues }) ∧
    (e.num = x.seqDone + 1 → (∀ y ∈ x.entries, y.num = e.num + 1 → y.old = true ∨ y.done = false ∨ y.written = false) →
      ∃ t, exec (.entryComplete q e.num) s = .next t ∧
      (Memory.wf s.mem = true → ∀ b, t.byte b =
        if x.sirq = true ∧ irq ≤ b ∧ b < irq + 4 then BitVec.ofNat 8 ((1 + q % 2048 * 256) / 256 ^ (b - irq))
        else if seq ≤ b ∧ b < seq + 8 then BitVec.ofNat 8 (e.num / 256 ^ (b - seq))
        else if e.addr + 48 ≤ b ∧ b < e.addr + 64 then byteOfWords words (e.addr + 48) b else s.byte b) ∧
      QueueIs s t q { x with en := x.en && !e.stops, seqDone := e.num, entries := x.entries.filter (·.id != e.id) } ∧
      (∀ w, w ∈ t.poison → w ∈ s.poison) ∧ (∀ w, w ∈ t.soft → w ∈ s.soft) ∧ (∀ l, l ∈ t.lines → l ∈ s.lines) ∧
      t = { s with mem := t.mem, poison := t.poison, soft := t.soft, lines := t.lines, queues := t.queues })

/-- R289, R310, R311, R337, R339: the reply to a fault-service record lets what waits go on, traps its thread, or ends its grid. That
after a join which seeks a task TPC names the join's bundle is log entry 61, and what is kept of a bundle issued in part log entry 65 (DESIGN
CHOICE both). -/
def Obligations.FaultServiceRepliesAct : Prop :=
  ∀ (s : State) (f : FsRec) (x : Thread), s.fs.find? (·.token == f.token) = some f → s.thread? f.tid = some x → f.tid.grid ≠ 0 →
    let u := answeredFs s f.token
    (∀ tok, f.who = .thread f.tid → x.wait = .service tok →
      ∃ t, exec (.fsreplyRetry f.token) s = .next t ∧ t.thread? f.tid = some { x with wait := .running } ∧
        (∀ z, z ≠ f.tid → t.thread? z = s.thread? z) ∧ t = { u with cur := t.cur, rest := t.rest }) ∧
    (∀ tok, (f.who = .thread f.tid ∨ ∃ c, f.who = .seek f.tid c) → x.wait = .service tok →
      (bits x.tstat 9 9 = 0 → bits x.tvec 55 3 ≠ 0 → ∃ t, exec (.fsreplyTrap f.token) s = .next t ∧
        t.thread? f.tid = some { x with
          wait := .running, tpc := x.pc, tcause := 1, tval := f.va, tstat := setBits x.tstat 9 9 1, pc := BitVec.ofNat 64 (bits x.tvec 55 3 * 8)
          half := none, outer := x.half } ∧
        (∀ z, z ≠ f.tid → z.grid ≠ 0 → t.thread? z = s.thread? z) ∧ t = { u with cur := t.cur, rest := t.rest, aborted := false })) ∧
    (∀ tok since, f.who = .seek f.tid since → x.wait = .service tok →
      (∃ t, exec (.fsreplyRetry f.token) s = .next t ∧ t.thread? f.tid = some { x with wait := .next since } ∧
        (∀ z, z ≠ f.tid → t.thread? z = s.thread? z) ∧ t = { u with cur := t.cur, rest := t.rest })) ∧
    (∀ w, f.who = .replay f.tid → x.vreplay = some w →
      exec (.fsreplyRetry f.token) s = .next (onThread u f.tid fun y => { y with vreplay := y.vreplay.map fun v => { v with paused := none, untilTret := false } }) ∧
      exec (.fsreplyTrap f.token) s = .next (onThread u f.tid fun y => { y with
        vreplay := y.vreplay.map fun v => { v with paused := none, untilTret := true }, traps := ⟨1, f.va, s.cycle⟩ :: y.traps })) ∧
    (∀ n, f.who = .copy n →
      exec (.fsreplyRetry f.token) s = .next { u with
        copies := s.copies.map fun c => if c.id = n then { c with paused := none, untilTret := false } else c } ∧
      exec (.fsreplyTrap f.token) s = .next { onThread u f.tid (fun y => { y with traps := ⟨1, f.va, s.cycle⟩ :: y.traps }) with
        copies := s.copies.map fun c => if c.id = n then { c with paused := none, untilTret := true } else c }) ∧
    (∀ c n, f.who = .record c n →
      let go := fun (b : Bool) (r : MRec) => if r.id = n then { r with paused := none, untilTret := b } else r
      let all := fun (b : Bool) (y : State) => { y with
        cores := s.cores.map fun k => { k with mq := k.mq.map (go b) }, teams := s.teams.map fun k => { k with savedMq := k.savedMq.map (go b) } }
      exec (.fsreplyRetry f.token) s = .next (all false u) ∧
      exec (.fsreplyTrap f.token) s = .next (all true (onThread u f.tid fun y => { y with traps := ⟨1, f.va, s.cycle⟩ :: y.traps }))) ∧
    (∀ pc, (match f.who with
        | .thread _ => pc = x.pc
        | .seek _ _ => pc = x.pc
        | .replay _ => ∃ v, x.vreplay = some v ∧ pc = v.fpc
        | .record _ n => ∃ r, (s.cores.flatMap (·.mq) ++ s.teams.flatMap (·.savedMq)).find? (·.id == n) = some r ∧ pc = r.fpc
        | .copy n => ∃ c, s.copies.find? (·.id == n) = some c ∧ pc = c.fpc) →
      let r : FaultRec := ⟨s.cycle, true, f.tid.team, f.tid.thread, 4, 0, 0, pc, 0⟩
      exec (.fsreplyEnd f.token) s = .next (onThread (onGridNo u f.tid.grid fun g => if ∀ y ∈ g.faults, y.cycle = s.cycle then
        { g with faults := g.faults ++ [r], nfault := min (g.nfault + 1) 65535 } else g) f.tid fun y => { y with wait := .faulted }))

/-- R237, R252–R257, R320: the parts above together. -/
def Obligations.EntriesLaunchCopyChooseWaitAndSignal : Prop := EntriesLaunchAndCopy ∧ EntriesChooseWaitAndSignal

namespace Sys2Proof.Claims

/-! ### Debug blocks, base dies, device registers -/

/-- Bytes `x` from `a` on come from a list. -/
def byteOfList (l : List Byte) (a x : Nat) : Byte := l.getD (x - a) 0

/-- The registers of R118. -/
def isSysNumber (m : Nat) : Bool :=
  (decide (m ≤ 0x006)) || m == 0x008 || m == 0x009 || (decide (0x010 ≤ m) && decide (m ≤ 0x013)) || m == 0x020 || m == 0x021 ||
  (decide (0x030 ≤ m) && decide (m ≤ 0x03F)) || m == 0x040 || m == 0x041 || m == 0x0F0

/-- Item and index of the 8 bytes that `DSEL` selects of a thread (R292), with what they hold. -/
def ItemHolds (s : State) (x : Thread) (item idx : Nat) (v : Word) : Prop :=
  (∃ r : Reg, item = r.toNat ∧ idx = 0 ∧ v = x.reg r) ∨ (item = 0x10 ∧ idx = 0 ∧ v = x.pc) ∨
  (∃ m, item = 0x100 + m ∧ m < 0x100 ∧ idx = 0 ∧ isSysNumber m = true ∧ (m = 0x0F0 → (s.gridD x.id.grid).desc.flag 9 = true) ∧
    v = (s.focus x.id).sysreg m) ∨
  (∃ n : BitVec 3, item = 0x200 + n.toNat ∧ (x.freg n).image[idx]? = some v) ∨
  (∃ n y, item = 0x300 + n ∧ n < 16 ∧ (s.teamD x.id.grid x.id.team).tiles[n]? = some y ∧ idx < 2048 ∧
    v = BitVec.ofNat 64 ((y.rows[idx / 32 % 64]'(Nat.mod_lt _ (by decide))).toNat / 2 ^ (64 * (idx % 32)))) ∨
  (∃ n y, item = 0x310 + n ∧ n < 16 ∧ (s.teamD x.id.grid x.id.team).tiles[n]? = some y ∧ idx = 0 ∧
    v.toNat = y.type.toNat + 4 * y.valid.toNat + 8 * y.ovf.toNat) ∨
  (item = 0x400 ∧ 8 * idx < (s.teamD x.id.grid x.id.team).tcm ∧
    v.toNat = wordAt s (s.mapKey (tcmKey x.id.grid x.id.team (8 * idx))))

/-- The thread that `DSEL` of a cluster selects. -/
def selected (s : State) (cl : Nat) : Option Thread :=
  let d := (s.cluster cl).dsel.toNat
  s.inSlot (coreAt cl (d % 8)) (d / 8 % 8)

/-- One reach block changed, and nothing else. -/
def OnlyReach (i : Instr) (s : State) (n : Nat) (k : Reach) : Prop :=
  ∃ t, exec i s = .next t ∧ t.reachOf n = k ∧ (∀ d, d ≠ n → t.reachOf d = s.reachOf d) ∧ t = { s with reach := t.reach }

/-- The key of byte `a` of a stack (R287). -/
def stackByte (s : State) (st a : Nat) : Nat :=
  s.host.pkgnum.toNat * 2 ^ 40 + 4096 * (a / 4096 * s.host.nstacks + st) + a % 4096

/-- The stack holds `n` bytes from 64 · ADR, aligned to `n`, and its link is up (R286, R293, R355). -/
def StackHolds (s : State) (st adr n : Nat) : Prop :=
  st < s.host.nstacks ∧ 64 * adr + n ≤ [24, 36, 48, 64].getD s.host.cap 0 * 2 ^ 30 ∧ 256 * st ∉ s.linksDown ∧ 64 * adr % n = 0

/-- A command answers with a response, `u` being the machine but for that. -/
def Answers (i : Instr) (s u : State) (st tag : Nat) (error : Bool) (data : List Byte) (b : List Bool) : Prop :=
  exec i s = .next { u with
    nolend := (s.nolend.filter fun x => !(x.stack == st && x.tag == tag % 256)) ++ [⟨st, tag % 256, error, data, b⟩] }

/-- A unit of 64 bytes of DRAM, or of 32 of the keep region, under a code of its own (R344), with the word of an error in it, and `n` bytes
from a key have a byte in common. -/
def unitMeets (k n w : Nat) : Bool :=
  decide (8 * w < 2 ^ 53) && decide (w * 8 / coded w * coded w < k + n) && decide (k < w * 8 / coded w * coded w + coded w)

/-- Some block that the bytes touch holds an uncorrectable error (R344, R355); an error in a line of a bank or of a data cache is none of
the base die's. -/
def BlockBad (s : State) (k n : Nat) : Bool := s.poison.any (unitMeets k n)

/-- No block that the bytes touch holds an error of one bit. -/
def BlockSound (s : State) (k n : Nat) : Prop := ∀ w ∈ s.soft, unitMeets k n w = false

/-- A read command of `n` bytes. -/
def ReadsBlock (i : Instr) (s : State) (st adr tag n : Nat) : Prop :=
  (¬ StackHolds s st adr n → Answers i s s st tag true [] []) ∧
  (StackHolds s st adr n →
    let k := stackByte s st (64 * adr)
    BlockSound s k n →
    Answers i s s st tag (BlockBad s k n) ((List.range n).map fun j => s.byte (k + j)) [])

/-- A write command of `n` bytes. -/
def WritesBlock (i : Instr) (s : State) (st adr tag n v : Nat) : Prop :=
  (¬ StackHolds s st adr n → Answers i s s st tag true [] []) ∧
  (StackHolds s st adr n → s.host.nstacks ≤ 8 → CachesClean s → s.chunkWrites = none →
    ∃ u, Answers i s u st tag false [] [] ∧ Stored s u (stackByte s st (64 * adr)) n v ∧
      (∀ w, w ∈ u.poison → w ∈ s.poison) ∧ (∀ w, w ∈ u.soft → w ∈ s.soft) ∧ (∀ l, l ∈ u.lines → l ∈ s.lines) ∧
      u = { s with mem := u.mem, poison := u.poison, soft := u.soft, lines := u.lines })

end Sys2Proof.Claims

/-- R269, R273, R292, R323: the host halts and resumes a cluster; a read through `DSEL` gives what the item holds, a write changes it
while the cluster is halted; an item that does not exist sets ERR. That HALT and RESUME are steps apart from the write that sets them,
that an access is complete at once and so never BUSY, and that `PHYS` of a grid without PRIV sets ERR, is the model's reading (log entry
19). -/
def Obligations.DebuggersHaltReadAndWrite : Prop :=
  ∀ (s : State) (cl : Nat),
    let c := s.cluster cl
    let item := c.dsel.toNat / 2 ^ 16 % 2 ^ 16
    let idx := c.dsel.toNat / 2 ^ 40
    (c.halted = false → ∃ t, exec (.debugHalt cl) s = .next t ∧
      ∃ u, ClusterIs s u cl { c with halted := true, why := 1, who := 0 } ∧ t = u.interrupt 7 cl) ∧
    (c.halted = true → exec (.debugHalt cl) s = .next s) ∧
    (c.halted = true → ∃ t, exec (.debugResume cl) s = .next t ∧
      (t.cluster cl = { c with halted := false, why := 0, who := 0 }) ∧ (∀ d, d ≠ cl → t.cluster d = s.cluster d) ∧
      t = { s with clusters := t.clusters, grids := s.grids.map fun g => if s.gridIn cl g.num then { g with placedSince := s.cycle } else g }) ∧
    (c.halted = false → exec (.debugResume cl) s = .next s) ∧
    (∀ x v, selected s cl = some x → ItemHolds s x item idx v → ∃ t, exec (.ddataRead cl) s = .next t ∧
      ClusterIs s t cl { c with
        ddata := v, dstat := if (s.core (coreAt cl (c.dsel.toNat % 8))).power = .shadowedOff then 3 else 1 }) ∧
    ((selected s cl = none ∨ ∃ x, selected s cl = some x ∧ ∀ v, ¬ ItemHolds s x item idx v) →
      ∃ t, exec (.ddataRead cl) s = .next t ∧ ClusterIs s t cl { c with dstat := 5 }) ∧
    (∀ v, c.halted = false → ∃ t, exec (.ddataWrite cl v) s = .next t ∧ ClusterIs s t cl { c with dstat := 5 + (c.dstat &&& 2) }) ∧
    (∀ x v, c.halted = true → selected s cl = some x →
      let done : Cluster := { c with dstat := 1 + (c.dstat &&& 2) }
      let thread := fun (f : Thread → Thread) => ∃ t, exec (.ddataWrite cl v) s = .next t ∧ t.cluster cl = done ∧
        (∀ w ∈ t.poison, w ∈ s.poison) ∧ (∀ w ∈ t.soft, w ∈ s.soft) ∧
        t = { onThread s x.id f with clusters := t.clusters, poison := t.poison, soft := t.soft }
      (∀ r : Reg, r ≠ 0 → item = r.toNat → idx = 0 → thread fun y => { y with regs := y.regs.set r.toNat v r.isLt }) ∧
      (item = 0x10 → idx = 0 → v.toNat % 8 = 0 → thread fun y => { y with pc := v, half := none }) ∧
      (∀ n : BitVec 3, item = 0x200 + n.toNat → 4 ≤ idx → idx < 4 + (x.freg n).coef.length →
        thread fun y => { y with fregs := y.fregs.set n.toNat { y.freg n with coef := (y.freg n).coef.set (idx - 4) v } n.isLt }) ∧
      (item = 0x400 → 8 * idx < (s.teamD x.id.grid x.id.team).tcm → ∃ t, exec (.ddataWrite cl v) s = .next t ∧ t.cluster cl = done ∧
        (let k := s.mapKey (tcmKey x.id.grid x.id.team (8 * idx))
         Stored s t k 8 v.toNat ∧ (NotShadowed s k → t.cores = s.cores)) ∧
        (∀ w ∈ t.poison, w ∈ s.poison) ∧ (∀ w ∈ t.soft, w ∈ s.soft) ∧
        t = { s with clusters := t.clusters, mem := t.mem, poison := t.poison, soft := t.soft, cores := t.cores }) ∧
      (∀ n y, n < 16 → item = 0x300 + n → idx < 2048 → (s.teamD x.id.grid x.id.team).tiles[n]? = some y →
        ∃ (t : State) (z : Tile), exec (.ddataWrite cl v) s = .next t ∧ t.cluster cl = done ∧
        (∀ u < 2048, (z.rows[u / 32 % 64]'(Nat.mod_lt _ (by decide))).toNat / 2 ^ (64 * (u % 32)) % 2 ^ 64 =
          if u = idx then v.toNat else (y.rows[u / 32 % 64]'(Nat.mod_lt _ (by decide))).toNat / 2 ^ (64 * (u % 32)) % 2 ^ 64) ∧
        z = { y with rows := z.rows, valid := false, sumBad := false } ∧
        t = { s with
          clusters := t.clusters
          teams := s.teams.map fun q => if q.grid = x.id.grid ∧ q.lteam = x.id.team then { q with tiles := q.tiles.set n z } else q }))

/-- R294, R295: a program of a populated stack starts with its arguments in `s1`–`s4`, the lines of its window leave the caches and the banks, with an
uncorrectable error of a changed line of a bank; it stops at the next bundle when it is told to, and leaves its final registers in the arguments, with interrupt cause 5. -/
def Obligations.ReachProgramsStartAndStop : Prop :=
  ∀ (s : State) (n : Nat),
    let r := s.reachOf n
    (r.run = false → n < s.host.nstacks → CachesClean s → (∀ m ∈ s.soft, m < 2 ^ 110) → r.args.length = 4 →
      ∃ (k : Reach) (t : State), exec (.reachGo n) s = .next t ∧
      t.reachOf n = k ∧ (∀ d, d ≠ n → t.reachOf d = s.reachOf d) ∧
      (let gone := fun m => decide (2 ^ 110 ≤ m) && t.reachHeld (8 * placeWord m)
       ∀ m, m ∈ t.poison ↔ m ∈ s.poison ∧ gone m = false ∨ ∃ x ∈ s.poison, gone x = true ∧ inBankClean x = false ∧ m = placeWord x) ∧
      t = { s with reach := t.reach, lines := s.lines.filter (fun l => !t.reachHeld (32 * l.num)), poison := t.poison } ∧
      k = { r with run := true, stopping := 0, regs := k.regs, pc := r.rpc } ∧
      ∀ j (h : j < 16), k.regs[j] = if 1 ≤ j ∧ j ≤ 4 then r.args.getD (j - 1) 0 else 0) ∧
    (r.run = true ∨ s.host.nstacks ≤ n → exec (.reachGo n) s = .next s) ∧
    (r.run = true → r.stopping = 0 → OnlyReach (.reachStop n) s n { r with stopping := 5 }) ∧
    (r.run = false ∨ r.stopping ≠ 0 → exec (.reachStop n) s = .next s) ∧
    (r.run = true → r.stopping ≠ 0 → (∀ q ∈ s.fabric, q.parked = true → ∀ p ∈ q.pieces, s.reachHeld p.key = false) → ∃ t u : State, exec (.reachProgramStop n) s = .next t ∧ t = u.interrupt 5 n ∧
      u.reachOf n = { r with run := false, status := r.stopping, stopping := 0, args := [r.regs[1], r.regs[2], r.regs[3], r.regs[4]] } ∧
      (∀ d, d ≠ n → u.reachOf d = s.reachOf d) ∧ u = { s with reach := u.reach }) ∧
    (r.run = false ∨ r.stopping = 0 → exec (.reachProgramStop n) s = .next s)

/-- R287, R293, R355, R66: each command reads or writes its block or full/empty bit at its stack address; one that the stack does not
hold, or of no CMD, is answered with error status. R293 gives error status for an illegal command only: that a block which the stack does
not hold, which is misaligned, in error or behind a link that is down has it too is the model's reading, and so is the one bit that
`METARD` gives for the ECC status (both log entry 17). -/
def Obligations.BaseDieCommandsAnswer : Prop :=
  ∀ (s : State) (st adr tag sub : Nat) (b : Bool),
    ReadsBlock (.rd64 st adr tag) s st adr tag 64 ∧ ReadsBlock (.rd256 st adr tag) s st adr tag 256 ∧
    (∀ v, WritesBlock (.wr64 st adr tag v) s st adr tag 64 v.toNat) ∧ (∀ v, WritesBlock (.wr256 st adr tag v) s st adr tag 256 v.toNat) ∧
    (StackHolds s st adr 64 →
      let k := stackByte s st (64 * adr)
      let w := k + 8 * (sub % 8)
      (BlockSound s w 8 →
        Answers (.feopRead st adr tag sub) s s st tag (BlockBad s w 8) ((List.range 8).map fun j => s.byte (w + j)) [s.isFull w]) ∧
      ((∀ r ∈ s.fabric, r.parked = true → ∀ p ∈ r.pieces, s.mapKey p.key / 8 ≠ w / 8) →
        ∃ u, Answers (.feopSet st adr tag sub b) s u st tag false [] [] ∧ FullAfter s u w (some b) ∧ u = { s with empty := u.empty }) ∧
      Answers (.metard st adr tag) s s st tag false [] (((List.range 8).map fun j => s.isFull (k + 8 * j)) ++ [BlockBad s k 64])) ∧
    (¬ StackHolds s st adr 64 → Answers (.feopRead st adr tag sub) s s st tag true [] [] ∧
      Answers (.feopSet st adr tag sub b) s s st tag true [] [] ∧ Answers (.metard st adr tag) s s st tag true [] []) ∧
    (∀ cmd, cmd = 0 ∨ 7 ≤ cmd ∧ cmd < 16 → Answers (.nolendIllegalCommand st tag cmd) s s st tag true [] [])

/-- R285, R286, R288, R291, R292, R295, R297–R299, R322, R343: a write of a device register keeps its fields and no more; an attestation
takes its nonce as it stands and ends with the report of R298; boot accepts an image whose key has the fused digest and whose signature
over its SHA-384 digest verifies. Keys, the signer's number and what the host lets be written are free values (log entry 5); the layout of
bytes 80 to 87 is log entry 18, the order of the numbers' bytes log entry 47. That REL of `CPBC`, and HALT and RESUME of `DCTL`, are steps
apart from the write that sets them, which here keeps HIT and only sets ARM, is log entry 19. -/
def Obligations.DeviceRegistersAndAttestation : Prop :=
  ∀ (s : State) (v : Word),
    let h := s.host
    let put := fun (o : Nat) => exec (.deviceRegisterWrite o v) s
    let keep := fun (hi lo : Nat) => BitVec.ofNat 64 (v.toNat / 2 ^ lo % 2 ^ (hi + 1 - lo) * 2 ^ lo)
    put 0x010 = .next { s with host := { h with fsqbase := keep 52 5 } } ∧
    put 0x028 = .next { s with host := { h with irqaddr := keep 52 2 } } ∧
    put 0x030 = .next { s with host := { h with wdog := BitVec.ofNat 7 v.toNat } } ∧
    put 0x038 = .next { s with host := { h with telbase := keep 52 5 } } ∧
    put 0x040 = .next { s with host := { h with telSize := BitVec.ofNat 12 v.toNat, telHead := BitVec.ofNat 12 (v.toNat / 2 ^ 16) } } ∧
    put 0x058 = .next { s with host := { h with attaddr := keep 52 3 } } ∧
    (∀ j < 4, put (0x060 + 8 * j) = .next { s with host := { h with attnonce := h.attnonce.set j v } } ∧
      put (0x080 + 16 * j) = .next { s with host := { h with cpba := h.cpba.set j (keep 55 3) } } ∧
      (let old := h.cpbc.getD j 0
       let u : State := { s with host := { h with cpbc := h.cpbc.set j ((v &&& 0x707FF) ||| (old &&& 0x80000)) } }
       (v.getLsbD 16 = true ∨ old.getLsbD 19 = false → put (0x088 + 16 * j) = .next u) ∧
       (v.getLsbD 16 = false → old.getLsbD 19 = true → put (0x088 + 16 * j) = .next (hitsSet { u with
         queues := s.queues.map fun y => if j ∈ y.held then { y with held := [] } else y
         grids := s.grids.map fun g => if j ∈ g.held then { g with held := [] } else g })))) ∧
    (∀ o, o % 8 ≠ 0 → put o = .next s) ∧
    (∀ q < 2048, let x := s.queue q
      let base := 0x10000 + 64 * q
      (x.en = false → OnlyQueue (.deviceRegisterWrite base v) s q { x with head := keep 52 8 }) ∧
      (x.en = true → OnlyQueue (.deviceRegisterWrite base v) s q x) ∧
      OnlyQueue (.deviceRegisterWrite (base + 0x10) v) s q { x with seq := keep 52 3 } ∧
      OnlyQueue (.deviceRegisterWrite (base + 0x28) v) s q { x with pt := keep 52 16 } ∧
      OnlyQueue (.deviceRegisterWrite (base + 0x30) v) s q { x with inva := keep 51 16 }) ∧
    (∀ n < 8, let r := s.reachOf n
      let base := 0x40000 + 64 * n
      (r.run = false → OnlyReach (.deviceRegisterWrite base v) s n { r with rbase := keep 35 8 } ∧
        OnlyReach (.deviceRegisterWrite (base + 8) v) s n { r with rlen := keep 35 8 } ∧
        OnlyReach (.deviceRegisterWrite (base + 16) v) s n { r with rpc := keep 35 3 }) ∧
      (r.run = true → ∀ j < 3, OnlyReach (.deviceRegisterWrite (base + 8 * j) v) s n r) ∧
      ∀ j < 4, OnlyReach (.deviceRegisterWrite (base + 0x20 + 8 * j) v) s n { r with args := r.args.set j v }) ∧
    (∀ c < 1024, let k := s.cluster c
      (∃ t, put (0x100000 + 32 * c) = .next t ∧ ClusterIs s t c { k with arm := BitVec.ofNat 8 v.toNat }) ∧
      ∃ t, put (0x100000 + 32 * c + 8) = .next t ∧ ClusterIs s t c { k with dsel := v &&& 0xFFFFFF00FFFF003F }) ∧
    exec .telptrRead s = .next { s with host := { h with telDrop := 0 } } ∧
    (h.attBusy = false → exec .attestationRequest s = .next { s with host := { h with
      attBusy := true, attDone := false, attErr := false, attTaken := (h.attaddr, h.attnonce) } }) ∧
    (h.attBusy = true → exec .attestationRequest s = .next s) ∧
    (let a := h.attTaken.1.toNat
     let le := fun (x n : Nat) => (List.range n).map fun i => BitVec.ofNat 8 (x / 256 ^ i)
     let body : List Byte := le (s.firmware.getD 0).toNat 48 ++ (h.attTaken.2.flatMap fun w => le w.toNat 8) ++
       le (h.pkgnum.toNat + (h.nstacks % 16 + h.cap % 16 * 16) * 2 ^ 32) 8 ++ le (publicKey Config.identitySecret).toNat 96
     let digest := sha384 body
     let report := body ++ le (ecdsaSign Config.identitySecret (Config.signNonce digest) digest).toNat 96
     h.attBusy = true →
     (Config.hostWritable a = true → ∃ t u : State, exec .attestationDone s = .next t ∧ t = u.interrupt 6 0 ∧
       (Memory.wf s.mem = true → ∀ x, u.byte x = if a ≤ x ∧ x < a + report.length then byteOfList report a x else s.byte x) ∧
       (∀ w, w ∈ u.poison → w ∈ s.poison ∨ ∃ c, lineErr c w ∈ s.poison) ∧ (∀ w, w ∈ u.soft → w ∈ s.soft ∨ ∃ c, lineErr c w ∈ s.soft) ∧ (∀ l, l ∈ u.lines → l ∈ s.lines) ∧
       u = { s with
         mem := u.mem, poison := u.poison, soft := u.soft, lines := u.lines, host := { h with attBusy := false, attDone := true } }) ∧
     (Config.hostWritable a = false → exec .attestationDone s = .next { s with host := { h with attBusy := false, attErr := true } })) ∧
    (let fused := fun image => leNat (sha384 ((List.range 96).map fun i => BitVec.ofNat 8 ((Config.imageKey image).toNat / 256 ^ i))) =
       Config.fusedDigest.toNat
     ∀ image, exec (.firmwareBoot image) s = .next (if fused image ∧ ecdsaVerify (Config.imageKey image) (sha384 image) (Config.imageSignature image) = true then
      { s with firmware := some (BitVec.ofNat 384 (leNat (sha384 image))), powered := true } else s))

namespace Sys2Proof.Claims

/-! ### Power, temperature, links -/

/-- Wake latencies (R267). -/
def wakeAfter : PowerLevel → Nat
  | .run => 0 | .nap => 20 | .drowsy => 2000 | .shadowedOff => 24000

/-- Entry times (R267). -/
def enterAfter : PowerLevel → Nat
  | .run => 0 | .nap => 1 | .drowsy => 200 | .shadowedOff => 14000

/-- A core's commit into its saddlebag: the inactive slot is written and the commit word turns to it (R84, R87). -/
def committedCore (s : State) (c : Nat) : Core :=
  let k := s.core c
  if k.commitB then { k with slotA := some (s.snapshot c), commitB := false } else { k with slotB := some (s.snapshot c), commitB := true }

/-- The state that heat, or else the host, asks a core to be in (R268, R354): drowsy where the tower has no spare slot pair. -/
def askedFor (s : State) (c : Nat) : PowerLevel :=
  let want := if 3 ≤ s.heat c then PowerLevel.shadowedOff else ((s.gateReq.find? (·.1 == c)).map (·.2)).getD .run
  if want = .shadowedOff ∧ s.spares.getD (c / 2048) 0 = 0 then .drowsy else want

/-- The level of a column by its temperature: each threshold is left 5 °C below it (R354). -/
def heatLevel (old : Nat) (t : Int) : Nat :=
  if 115 ≤ t ∨ 3 ≤ old ∧ 110 < t then 3 else if 105 ≤ t ∨ 2 ≤ old ∧ 100 < t then 2 else if 95 ≤ t ∨ 1 ≤ old ∧ 90 < t then 1 else 0

end Sys2Proof.Claims

/-- R267, R268, R349, R354, R23, R84, R87: an idle core enters the deepest state that its grids allow, one that heat or the host asks for
the state asked; a wake abandons an entry or takes the state's latency; a core that is shadowed-off, and one of continuous cadence, has saved its state;
without a spare slot pair in its tower a core stays in run. That an idle core is gated at once is the model's choice (log entry 27), and so
is that a core saves its state and turns its commit word in one step (log entry 23, DEDUCED). -/
def Obligations.CoresAreGatedAndWoken : Prop :=
  ∀ (s : State) (c : Nat) (l : PowerLevel),
    let k := s.core c
    (s.powered = true → k.entering = none → k.power = .run → k.waking = none → l ≠ .run →
      (l = askedFor s c ∨
       askedFor s c = .run ∧ s.idle c = true ∧ s.mayEnter c l = true ∧ ∀ m, s.mayEnter c m = true → enterAfter m ≤ enterAfter l) →
      OnlyCore (.powerGate c l) s c { k with entering := some (l, s.cycle) }) ∧
    (∀ since, s.powered = true → k.entering = some (l, since) → l ≠ .shadowedOff → since.toNat + enterAfter l ≤ s.cycle.toNat →
      s.idle c = true ∨ askedFor s c ≠ .run → OnlyCore (.powerGate c l) s c { k with power := l, entering := none }) ∧
    (∀ since, s.powered = true → k.entering = some (.shadowedOff, since) → since.toNat + 14000 ≤ s.cycle.toNat →
      s.idle c = true ∨ askedFor s c ≠ .run →
      (s.spares.getD (c / 2048) 0 = 0 → OnlyCore (.powerGate c .shadowedOff) s c { k with entering := none }) ∧
      (s.spares.getD (c / 2048) 0 ≠ 0 → c ∉ s.mramBad → noPair c ∉ s.mramBad → CachesClean s → ∃ t, exec (.powerGate c .shadowedOff) s = .next t ∧
      CoreIs s t c { committedCore s c with power := .shadowedOff, entering := none, icache := [] } ∧
      t = { s with cores := t.cores, lines := s.lines.filter fun x => x.core != c })) ∧
    (∀ since, k.entering = some (l, since) → s.wakeDue c l = true → OnlyCore (.wake c) s c
      { k with entering := none, waking := if k.power = .run then none else some s.cycle, idleSince := s.cycle }) ∧
    (k.entering = none → k.power ≠ .run →
      (k.waking = none → s.wakeDue c k.power = true → OnlyCore (.wake c) s c { k with waking := some s.cycle }) ∧
      (∀ since, k.waking = some since → since.toNat + wakeAfter k.power ≤ s.cycle.toNat → Sound s (2 ^ 62 + c) →
        OnlyCore (.wake c) s c { k with power := .run, waking := none, idleSince := s.cycle }) ∧
      (∀ since, k.waking = some since → s.cycle.toNat < since.toNat + wakeAfter k.power → exec (.wake c) s = .next s)) ∧
    (s.powered = true → k.power = .run → k.entering = none → s.spares.getD (c / 2048) 0 ≠ 0 → c ∉ s.mramBad → noPair c ∉ s.mramBad →
      (∃ q ∈ s.teams, q.core = some c ∧ (s.gridD q.grid).desc.flag 7 = true) →
      OnlyCore (.continuousShadowCopy c) s c (committedCore s c))

/-- R350, R351, R86: a core that loses power goes on from its committed slot, and ends the grids of which the slot holds nothing; a package
that loses power keeps the keep region's durable stores, of bytes and of full/empty bits, and nothing else: those that had reached MRAM
(which are named), and with each the earlier ones to its unit and those of its thread's earlier epochs, where none of their units fails
(R352). That earlier stores to the unit of a durable one are durable is log entry 49 (DEDUCED); that worn places and spares stay as they
were, and retired quadrants and failed links do not, is log entry 26; that a restored thread awaits no register any more, and that a thread
of another team that stands on the core stays as it was, is log entry 64 (DESIGN CHOICE both). -/
def Obligations.PowerLossRestoresWhatWasSaved : Prop :=
  ∀ (s : State) (c : Nat),
    (∀ x, s.powered = true → Sound s (2 ^ 62 + c) → (if (s.core c).commitB then (s.core c).slotB else (s.core c).slotA) = some x →
      (∀ q ∈ s.teams, q.core = some c → q.placedAt ≤ x.cycle ∧ ∃ y ∈ x.teams, y.grid = q.grid ∧ y.lteam = q.lteam) → x.pushes = [] →
      (s.teams.map fun q => (q.grid, q.lteam)).Nodup →
      let mine := fun id : Tid => ∃ q ∈ s.teams, q.core = some c ∧ q.grid = id.grid ∧ q.lteam = id.team
      ∃ t, exec (.corePowerLoss c) s = .next t ∧
      (∀ z ∈ s.cur :: s.rest, ¬ mine z.id → z ∈ t.cur :: t.rest) ∧
      (∀ z ∈ s.cur :: s.rest, mine z.id → ∀ y, x.threads.find? (·.id == z.id) = some y → ∃ w ∈ t.cur :: t.rest, w.id = z.id ∧
        w = { y with
          core := c, slot := y.homeSlot, closed := [], far := false, awaiting := y.awaiting.filter fun p => y.vreplay.any fun v => p.2 + 1 == v.base, cntC := w.cntC }) ∧
      (Memory.wf s.mem = true → Memory.wf x.tcm = true → ∀ q ∈ s.teams, q.core = some c → ∀ o < 2 ^ 18, 1 ≤ q.grid → q.grid < 2 ^ 15 → q.lteam < 8192 →
        (∀ p ∈ x.tcm, inShares (s.teams.filter (·.core == some c)) p.1 = true) →
        t.byte (tcmKey q.grid q.lteam o) = Memory.get x.tcm (tcmKey q.grid q.lteam o)) ∧
      (t.core c).power = .run ∧ (t.core c).entering = none ∧ (t.core c).waking = none ∧ (t.core c).icache = [] ∧
      (t.core c).unit = (if (x.mq.any fun r => s.teams.any fun q => q.core == some c && q.grid == r.tid.grid && q.lteam == r.tid.team) then
        .requesting s.cycle else .inactive) ∧
      ∀ d, d ≠ c → t.core d = s.core d) ∧
    (s.powered = true → Sound s (2 ^ 62 + c) → (s.core c).slotA = none → (s.core c).slotB = none → (s.grids.map (·.num)).Nodup →
      ∃ t, exec (.corePowerLoss c) s = .next t ∧
      ∀ g ∈ s.grids, (∃ q ∈ s.teams, q.core = some c ∧ q.grid = g.num) → (∀ f ∈ g.faults, f.cycle = s.cycle) → ∃ y ∈ t.grids, y.num = g.num ∧
        (⟨s.cycle, false, 0, 0, 1, 0x1D, 1, 0, 0⟩ : FaultRec) ∈ y.faults) ∧
    (∀ durable : List Nat, (∀ p ∈ s.keepPending, keepWear p.key ∉ s.mramBad) → ∃ l : List KeepStore,
      l = s.keepPending.filter (fun p => decide (p ∈ l)) ∧ (∀ p ∈ s.keepPending, p ∈ l ↔ DurableStore s.keepPending durable p) ∧
      let keep := l.foldl (fun m p => if p.bit = none then Memory.set m p.key p.val else m) s.keepDurable
      let empty := l.foldl (fun e p => match p.bit with
        | none => e
        | some true => e.filter (· != p.key / 8)
        | some false => if p.key / 8 ∈ e then e else p.key / 8 :: e) s.keepEmpty
      let host : HostRegs := { HostRegs.reset with pkgnum := s.host.pkgnum, nstacks := s.host.nstacks, cap := s.host.cap }
      ∃ t, exec (.packagePowerLoss durable) s = .next t ∧ t.mem = keep ∧ t.empty = empty ∧ t.powered = false ∧
        (∀ w, w ∈ t.poison → isKeep (8 * w) = true ∧ w ∈ s.poison) ∧
        t = { State.reset with
          mem := keep, empty := empty, keepDurable := keep, keepEmpty := empty, poison := t.poison, soft := t.soft, spares := s.spares
          keepSpares := s.keepSpares, mramBad := s.mramBad, powered := false, host := host, agenda := s.agenda, oracle := s.oracle, fresh := s.fresh })

/-- R353–R355, R296: a sensor's reading counts unless it fails a rule; a column's level follows its temperature; a link replays, trains
and fails; a request that a dead route carried ends its grid. The power model's temperature is a free value (log entry 5); that WHERE of
a column's record names the column's core of row 0 is log entry 25 (DEDUCED). -/
def Obligations.SensorsAndLinksReport : Prop :=
  ∀ (s : State),
    (∀ col reading,
      let x := s.sensor col
      let same := if reading = x.reading then x.same + 1 else 0
      let fails := x.failed = false ∧ (reading < -40 ∨ 150 < reading ∨ 15 < (reading - Config.powerModel s.fresh).natAbs ∨
        64 ≤ same ∧ Config.powerMoved s.fresh = true ∧ reading = x.reading)
      ∃ t u reason, exec (.temperatureSample col reading) s = .next t ∧
        let failed := x.failed || decide fails
        let temp := if failed then s.failedTemp col s.fresh else reading
        let level := heatLevel x.level temp
        let core := col / 32 * 512 + col % 32
        let v : State := { s with fresh := s.fresh + 1, sensors := upsert Sensor.col ⟨col, reading, same, failed, temp, level⟩ s.sensors }
        (if fails then Reported v u 7 0 core 0 reason ∧
          (reason = 1 ↔ reading < -40 ∨ 150 < reading) ∧ 1 ≤ reason ∧ reason ≤ 3 else u = v) ∧
        (if level ≠ x.level then Reported u t 8 level core 0 (BitVec.ofInt 64 temp).toNat else t = u)) ∧
    (∀ l, l ∉ s.linksDown →
      exec (.linkFlitError l) s = .next { s with linkErrors := bump l 1 s.linkErrors } ∧
      (l % 256 ≠ 0 ∨ 8 ≤ countAt l s.linkErrors → ∃ t, exec (.linkRetrain l) s = .next t ∧
        Reported { s with linkErrors := s.linkErrors.filter fun p => p.1 != l } t 9 0 0 0 l) ∧
      ∃ t, exec (.linkDown l) s = .next t ∧
        Reported { s with linkErrors := s.linkErrors.filter (fun p => p.1 != l), linksDown := l :: s.linksDown } t 10 0 0 0 l) ∧
    (∀ l, l ∈ s.linksDown → exec (.linkFlitError l) s = .next s ∧ exec (.linkRetrain l) s = .next s ∧ exec (.linkDown l) s = .next s) ∧
    (∀ (r : Req) (k : Nat) (p : Piece), s.fabric.find? (·.id == r.id) = some r → (∃ l ∈ s.linksDown, l % 256 = 2) →
      let lost := fun p : Piece => p.done = false ∧
        (p.key < 2 ^ 53 ∧ p.key / 2 ^ 40 ≠ s.host.pkgnum.toNat ∨ 2 ^ 56 ≤ p.key ∧ (p.key - 2 ^ 56) / 2 ^ 40 ≠ s.host.pkgnum.toNat)
      r.pieces[k]? = some p → lost p → (∀ j < k, ∀ q, r.pieces[j]? = some q → ¬ lost q) →
      (∀ b, r.op ≠ .bankWrite b) → (∀ d, r.dest ≠ .stream d) → CachesClean s →
      ∃ t, exec (.spanRouteTimeout r.id) s = .next t ∧
        (r.op = .read → t.mem = s.mem ∧ t.empty = s.empty ∧ t.keepPending = s.keepPending) ∧
        t = { onThread (onGridNo s r.tid.grid fun g => if ∀ f ∈ g.faults, f.cycle = s.cycle then { g with
            faults := g.faults ++ [⟨s.cycle, true, r.tid.team, r.tid.thread, 1, 0x1B, 0, r.fpc, p.ea⟩], nfault := min (g.nfault + 1) 65535 } else g)
            r.tid (fun x => { x with wait := .faulted }) with
          fabric := s.fabric.filter (·.id != r.id), mem := t.mem, empty := t.empty, poison := t.poison, soft := t.soft, keepPending := t.keepPending
          lines := t.lines, cores := t.cores, chunkWrites := t.chunkWrites, oracle := t.oracle, fresh := t.fresh })

namespace Sys2Proof.Claims

/-! ### Bundles and steps -/

/-- The rows and registers of the words below. -/
def row (t : BitVec 4) (i : BitVec 6) : RowOp := ⟨t, false, false, i⟩

/-- What a step leaves once a slot of a core has issued: the pointer stands behind that slot, the core has had its cycle (R29). -/
def issuedFrom (t : State) (c slot : Nat) : State :=
  { t with cores := upsert Core.num { t.core c with ptr := (slot + 1) % 8 } t.cores, issued := c :: t.issued, aborted := false }

/-- Core `c` issues now, and the issuing thread, which stands in the slot of the rotation pointer, is ready: it runs, its grid is placed and
has not faulted, no trap is due, no other thread of the core waits, and the core has not had this cycle (R9, R29, R43, R46, R273). -/
def IssuesNow (s : State) (c : Nat) : Prop :=
  let x := s.cur
  c ∉ s.issued ∧ s.coreRuns c = true ∧ s.teamStops x = false ∧ s.replayGrid c = none ∧ x.core = c ∧ x.slot = (s.core c).ptr ∧ x.slot < 8 ∧ x.id.grid ≠ 0 ∧ x.wait = .running ∧
  x.traps = [] ∧ (x.yieldUntil ≠ s.cycle ∨ x.yieldUntil = 0) ∧ x.half = none ∧ x.awaiting = [] ∧ (∀ r, x.stream? r = none) ∧
  (∃ g, s.grid? x.id.grid = some g ∧ g.state = .placed ∧ g.faults = []) ∧ s.aborted = false ∧ s.poison = [] ∧ s.soft = [] ∧
  (∀ y ∈ s.rest, y.core = c → y.wait = .running ∨ y.wait = .ended)

/-- The bundle at the PC: mapped with execute permission, in no cache line that differs; `f` is the machine with the line filled (R62, R145,
R334). A line of another address space, or filled through another translation, is none of it. No span link is down, or it lies in this
package (R355). -/
def Fetches (s f : State) (b : BitVec 64) : Prop :=
  ∃ k w, s.place s.cur.id.grid (s.cur.pc.toNat % 2 ^ 52) = (.mem k w true, s) ∧ s.homeless (s.mapKey k) = false ∧
    s.reachHeld k = false ∧ s.carveState k ≠ .hold ∧ (s.spanDown = false ∨ s.farKey k = false) ∧ b.toNat = bytesAt s (s.mapKey k) 8 ∧
    let q := (s.gridD s.cur.id.grid).queue
    let loc := s.cur.pc.toNat % 2 ^ 52
    let key := s.mapKey k
    let x := s.core s.cur.core
    ((∀ l ∈ x.icache, ¬ (l.queue = q ∧ l.loc = loc ∧ l.key = key)) ∧
        f = { s with cores := upsert Core.num { x with icache := (⟨q, loc, key, b⟩ :: x.icache).take 4096 } s.cores } ∨
     x.icache.find? (fun l => l.queue == q && l.loc == loc && l.key == key) = some ⟨q, loc, key, b⟩ ∧ f = s)

end Sys2Proof.Claims

/-- R105, R110–R117: words that the spec writes out, one or more of each family, are the instructions it gives them for. -/
def Obligations.WordsDecodeAsWritten : Prop :=
  [(0x1104800000000000, .pair .nop (.mul 4 1 2)), (0x8CD41E0800000000, .pair .nop (.bextu 3 5 60 8)),
   (0x0010023081802800, .long (.sel 5 1 2 3)), (0x000000004DE00005, .pair (.jal 15 5) .nopArithmetic),
   (0x000000004E1E0000, .pair (.jr 0 15 0) .nopArithmetic), (0xBC48C00300000000, .pair .nop (.fcmp .d .lt 1 2 3)),
   (0x0010023082002001, .long (.ffma .d 4 1 2 3)), (0x0000000088100002, .long (.tcfg 2 2)), (0x0000000088980000, .long (.tzero 3)),
   (0x0011040089800100, .long (.vst 1 0x100 (row 1 4))), (0x001000008A000000, .long (.vbc (row 0 0) 1)),
   (0x000100008F1C2802, .long (.vcmp 2 ⟨3, true, false, 5⟩ (row 0 0) (row 1 0))), (0x1050000090800000, .long (.vred 0 (row 1 5))),
   (0x0000000092001800, .long (.vpop 3)), (0x0000030091800001, .long (.vloop 1 3)),
   (0x0002005092880001, .long (.topk false 5 (row 1 0) (row 2 0) (row 0 0) 1)), (0x00100000A1000002, .long (.fset 0 1 2)),
   (0x00000000A3000800, .long (.fmulF 1 0 0)), (0x00200400A5801800, .long (.feval 3 2 4)), (0x00100670A7002800, .long (.froot 5 1 6 7)),
   (0x00020700A6800809, .long (.fsamp 1 (row 2 7) 9)), (0x00100000A8001804, .long (.ftrunc 3 1 4)),
   (0x000000009A802800, .long (.mtick 5 0))].all (fun p => decodeBundle p.1 == p.2) = true

/-- R105, R107, R110–R117: the bundle of two well-formed slot instructions, or of a long one, decodes to them; no bit of an operand is
lost. -/
def Obligations.BundlesDecodeAsEncoded : Prop :=
  (∀ c a w0 w1, c.wf = true → a.wf = true → encodeCtrl c = some w0 → encodeArith a = some w1 →
    decodeBundle (bundleWord w0 w1) = .pair c a) ∧
  (∀ i b, i.wf = true → encodeLong i = some b → decodeBundle b = .long i) ∧
  ∀ i b, i.wf = true → encode i = some b → (decodeBundle b).single = some i

/-- R107, R108–R117: what a legal bundle decodes to is well-formed, and the bundle is its only encoding: no bit is ignored. -/
def Obligations.LegalBundlesHaveOneEncoding : Prop :=
  ∀ (b : BitVec 64),
    (∀ c a, decodeBundle b = .pair c a → c.wf = true ∧ a.wf = true ∧
      ∃ w0 w1, encodeCtrl c = some w0 ∧ encodeArith a = some w1 ∧ b = bundleWord w0 w1) ∧
    (∀ i, decodeBundle b = .long i → i.wf = true ∧ encodeLong i = some b)

/-- R7, R9, R29, R105–R107, R145: when the bytes at the PC decode to a bundle, a step of the core is `exec` of its control/memory or
long instruction at that state, with the arithmetic result, computed from the same registers, written over it and its flags raised; the
rotation pointer moves behind the slot. An illegal bundle and a fetch that fails are their own instructions. That a core issues when the
agenda says so is the model's form (log entry 1). -/
def Obligations.StepRunsTheDecodedBundle : Prop :=
  ∀ (s0 s f t : State) (c : Nat) (rest : List Due) (b : BitVec 64),
    s0.agenda = ⟨0, .issue c⟩ :: rest → s = { s0 with agenda := rest } → IssuesNow s c → Fetches s f b →
    (∀ i, (decodeBundle b = .long i ∨ decodeBundle b = .pair i .nopArithmetic) → i ≠ .next → exec i f = .next t → t.aborted = false →
      wrapped s.cur t.cur = false → (∀ r, t.cur.stream? r = none) → t.poison = [] → t.soft = [] →
      step s0 = .next (issuedFrom { t with cur := { t.cur with got := [], half := halfAfter f t } } c s.cur.slot)) ∧
    (∀ i a u d, decodeBundle b = .pair i a → writesOf a = [d] → i ≠ .next → exec i f = .next t → t.aborted = false →
      wrapped s.cur t.cur = false → (∀ r, t.cur.stream? r = none) → t.poison = [] → t.soft = [] →
      exec a { f with cur := { f.cur with tstat := f.cur.tstat &&& 0xFFFFFFFFFFFFFFE0 } } = .next u →
      ∃ w, step s0 = .next w ∧ (∀ r, w.cur.reg r = if r = d ∧ d ≠ 0 then u.reg d else t.cur.reg r) ∧
        w = issuedFrom { t with cur := { t.cur with
          got := [], half := halfAfter f t, wait := (match t.cur.wait with | .vpop r => .vpop (if r = d then 0 else r) | x => x)
          regs := w.cur.regs, awaiting := t.cur.awaiting.filter fun p => p.1 != d || d == 0
          tstat := t.cur.tstat ||| (u.cur.tstat &&& 0x1F) } } c s.cur.slot) ∧
    (∀ n, decodeBundle b = .illegal n → exec (.illegalBundle n b) f = .next t → step s0 = .next (issuedFrom t c s.cur.slot))

/-- R107, R331, R145, R334, R335: an illegal bundle faults with cause 0x10, its subcode as DETAIL and its word as FVAL; a fetch from a page
without execute permission faults with cause 0x15, from a location that is not mapped with its cause, and waits for service where the
page is not present. One from another package while a span link is down may find no route: cause 0x1B (R355; which is drawn, log entry 38). -/
def Obligations.BundlesThatCannotRun : Prop :=
  ∀ (s u : State) (p : Place),
    (∀ n b, ∃ t, exec (.illegalBundle n b) s = .next t ∧ Faults s t 1 0x10 n b) ∧
    (s.place s.cur.id.grid (s.cur.pc.toNat % 2 ^ 52) = (p, u) →
      (∀ k w, p = .mem k w false → ∃ t, exec .fetchFault s = .next t ∧ Faults u t 1 0x15 1 s.cur.pc) ∧
      (∀ cause detail, p = .bad cause detail → cause ≠ 0x1A → ∃ t, exec .fetchFault s = .next t ∧ Faults u t 1 cause detail s.cur.pc) ∧
      (p = .absent → ∃ t tok, exec .fetchFault s = .next t ∧ t.cur = { u.cur with wait := .service tok, got := [] } ∧ t.aborted = true ∧
        (∃ r ∈ t.fs, r.token = tok ∧ r.va.toNat = s.cur.pc.toNat % 2 ^ 56 ∧ r.tid = s.cur.id ∧ r.kind = 2 ∧ r.who = .thread s.cur.id) ∧
        t = { u with cur := t.cur, fs := t.fs, fresh := t.fresh, mem := t.mem, poison := t.poison, soft := t.soft, lines := t.lines, host := t.host, aborted := true }) ∧
      (∀ k w, p = .mem k w true → u.poisoned (u.mapKey k) 8 = false → u.spanDown = false ∨ u.farKey k = false → exec .fetchFault s = .next s) ∧
      (∀ k w, p = .mem k w true → u.poisoned (u.mapKey k) 8 = false → u.spanDown = true → u.farKey k = true →
        ∃ t v, exec .fetchFault s = .next t ∧ v = { u with oracle := v.oracle, fresh := v.fresh } ∧ (t = s ∨ Faults v t 1 0x1B 0 s.cur.pc)))

/-- R20, R29, R58, R64, R203, R254, R267, R285–R295, R299, R322, R343, R352, R357: what the spec says stands right after reset; every
memory is then in its canonical form. That memory reads 0 and full, and the values for which the manual gives none, are the model's
choices (log entries 2 and 3). -/
def Obligations.TheMachineAfterReset : Prop :=
  let s := State.reset
  s.MemWf ∧ s.Clean ∧ s.grids = [] ∧ s.teams = [] ∧ s.fabric = [] ∧ s.copies = [] ∧ s.fs = [] ∧ s.tlb = [] ∧ s.lines = [] ∧ s.empty = [] ∧ s.poison = [] ∧ s.soft = [] ∧ s.keepEmpty = [] ∧
  s.host.fsqbase = 0 ∧ s.host.fsqptr = 0 ∧ s.host.irqaddr = 0 ∧ s.host.wdog = 31 ∧ s.host.telbase = 0 ∧ s.host.telptr = 0 ∧
  s.host.budget = 1 ∧ s.host.budgetInForce = 1 ∧ s.host.fast = false ∧ s.host.attctl = 0 ∧ s.host.attaddr = 0 ∧
  s.host.attnonce = [0, 0, 0, 0] ∧ s.host.cpba = [0, 0, 0, 0] ∧ s.host.cpbc = [0, 0, 0, 0] ∧ s.spares = [256, 256, 256, 256] ∧
  (∀ k, s.byte k = 0) ∧ (∀ k, s.isFull k = true) ∧
  (∀ q, s.queue q = ⟨q, 0, 0, false, 0, false, 0, 0, 0, 0, false, 0, 0, 0, 0, 0, [], none, 0, [], false⟩) ∧
  (∀ n, (s.reachOf n).run = false ∧ (s.reachOf n).status = 0 ∧ (s.reachOf n).rbase = 0 ∧ (s.reachOf n).rlen = 0 ∧ (s.reachOf n).rpc = 0) ∧
  (∀ c, (s.core c).unit = .inactive ∧ (s.core c).power = .run ∧ (s.core c).mq = [] ∧ (s.core c).ptr = 0) ∧
  (∀ c, (s.cluster c).halted = false ∧ (s.cluster c).arm = 0 ∧ (s.cluster c).dsel = 0 ∧ (s.cluster c).fast = false) ∧
  ∀ b, (s.bank b).w = 0 ∧ (s.bank b).cur = 0 ∧ (s.bank b).busy = none ∧ (s.bank b).retired = []

/-- Every step keeps every memory in its canonical form: addresses strictly rising, no entry equal to what an unlisted address reads as.
The form is the model's own (log entry 2). -/
def Obligations.MemoriesKeepTheirForm : Prop :=
  ∀ (s t : State), s.MemWf → step s = .next t → t.MemWf

/-- R225–R228, R44, R46, R47: where evaluation, sampling and root finding, a swap instant, an exchange and the end of forwarding complete:
on an operand function that is not empty and holds no error, on tiles that are free, with pool room for the result; at any cycle; once both
cores have stopped; once no message is still to be forwarded. That `feval.v` runs on tiles of different TYPE is log entry 54 (DESIGN
CHOICE). -/
def Obligations.EvaluationSamplingRootsAndSwapsComplete : Prop :=
  ∀ (s : State) (m : FRegN) (r b c : Reg) (rd rb : RowOp) (k : BitVec 8) (x : FReg),
    (Holds s m x →
      GivesNext (.feval r m b) s r (· = x.eval (s.reg b)) ∧
      (∃ v nr, exec (.froot r m b c) s = .next { s with cur := { s.cur with
          regs := if r = 0 then s.cur.regs else s.cur.regs.set r.toNat v r.isLt, tstat := s.cur.tstat ||| nr, pc := s.cur.pc + 8 } } ∧
        (nr = 0 ∧ x.root (s.reg b) (s.reg c) = some v ∨ nr = 0x100 ∧ x.root (s.reg b) (s.reg c) = none ∧ v = 0x7FF8000000000000)) ∧
      (TilesFree s [rd.tile, rb.tile] → RowsSound s [rb] →
        ∃ w, exec (.fevalV rd m rb) s = .next { putRow s rd w with cur := logged s (.fevalV rd m rb) [rd, rb] [] s.cur }) ∧
      (TilesFree s [rb.tile] → RowsSound s [rb] → MayProduce s m → 1 ≤ k.toNat → k.toNat ≤ elemCount (tileAt s rb.tile).type →
        poolHeld s + 8 * k.toNat ≤ poolShare s → ∃ (t : State) (f : FReg), exec (.fsamp m rb k) s = .next t ∧
          (∀ n, t.cur.freg n = if n = m then f else s.cur.freg n) ∧ f.a = x.a ∧ f.b = x.b ∧ f.coef.length ≤ k.toNat ∧
          t = { s with
            cur := { s.cur with fregs := t.cur.fregs, pc := s.cur.pc + 8 }
            poison := s.poison.filter (· != regErr s.cur.id (16 + m.toNat))
            soft := s.soft.filter (· != regErr s.cur.id (16 + m.toNat)) })) ∧
    (∃ t, exec .swapInstant s = .next t ∧ t = { s with teams := t.teams, cores := t.cores, exchanges := t.exchanges } ∧
      (s.cycle.toNat % 2 ^ 22 = 0 → ∀ q ∈ t.teams, q.sent = [])) ∧
    (∀ p q, (p, q) ∈ s.exchanges → p ≠ q → s.stoppedFor p = true → s.stoppedFor q = true → p ∉ s.mramBad → q ∉ s.mramBad → s.poison = [] →
      ∃ t, exec (.exchange p q) s = .next t ∧ (p, q) ∉ t.exchanges ∧ (t.core p).exchanging = false ∧ (t.core q).exchanging = false) ∧
    (∀ d since, (s.core d).forwardSince = some since → since.toNat + 65536 ≤ s.cycle.toNat → (∀ y ∈ s.fabric, y.misrouted = false) →
      OnlyCore (.forwardingWithdraw d) s d { s.core d with forwardSince := none })
end

