-- ==== Sys2Proof/Laws/Encoding.lean ====
section
/-! SUPPORT. The fields of a word as laid out, read back (R110, R113, R116): what each field of the encoder's words decodes to. -/

namespace Sys2Proof.Laws

/-- A field above the low part of a joined word lies in its high part. -/
theorem field_high {m n : Nat} (x : BitVec m) (y : BitVec n) (s l : Nat) (h : n ≤ s) :
    (x ++ y).extractLsb' s l = x.extractLsb' (s - n) l := by
  apply BitVec.eq_of_getLsbD_eq
  intro k hk
  simp only [BitVec.getLsbD_extractLsb', BitVec.getLsbD_append]
  rw [if_neg (by omega)]
  congr 2
  omega

/-- A field inside the low part of a joined word. -/
theorem field_low {m n : Nat} (x : BitVec m) (y : BitVec n) (s l : Nat) (h : s + l ≤ n) :
    (x ++ y).extractLsb' s l = y.extractLsb' s l := by
  apply BitVec.eq_of_getLsbD_eq
  intro k hk
  simp only [BitVec.getLsbD_extractLsb', BitVec.getLsbD_append]
  rw [if_pos (by omega)]

/-- A whole word as a field. -/
theorem field_all {n : Nat} (x : BitVec n) : x.extractLsb' 0 n = x := by
  apply BitVec.eq_of_getLsbD_eq
  intro k hk
  simp [hk]

/-- A field of a field. -/
theorem field_field {n : Nat} (x : BitVec n) (s l t k : Nat) (h : t + k ≤ l) :
    (x.extractLsb' s l).extractLsb' t k = x.extractLsb' (s + t) k := by
  apply BitVec.eq_of_getLsbD_eq
  intro j hj
  simp only [BitVec.getLsbD_extractLsb']
  simp only [hj, decide_true, Bool.true_and, show t + j < l by omega]
  congr 1
  omega

/-- A field that straddles the seam of a joined word. -/
theorem field_join {m n : Nat} (x : BitVec m) (y : BitVec n) (s l k : Nat) (h : s + k = n) :
    (x ++ y).extractLsb' s (l + k) = (x.extractLsb' 0 l ++ y.extractLsb' s k : BitVec (l + k)) := by
  apply BitVec.eq_of_getLsbD_eq
  intro j hj
  simp only [BitVec.getLsbD_extractLsb', BitVec.getLsbD_append]
  by_cases hk : j < k
  · rw [if_pos (by omega), if_pos hk]; simp [hk, hj]
  · rw [if_neg (by omega), if_neg hk]
    simp only [hj, decide_true, Bool.true_and]
    rw [show decide (j - k < l) = true from decide_eq_true (by omega), Bool.true_and]
    congr 1
    omega

/-- A word joined from its parts again. -/
theorem join_fields {n : Nat} (x : BitVec n) (l k : Nat) (h : l + k = n) :
    (x.extractLsb' k l ++ x.extractLsb' 0 k : BitVec (l + k)) = x.cast h.symm := by
  subst h
  apply BitVec.eq_of_getLsbD_eq
  intro j hj
  simp only [BitVec.getLsbD_append, BitVec.getLsbD_extractLsb', BitVec.cast_eq]
  by_cases hk : j < k
  · simp [hk]
  · simp only [hk, if_false]
    rw [show decide (j - k < l) = true from decide_eq_true (by omega), Bool.true_and]
    congr 1
    omega

/-! ### The control/memory slot (R110) -/

@[simp] theorem ctrl_op (op : BitVec 6) (d a b : BitVec 4) (i : BitVec 13) : (ctrlWord op d a b i).extractLsb' 25 6 = op := by
  simp (disch := omega) only [ctrlWord, field_high, field_low]; exact field_all op
@[simp] theorem ctrl_d (op : BitVec 6) (d a b : BitVec 4) (i : BitVec 13) : (ctrlWord op d a b i).extractLsb' 21 4 = d := by
  simp (disch := omega) only [ctrlWord, field_high, field_low]; exact field_all d
@[simp] theorem ctrl_a (op : BitVec 6) (d a b : BitVec 4) (i : BitVec 13) : (ctrlWord op d a b i).extractLsb' 17 4 = a := by
  simp (disch := omega) only [ctrlWord, field_high, field_low]; exact field_all a
@[simp] theorem ctrl_b (op : BitVec 6) (d a b : BitVec 4) (i : BitVec 13) : (ctrlWord op d a b i).extractLsb' 13 4 = b := by
  simp (disch := omega) only [ctrlWord, field_high, field_low]; exact field_all b
@[simp] theorem ctrl_i (op : BitVec 6) (d a b : BitVec 4) (i : BitVec 13) : (ctrlWord op d a b i).extractLsb' 0 13 = i := by
  simp (disch := omega) only [ctrlWord, field_low]; exact field_all i

/-! ### The arithmetic slot (R113) -/

@[simp] theorem arith_op (op : BitVec 6) (d a b : BitVec 4) (i : BitVec 14) : (arithWord op d a b i).extractLsb' 26 6 = op := by
  simp (disch := omega) only [arithWord, field_high]; exact field_all op
@[simp] theorem arith_d (op : BitVec 6) (d a b : BitVec 4) (i : BitVec 14) : (arithWord op d a b i).extractLsb' 22 4 = d := by
  simp (disch := omega) only [arithWord, field_high, field_low]; exact field_all d
@[simp] theorem arith_a (op : BitVec 6) (d a b : BitVec 4) (i : BitVec 14) : (arithWord op d a b i).extractLsb' 18 4 = a := by
  simp (disch := omega) only [arithWord, field_high, field_low]; exact field_all a
@[simp] theorem arith_b (op : BitVec 6) (d a b : BitVec 4) (i : BitVec 14) : (arithWord op d a b i).extractLsb' 14 4 = b := by
  simp (disch := omega) only [arithWord, field_high, field_low]; exact field_all b
@[simp] theorem arith_i (op : BitVec 6) (d a b : BitVec 4) (i : BitVec 14) : (arithWord op d a b i).extractLsb' 0 14 = i := by
  simp (disch := omega) only [arithWord, field_low]; exact field_all i

/-! ### Long instructions (R116) -/

@[simp] theorem long_op (op : BitVec 8) (xd : BitVec 12) (fn : BitVec 11) (xa xb : BitVec 12) (sx : BitVec 4) : (longWord op xd fn xa xb sx).extractLsb' 23 8 = op := by
  simp (disch := omega) only [longWord, field_high, field_low]; exact field_all op
@[simp] theorem long_xd (op : BitVec 8) (xd : BitVec 12) (fn : BitVec 11) (xa xb : BitVec 12) (sx : BitVec 4) : (longWord op xd fn xa xb sx).extractLsb' 11 12 = xd := by
  simp (disch := omega) only [longWord, field_high, field_low]; exact field_all xd
@[simp] theorem long_fn (op : BitVec 8) (xd : BitVec 12) (fn : BitVec 11) (xa xb : BitVec 12) (sx : BitVec 4) : (longWord op xd fn xa xb sx).extractLsb' 0 11 = fn := by
  simp (disch := omega) only [longWord, field_low]; exact field_all fn
@[simp] theorem long_xa (op : BitVec 8) (xd : BitVec 12) (fn : BitVec 11) (xa xb : BitVec 12) (sx : BitVec 4) : (longWord op xd fn xa xb sx).extractLsb' 52 12 = xa := by
  simp (disch := omega) only [longWord, field_high]; exact field_all xa
@[simp] theorem long_xb (op : BitVec 8) (xd : BitVec 12) (fn : BitVec 11) (xa xb : BitVec 12) (sx : BitVec 4) : (longWord op xd fn xa xb sx).extractLsb' 40 12 = xb := by
  simp (disch := omega) only [longWord, field_high, field_low]; exact field_all xb
@[simp] theorem long_sx (op : BitVec 8) (xd : BitVec 12) (fn : BitVec 11) (xa xb : BitVec 12) (sx : BitVec 4) : (longWord op xd fn xa xb sx).extractLsb' 36 4 = sx := by
  simp (disch := omega) only [longWord, field_high, field_low]; exact field_all sx
@[simp] theorem long_sy (op : BitVec 8) (xd : BitVec 12) (fn : BitVec 11) (xa xb : BitVec 12) (sx : BitVec 4) : (longWord op xd fn xa xb sx).extractLsb' 32 4 = 0#4 := by
  simp (disch := omega) only [longWord, field_high, field_low]; exact field_all 0#4
@[simp] theorem long_l (op : BitVec 8) (xd : BitVec 12) (fn : BitVec 11) (xa xb : BitVec 12) (sx : BitVec 4) : (longWord op xd fn xa xb sx).extractLsb' 31 1 = 1#1 := by
  simp (disch := omega) only [longWord, field_high, field_low]; exact field_all 1#1

/-! ### Operand fields (R108, R116) -/

@[simp] theorem xs_reg (r : Reg) : (xs r).extractLsb' 0 4 = r := by
  simp (disch := omega) only [xs, field_low]; exact field_all r
@[simp] theorem xs_ok (r : Reg) : sBad (xs r) = false := by
  simp (disch := omega) only [sBad, xs, field_high]; rfl
@[simp] theorem xf_reg (f : FRegN) : (xf f).extractLsb' 0 3 = f := by
  simp (disch := omega) only [xf, field_low]; exact field_all f
@[simp] theorem xf_ok (f : FRegN) : fBad (xf f) = false := by
  simp (disch := omega) only [fBad, xf, field_high]; rfl
@[simp] theorem xt_tile (t : BitVec 4) : (xt t).extractLsb' 8 4 = t := by
  simp (disch := omega) only [xt, field_high]; exact field_all t
@[simp] theorem xt_ok (t : BitVec 4) : tBad (xt t) = false := by
  simp (disch := omega) only [tBad, xt, field_low]; rfl
@[simp] theorem bit1_back (b : Bool) : (bit1 b == 1#1) = b := by cases b <;> rfl
@[simp] theorem prec_back (p : Prec) : precOf p.bit = p := by cases p <;> rfl
@[simp] theorem fcond_back (c : FCond) : fcondOf c.code.toNat = c := by cases c <;> rfl
theorem fcond_small (c : FCond) : c.code.toNat < 4 := by cases c <;> decide

@[simp] theorem row_back (r : RowOp) : rowOf r.enc = r := by
  obtain ⟨t, rs, st, x⟩ := r
  simp (disch := omega) only [rowOf, RowOp.enc, field_high, field_low, RowOp.mk.injEq]
  refine ⟨field_all t, ?_, ?_, field_all x⟩
  · rw [field_all (bit1 rs)]; simp
  · rw [field_all (bit1 st)]; simp

theorem row_ok (r : RowOp) (h : r.wf = true) : rowBad r.enc = false := by
  obtain ⟨t, rs, st, x⟩ := r
  simp (disch := omega) only [rowBad, RowOp.enc, field_high, field_low]
  rw [field_all (bit1 rs)]
  cases rs with
  | false => rfl
  | true =>
    have hx : x.toNat ≤ 15 := by simpa [RowOp.wf] using h
    have : x.extractLsb' 4 2 = 0#2 := by
      apply BitVec.eq_of_toNat_eq
      simp only [BitVec.extractLsb'_toNat, BitVec.toNat_ofNat]
      rw [Nat.shiftRight_eq_div_pow]
      omega
    rw [this]; rfl

/-! ### Immediates and FN fields made of parts -/

@[simp] theorem part_10_3_0_3 (x : BitVec 10) (y : BitVec 3) : BitVec.extractLsb' 0 3 (x ++ y : BitVec 13) = y := by
  have h := field_low x y 0 3 (by decide)
  exact h.trans (field_all y)
@[simp] theorem part_10_3_3_2 (x : BitVec 10) (y : BitVec 3) : BitVec.extractLsb' 3 2 (x ++ y : BitVec 13) = x.extractLsb' 0 2 := by
  exact field_high x y 3 2 (by decide)
@[simp] theorem part_10_3_5_8 (x : BitVec 10) (y : BitVec 3) : BitVec.extractLsb' 5 8 (x ++ y : BitVec 13) = x.extractLsb' 2 8 := by
  exact field_high x y 5 8 (by decide)
@[simp] theorem part_11_2_0_2 (x : BitVec 11) (y : BitVec 2) : BitVec.extractLsb' 0 2 (x ++ y : BitVec 13) = y := by
  have h := field_low x y 0 2 (by decide)
  exact h.trans (field_all y)
@[simp] theorem part_11_2_2_11 (x : BitVec 11) (y : BitVec 2) : BitVec.extractLsb' 2 11 (x ++ y : BitVec 13) = x := by
  have h := field_high x y 2 11 (by decide)
  exact h.trans (field_all x)
@[simp] theorem part_1_12_0_12 (x : BitVec 1) (y : BitVec 12) : BitVec.extractLsb' 0 12 (x ++ y : BitVec 13) = y := by
  have h := field_low x y 0 12 (by decide)
  exact h.trans (field_all y)
@[simp] theorem part_1_12_12_1 (x : BitVec 1) (y : BitVec 12) : BitVec.extractLsb' 12 1 (x ++ y : BitVec 13) = x := by
  have h := field_high x y 12 1 (by decide)
  exact h.trans (field_all x)
@[simp] theorem part_8_6_0_6 (x : BitVec 8) (y : BitVec 6) : BitVec.extractLsb' 0 6 (x ++ y : BitVec 14) = y := by
  have h := field_low x y 0 6 (by decide)
  exact h.trans (field_all y)
@[simp] theorem part_8_6_6_8 (x : BitVec 8) (y : BitVec 6) : BitVec.extractLsb' 6 8 (x ++ y : BitVec 14) = x := by
  have h := field_high x y 6 8 (by decide)
  exact h.trans (field_all x)
@[simp] theorem part_7_7_0_7 (x : BitVec 7) (y : BitVec 7) : BitVec.extractLsb' 0 7 (x ++ y : BitVec 14) = y := by
  have h := field_low x y 0 7 (by decide)
  exact h.trans (field_all y)
@[simp] theorem part_7_7_7_7 (x : BitVec 7) (y : BitVec 7) : BitVec.extractLsb' 7 7 (x ++ y : BitVec 14) = x := by
  have h := field_high x y 7 7 (by decide)
  exact h.trans (field_all x)
@[simp] theorem part_13_1_0_1 (x : BitVec 13) (y : BitVec 1) : BitVec.extractLsb' 0 1 (x ++ y : BitVec 14) = y := by
  have h := field_low x y 0 1 (by decide)
  exact h.trans (field_all y)
@[simp] theorem part_13_1_1_13 (x : BitVec 13) (y : BitVec 1) : BitVec.extractLsb' 1 13 (x ++ y : BitVec 14) = x := by
  have h := field_high x y 1 13 (by decide)
  exact h.trans (field_all x)
@[simp] theorem part_13_1_1_3 (x : BitVec 13) (y : BitVec 1) : BitVec.extractLsb' 1 3 (x ++ y : BitVec 14) = x.extractLsb' 0 3 := by
  exact field_high x y 1 3 (by decide)
@[simp] theorem part_13_1_1_2 (x : BitVec 13) (y : BitVec 1) : BitVec.extractLsb' 1 2 (x ++ y : BitVec 14) = x.extractLsb' 0 2 := by
  exact field_high x y 1 2 (by decide)
@[simp] theorem part_13_1_4_10 (x : BitVec 13) (y : BitVec 1) : BitVec.extractLsb' 4 10 (x ++ y : BitVec 14) = x.extractLsb' 3 10 := by
  exact field_high x y 4 10 (by decide)
@[simp] theorem part_13_1_3_11 (x : BitVec 13) (y : BitVec 1) : BitVec.extractLsb' 3 11 (x ++ y : BitVec 14) = x.extractLsb' 2 11 := by
  exact field_high x y 3 11 (by decide)
@[simp] theorem part_10_4_0_4 (x : BitVec 10) (y : BitVec 4) : BitVec.extractLsb' 0 4 (x ++ y : BitVec 14) = y := by
  have h := field_low x y 0 4 (by decide)
  exact h.trans (field_all y)
@[simp] theorem part_10_4_4_4 (x : BitVec 10) (y : BitVec 4) : BitVec.extractLsb' 4 4 (x ++ y : BitVec 14) = x.extractLsb' 0 4 := by
  exact field_high x y 4 4 (by decide)
@[simp] theorem part_10_4_8_6 (x : BitVec 10) (y : BitVec 4) : BitVec.extractLsb' 8 6 (x ++ y : BitVec 14) = x.extractLsb' 4 6 := by
  exact field_high x y 8 6 (by decide)
@[simp] theorem part_6_4_0_4 (x : BitVec 6) (y : BitVec 4) : BitVec.extractLsb' 0 4 (x ++ y : BitVec 10) = y := by
  have h := field_low x y 0 4 (by decide)
  exact h.trans (field_all y)
@[simp] theorem part_6_4_4_6 (x : BitVec 6) (y : BitVec 4) : BitVec.extractLsb' 4 6 (x ++ y : BitVec 10) = x := by
  have h := field_high x y 4 6 (by decide)
  exact h.trans (field_all x)
@[simp] theorem part_10_1_0_1 (x : BitVec 10) (y : BitVec 1) : BitVec.extractLsb' 0 1 (x ++ y : BitVec 11) = y := by
  have h := field_low x y 0 1 (by decide)
  exact h.trans (field_all y)
@[simp] theorem part_10_1_1_10 (x : BitVec 10) (y : BitVec 1) : BitVec.extractLsb' 1 10 (x ++ y : BitVec 11) = x := by
  have h := field_high x y 1 10 (by decide)
  exact h.trans (field_all x)
@[simp] theorem part_9_2_0_2 (x : BitVec 9) (y : BitVec 2) : BitVec.extractLsb' 0 2 (x ++ y : BitVec 11) = y := by
  have h := field_low x y 0 2 (by decide)
  exact h.trans (field_all y)
@[simp] theorem part_9_2_2_9 (x : BitVec 9) (y : BitVec 2) : BitVec.extractLsb' 2 9 (x ++ y : BitVec 11) = x := by
  have h := field_high x y 2 9 (by decide)
  exact h.trans (field_all x)
@[simp] theorem part_8_3_0_3 (x : BitVec 8) (y : BitVec 3) : BitVec.extractLsb' 0 3 (x ++ y : BitVec 11) = y := by
  have h := field_low x y 0 3 (by decide)
  exact h.trans (field_all y)
@[simp] theorem part_8_3_3_8 (x : BitVec 8) (y : BitVec 3) : BitVec.extractLsb' 3 8 (x ++ y : BitVec 11) = x := by
  have h := field_high x y 3 8 (by decide)
  exact h.trans (field_all x)
@[simp] theorem part_7_4_0_4 (x : BitVec 7) (y : BitVec 4) : BitVec.extractLsb' 0 4 (x ++ y : BitVec 11) = y := by
  have h := field_low x y 0 4 (by decide)
  exact h.trans (field_all y)
@[simp] theorem part_7_4_4_7 (x : BitVec 7) (y : BitVec 4) : BitVec.extractLsb' 4 7 (x ++ y : BitVec 11) = x := by
  have h := field_high x y 4 7 (by decide)
  exact h.trans (field_all x)
@[simp] theorem part_4_7_0_7 (x : BitVec 4) (y : BitVec 7) : BitVec.extractLsb' 0 7 (x ++ y : BitVec 11) = y := by
  have h := field_low x y 0 7 (by decide)
  exact h.trans (field_all y)
@[simp] theorem part_4_7_7_1 (x : BitVec 4) (y : BitVec 7) : BitVec.extractLsb' 7 1 (x ++ y : BitVec 11) = x.extractLsb' 0 1 := by
  exact field_high x y 7 1 (by decide)
@[simp] theorem part_4_7_8_3 (x : BitVec 4) (y : BitVec 7) : BitVec.extractLsb' 8 3 (x ++ y : BitVec 11) = x.extractLsb' 1 3 := by
  exact field_high x y 8 3 (by decide)
@[simp] theorem part_4_7_7_4 (x : BitVec 4) (y : BitVec 7) : BitVec.extractLsb' 7 4 (x ++ y : BitVec 11) = x := by
  have h := field_high x y 7 4 (by decide)
  exact h.trans (field_all x)
@[simp] theorem part_3_8_0_8 (x : BitVec 3) (y : BitVec 8) : BitVec.extractLsb' 0 8 (x ++ y : BitVec 11) = y := by
  have h := field_low x y 0 8 (by decide)
  exact h.trans (field_all y)
@[simp] theorem part_3_8_8_3 (x : BitVec 3) (y : BitVec 8) : BitVec.extractLsb' 8 3 (x ++ y : BitVec 11) = x := by
  have h := field_high x y 8 3 (by decide)
  exact h.trans (field_all x)
@[simp] theorem part_3_1_0_1 (x : BitVec 3) (y : BitVec 1) : BitVec.extractLsb' 0 1 (x ++ y : BitVec 4) = y := by
  have h := field_low x y 0 1 (by decide)
  exact h.trans (field_all y)
@[simp] theorem part_3_1_1_3 (x : BitVec 3) (y : BitVec 1) : BitVec.extractLsb' 1 3 (x ++ y : BitVec 4) = x := by
  have h := field_high x y 1 3 (by decide)
  exact h.trans (field_all x)

theorem join_17 (o : BitVec 17) : (o.extractLsb' 13 4 ++ o.extractLsb' 0 13 : BitVec 17) = o := join_fields o 4 13 rfl

@[simp] theorem ctrl_low21 (op : BitVec 6) (d a b : BitVec 4) (i : BitVec 13) :
    (ctrlWord op d a b i).extractLsb' 0 21 = (a ++ b ++ i : BitVec 21) := by
  apply BitVec.eq_of_getLsbD_eq
  intro k hk
  simp only [ctrlWord, BitVec.getLsbD_extractLsb', BitVec.getLsbD_append, hk, decide_true, Bool.true_and, Nat.zero_add]
  by_cases h1 : k < 13
  · simp [h1]
  · by_cases h2 : k - 13 < 4
    · simp [h1, h2]
    · have h3 : k - 13 - 4 < 4 := by omega
      simp [h1, h2, h3]

theorem offset_21 (o : BitVec 21) : (o.extractLsb' 17 4 ++ o.extractLsb' 13 4 ++ o.extractLsb' 0 13 : BitVec 21) = o := by
  have h1 : (o.extractLsb' 17 4 ++ o.extractLsb' 13 4 : BitVec (4 + 4)) = o.extractLsb' 13 8 := by
    have h := join_fields (o.extractLsb' 13 8) 4 4 rfl
    rw [field_field _ _ _ _ _ (by decide), field_field _ _ _ _ _ (by decide)] at h
    exact h
  have h2 := join_fields o 8 13 rfl
  rw [h1]
  exact h2

/-- The word of `waitc` (R111). -/
def waitcWord (l s c m : BitVec 6) : BitVec 32 := (0#1 ++ 0x1A#6 ++ l ++ s ++ c ++ m ++ 0#1 : BitVec (1 + 6 + 6 + 6 + 6 + 6 + 1))

theorem waitc_word (l s c m : BitVec 6) :
    (0#1 ++ 0x1A#6 ++ l ++ s ++ c ++ m ++ 0#1 : BitVec (1 + 6 + 6 + 6 + 6 + 6 + 1)) = waitcWord l s c m := rfl
theorem waitc_op (l s c m : BitVec 6) : (waitcWord l s c m).extractLsb' 25 6 = 0x1A#6 := by
  simp (disch := omega) only [waitcWord, field_high, field_low]; exact field_all 0x1A#6
theorem waitc_l (l s c m : BitVec 6) : (waitcWord l s c m).extractLsb' 19 6 = l := by
  simp (disch := omega) only [waitcWord, field_high, field_low]; exact field_all l
theorem waitc_s (l s c m : BitVec 6) : (waitcWord l s c m).extractLsb' 13 6 = s := by
  simp (disch := omega) only [waitcWord, field_high, field_low]; exact field_all s
theorem waitc_c (l s c m : BitVec 6) : (waitcWord l s c m).extractLsb' 7 6 = c := by
  simp (disch := omega) only [waitcWord, field_high, field_low]; exact field_all c
theorem waitc_m (l s c m : BitVec 6) : (waitcWord l s c m).extractLsb' 1 6 = m := by
  simp (disch := omega) only [waitcWord, field_high, field_low]; exact field_all m
theorem waitc_z (l s c m : BitVec 6) : (waitcWord l s c m).extractLsb' 0 1 = 0#1 := by
  simp (disch := omega) only [waitcWord, field_low]; exact field_all 0#1

theorem fcvt_ok (t st : BitVec 4) (h : fcvtWf t st = true) : fcvtIllegal t st = false := by
  revert t st; decide

/-- The bundle of `li` (R117). -/
def liWord (d : Reg) (imm : BitVec 51) : BitVec 64 :=
  (imm.extractLsb' 0 32 ++ 1#1 ++ 0x01#8 ++ d ++ imm.extractLsb' 32 19 : BitVec (32 + 1 + 8 + 4 + 19))
theorem li_op (d : Reg) (imm : BitVec 51) : (liWord d imm).extractLsb' 23 8 = 0x01#8 := by
  simp (disch := omega) only [liWord, field_high, field_low]; exact field_all 0x01#8
theorem li_d (d : Reg) (imm : BitVec 51) : (liWord d imm).extractLsb' 19 4 = d := by
  simp (disch := omega) only [liWord, field_high, field_low]; exact field_all d
theorem li_hi (d : Reg) (imm : BitVec 51) : (liWord d imm).extractLsb' 0 19 = imm.extractLsb' 32 19 := by
  simp (disch := omega) only [liWord, field_low]; exact field_all _
theorem li_lo (d : Reg) (imm : BitVec 51) : (liWord d imm).extractLsb' 32 32 = imm.extractLsb' 0 32 := by
  simp (disch := omega) only [liWord, field_high]; exact field_all _
theorem li_back (d : Reg) (imm : BitVec 51) : decodeLong (liWord d imm) = .ok (.li d imm) := by
  have h : (imm.extractLsb' 32 19 ++ imm.extractLsb' 0 32 : BitVec 51) = imm := join_fields imm 19 32 rfl
  simp [decodeLong, li_op, li_d, li_hi, li_lo, h]

/-- The bundle of `lih` (R117). -/
def lihWord (d : Reg) (imm : BitVec 32) : BitVec 64 := (imm ++ 1#1 ++ 0x02#8 ++ d ++ 0#19 : BitVec (32 + 1 + 8 + 4 + 19))
theorem lih_op (d : Reg) (imm : BitVec 32) : (lihWord d imm).extractLsb' 23 8 = 0x02#8 := by
  simp (disch := omega) only [lihWord, field_high, field_low]; exact field_all 0x02#8
theorem lih_d (d : Reg) (imm : BitVec 32) : (lihWord d imm).extractLsb' 19 4 = d := by
  simp (disch := omega) only [lihWord, field_high, field_low]; exact field_all d
theorem lih_z (d : Reg) (imm : BitVec 32) : (lihWord d imm).extractLsb' 0 19 = 0#19 := by
  simp (disch := omega) only [lihWord, field_low]; exact field_all _
theorem lih_lo (d : Reg) (imm : BitVec 32) : (lihWord d imm).extractLsb' 32 32 = imm := by
  simp (disch := omega) only [lihWord, field_high]; exact field_all _
theorem lih_back (d : Reg) (imm : BitVec 32) : decodeLong (lihWord d imm) = .ok (.lih d imm) := by
  simp [decodeLong, firstBad, lih_op, lih_d, lih_z, lih_lo]

end Sys2Proof.Laws
end

