-- ==== Sys2Proof/Laws/Memory.lean ====
section
/-! SUPPORT. The laws of memory (log entry 2): reading after writing, and the canonical form that every memory operation keeps. -/

namespace Sys2Proof.Machine

/-! ### Reading after writing -/

/-- A byte reads as written; every other byte is left alone. -/
theorem Memory.get_set (m : List Host.Cell) (k j : Nat) (v : Byte) (h : Memory.wf m = true) :
    Memory.get (Memory.set m k v) j = if j = k then v else Memory.get m j := by
  suffices H : ∀ (m : List Host.Cell) (lo : Option Nat), Memory.above lo m = true →
      Memory.get (Memory.set m k v) j = if j = k then v else Memory.get m j from H m none h
  have low : ∀ (m : List Host.Cell) (lo i : Nat), Memory.above (some lo) m = true → i ≤ lo → Memory.get m i = Memory.unlisted := by
    intro m
    induction m with
    | nil => intro lo i _ _; rfl
    | cons c r ih =>
      intro lo i h hi
      obtain ⟨a, b⟩ := c
      simp only [Memory.above, Bool.and_eq_true, decide_eq_true_eq] at h
      simp only [Memory.get]
      rw [if_neg (by omega)]
      exact ih a i h.2 (by omega)
  intro m
  induction m with
  | nil =>
    intro lo _
    by_cases hv : v = Memory.unlisted
    · simp [Memory.set, Memory.get, hv]
    · simp only [Memory.set, hv, if_false, Memory.get]
      by_cases hj : j = k
      · simp [hj]
      · rw [if_neg (fun e => hj e.symm), if_neg hj]
  | cons c r ih =>
    intro lo h
    obtain ⟨a, b⟩ := c
    simp only [Memory.above, Bool.and_eq_true] at h
    simp only [Memory.set]
    by_cases h1 : k < a
    · rw [if_pos h1]
      by_cases hv : v = Memory.unlisted
      · rw [if_pos hv]
        by_cases hj : j = k
        · rw [if_pos hj, hj, hv]
          simp only [Memory.get]
          rw [if_neg (by omega)]
          exact low r a k h.2 (by omega)
        · rw [if_neg hj]
      · rw [if_neg hv]
        simp only [Memory.get]
        by_cases hj : j = k
        · rw [if_pos hj.symm, if_pos hj]
        · rw [if_neg (fun e => hj e.symm), if_neg hj]
    · rw [if_neg h1]
      by_cases h2 : k = a
      · rw [if_pos h2]
        by_cases hv : v = Memory.unlisted
        · rw [if_pos hv]
          by_cases hj : j = k
          · rw [if_pos hj, hj, hv]
            exact low r a k h.2 (by omega)
          · rw [if_neg hj]
            simp only [Memory.get]
            rw [if_neg (by omega)]
        · rw [if_neg hv]
          simp only [Memory.get]
          by_cases hj : j = k
          · rw [if_pos hj.symm, if_pos hj]
          · rw [if_neg (fun e => hj e.symm), if_neg hj, if_neg (by omega)]
      · rw [if_neg h2]
        simp only [Memory.get]
        by_cases ha : a = j
        · rw [if_pos ha, if_pos ha, if_neg (by omega)]
        · rw [if_neg ha, if_neg ha]
          exact ih (some a) h.2

/-! ### The canonical form -/

/-- Keys above one bound lie above every smaller bound. -/
theorem Memory.above_mono (m : List Host.Cell) (lo : Option Nat) (k : Nat) (hk : match lo with | none => True | some l => l ≤ k)
    (h : Memory.above (some k) m = true) : Memory.above lo m = true := by
  cases m with
  | nil => rfl
  | cons c r =>
    obtain ⟨a, b⟩ := c
    simp only [Memory.above, Bool.and_eq_true, decide_eq_true_eq] at h ⊢
    refine ⟨⟨?_, h.1.2⟩, h.2⟩
    cases lo with
    | none => rfl
    | some l => exact decide_eq_true (Nat.lt_of_le_of_lt hk h.1.1)

/-- A byte put above a bound keeps every key above it. -/
theorem Memory.above_set (m : List Host.Cell) (lo : Option Nat) (k : Nat) (v : Byte) (h : Memory.above lo m = true)
    (hk : match lo with | none => True | some l => l < k) : Memory.above lo (Memory.set m k v) = true := by
  induction m generalizing lo with
  | nil =>
    by_cases hv : v = Memory.unlisted
    · simp [Memory.set, hv, Memory.above]
    · rw [Memory.set, if_neg hv]
      simp only [Memory.above, Bool.and_true, Bool.and_eq_true, bne_iff_ne, ne_eq]
      refine ⟨?_, hv⟩
      cases lo with
      | none => rfl
      | some l => exact decide_eq_true hk
  | cons c r ih =>
    obtain ⟨a, b⟩ := c
    have h0 := h
    simp only [Memory.above, Bool.and_eq_true, bne_iff_ne, ne_eq] at h
    simp only [Memory.set]
    split
    · rename_i h1
      split
      · exact h0
      · rename_i hv
        simp only [Memory.above, Bool.and_eq_true, bne_iff_ne, ne_eq, decide_eq_true_eq]
        refine ⟨⟨?_, hv⟩, ⟨h1, h.1.2⟩, h.2⟩
        cases lo <;> simp_all
    · split
      · rename_i h1 h2
        subst h2
        split
        · cases lo with
          | none => exact Memory.above_mono r none k trivial h.2
          | some l => exact Memory.above_mono r (some l) k (Nat.le_of_lt hk) h.2
        · rename_i hv
          simp only [Memory.above, Bool.and_eq_true, bne_iff_ne, ne_eq]
          exact ⟨⟨h.1.1, hv⟩, h.2⟩
      · rename_i h1 h2
        simp only [Memory.above, Bool.and_eq_true, bne_iff_ne, ne_eq]
        exact ⟨h.1, ih (some a) h.2 (by show a < k; omega)⟩
/-- A byte written keeps the canonical form. -/
theorem Memory.wf_set (m : List Host.Cell) (k : Nat) (v : Byte) (h : Memory.wf m = true) : Memory.wf (Memory.set m k v) = true :=
  Memory.above_set m none k v h trivial

/-- Several bytes written keep the canonical form. -/
theorem Memory.wf_store (m : List Host.Cell) (k v n : Nat) (h : Memory.wf m = true) : Memory.wf (Memory.store m k v n) = true := by
  induction n generalizing m k v with
  | zero => exact h
  | succ n ih => exact ih _ _ _ (Memory.wf_set m k _ h)

/-- Dropping entries keeps the canonical form above a bound. -/
theorem Memory.above_keep (p : Nat → Bool) (m : List Host.Cell) (lo : Option Nat) (h : Memory.above lo m = true) :
    Memory.above lo (Memory.keep p m) = true := by
  induction m generalizing lo with
  | nil => rfl
  | cons c r ih =>
    obtain ⟨a, b⟩ := c
    have h0 := h
    simp only [Memory.above, Bool.and_eq_true] at h
    by_cases hp : p a = true
    · simp only [Memory.keep, List.filter, hp, Memory.above, Bool.and_eq_true]
      exact ⟨h.1, ih (some a) h.2⟩
    · simp only [Memory.keep, List.filter, hp]
      apply ih lo
      cases lo with
      | none => exact Memory.above_mono r none a trivial h.2
      | some l => exact Memory.above_mono r (some l) a (Nat.le_of_lt (of_decide_eq_true h.1.1)) h.2

/-- Dropping entries keeps the canonical form. -/
theorem Memory.wf_keep (p : Nat → Bool) (m : List Host.Cell) (h : Memory.wf m = true) : Memory.wf (Memory.keep p m) = true :=
  Memory.above_keep p m none h

/-- Bytes put one after another, each by `Memory.set`, keep the canonical form. -/
theorem Memory.wf_foldl {α : Type} (key : α → Nat) (val : α → Byte) (l : List α) (m : List Host.Cell) (h : Memory.wf m = true) :
    Memory.wf (l.foldl (fun m c => Memory.set m (key c) (val c)) m) = true := by
  induction l generalizing m with
  | nil => exact h
  | cons c r ih => exact ih _ (Memory.wf_set m _ _ h)

/-- A store of the machine keeps the canonical form. -/
theorem State.store_wf (s : State) (k n v : Nat) (h : Memory.wf s.mem = true) : Memory.wf (s.store k n v).mem = true :=
  Memory.wf_store s.mem k v n h

/-- Bytes put from a list keep the canonical form. -/
theorem Memory.wf_put (m : List Host.Cell) (k : Nat) (l : List Byte) (h : Memory.wf m = true) : Memory.wf (Memory.put m k l) = true := by
  induction l generalizing m k with
  | nil => exact h
  | cons b r ih => exact ih _ _ (Memory.wf_set m k b h)

/-- So do the device's writes for the host. -/
theorem State.deviceStore_wf (s : State) (k n v : Nat) (h : Memory.wf s.mem = true) : Memory.wf (s.deviceStore k n v).mem = true :=
  Memory.wf_store s.mem k v n h

theorem State.storeBytes_wf (s : State) (k : Nat) (l : List Byte) (h : Memory.wf s.mem = true) :
    Memory.wf (s.storeBytes k l).mem = true := Memory.wf_put s.mem k l h

/-- The memory at reset is canonical. -/
theorem State.reset_wf : Memory.wf State.reset.mem = true := rfl

/-- A byte outside a store reads as before (log entry 2). -/
theorem Memory.get_store (m : List Host.Cell) (k v n j : Nat) (h : Memory.wf m = true) (hj : j < k ∨ k + n ≤ j) :
    Memory.get (Memory.store m k v n) j = Memory.get m j := by
  induction n generalizing m k v with
  | zero => rfl
  | succ n ih =>
    simp only [Memory.store]
    rw [ih _ _ _ (Memory.wf_set m k _ h) (by omega), Memory.get_set m k j _ h, if_neg (by omega)]

/-- A byte inside a store reads as stored, little-endian (R3). -/
theorem Memory.get_store_in (m : List Host.Cell) (k v n j : Nat) (h : Memory.wf m = true) (h1 : k ≤ j) (h2 : j < k + n) :
    Memory.get (Memory.store m k v n) j = BitVec.ofNat 8 (v / 256 ^ (j - k)) := by
  induction n generalizing m k v with
  | zero => omega
  | succ n ih =>
    simp only [Memory.store]
    by_cases hj : j = k
    · subst hj
      rw [Memory.get_store _ _ _ _ _ (Memory.wf_set m j _ h) (by omega), Memory.get_set m j j _ h]
      simp
    · rw [ih _ _ _ (Memory.wf_set m k _ h) (by omega) (by omega), Nat.div_div_eq_div_mul]
      have e : j - k = (j - (k + 1)) + 1 := by omega
      rw [e, Nat.pow_succ, Nat.mul_comm]

end Sys2Proof.Machine
end

