-- ==== Sys2Proof/Laws/State.lean ====
section
/-! SUPPORT. One lemma per field per update of the state, so that no later proof unfolds a record update. -/

namespace Sys2Proof.Machine

/-! ### `State.setReg` -/

@[simp] theorem State.setReg_cycle (s : State) (d : Reg) (v : Word) : (s.setReg d v).cycle = s.cycle := rfl
@[simp] theorem State.setReg_cur (s : State) (d : Reg) (v : Word) : (s.setReg d v).cur = s.cur.setReg d v := rfl
@[simp] theorem State.setReg_rest (s : State) (d : Reg) (v : Word) : (s.setReg d v).rest = s.rest := rfl
@[simp] theorem State.setReg_teams (s : State) (d : Reg) (v : Word) : (s.setReg d v).teams = s.teams := rfl
@[simp] theorem State.setReg_grids (s : State) (d : Reg) (v : Word) : (s.setReg d v).grids = s.grids := rfl
@[simp] theorem State.setReg_cores (s : State) (d : Reg) (v : Word) : (s.setReg d v).cores = s.cores := rfl
@[simp] theorem State.setReg_clusters (s : State) (d : Reg) (v : Word) : (s.setReg d v).clusters = s.clusters := rfl
@[simp] theorem State.setReg_banks (s : State) (d : Reg) (v : Word) : (s.setReg d v).banks = s.banks := rfl
@[simp] theorem State.setReg_queues (s : State) (d : Reg) (v : Word) : (s.setReg d v).queues = s.queues := rfl
@[simp] theorem State.setReg_copies (s : State) (d : Reg) (v : Word) : (s.setReg d v).copies = s.copies := rfl
@[simp] theorem State.setReg_mem (s : State) (d : Reg) (v : Word) : (s.setReg d v).mem = s.mem := rfl
@[simp] theorem State.setReg_empty (s : State) (d : Reg) (v : Word) : (s.setReg d v).empty = s.empty := rfl
@[simp] theorem State.setReg_poison (s : State) (d : Reg) (v : Word) : (s.setReg d v).poison = s.poison := rfl
@[simp] theorem State.setReg_soft (s : State) (d : Reg) (v : Word) : (s.setReg d v).soft = s.soft := rfl
@[simp] theorem State.setReg_keepDurable (s : State) (d : Reg) (v : Word) : (s.setReg d v).keepDurable = s.keepDurable := rfl
@[simp] theorem State.setReg_keepEmpty (s : State) (d : Reg) (v : Word) : (s.setReg d v).keepEmpty = s.keepEmpty := rfl
@[simp] theorem State.setReg_keepPending (s : State) (d : Reg) (v : Word) : (s.setReg d v).keepPending = s.keepPending := rfl
@[simp] theorem State.setReg_fabric (s : State) (d : Reg) (v : Word) : (s.setReg d v).fabric = s.fabric := rfl
@[simp] theorem State.setReg_tlb (s : State) (d : Reg) (v : Word) : (s.setReg d v).tlb = s.tlb := rfl
@[simp] theorem State.setReg_lines (s : State) (d : Reg) (v : Word) : (s.setReg d v).lines = s.lines := rfl
@[simp] theorem State.setReg_fs (s : State) (d : Reg) (v : Word) : (s.setReg d v).fs = s.fs := rfl
@[simp] theorem State.setReg_host (s : State) (d : Reg) (v : Word) : (s.setReg d v).host = s.host := rfl
@[simp] theorem State.setReg_corrected (s : State) (d : Reg) (v : Word) : (s.setReg d v).corrected = s.corrected := rfl
@[simp] theorem State.setReg_reach (s : State) (d : Reg) (v : Word) : (s.setReg d v).reach = s.reach := rfl
@[simp] theorem State.setReg_nolend (s : State) (d : Reg) (v : Word) : (s.setReg d v).nolend = s.nolend := rfl
@[simp] theorem State.setReg_linksDown (s : State) (d : Reg) (v : Word) : (s.setReg d v).linksDown = s.linksDown := rfl
@[simp] theorem State.setReg_linkErrors (s : State) (d : Reg) (v : Word) : (s.setReg d v).linkErrors = s.linkErrors := rfl
@[simp] theorem State.setReg_sensors (s : State) (d : Reg) (v : Word) : (s.setReg d v).sensors = s.sensors := rfl
@[simp] theorem State.setReg_spares (s : State) (d : Reg) (v : Word) : (s.setReg d v).spares = s.spares := rfl
@[simp] theorem State.setReg_keepSpares (s : State) (d : Reg) (v : Word) : (s.setReg d v).keepSpares = s.keepSpares := rfl
@[simp] theorem State.setReg_mramBad (s : State) (d : Reg) (v : Word) : (s.setReg d v).mramBad = s.mramBad := rfl
@[simp] theorem State.setReg_gateReq (s : State) (d : Reg) (v : Word) : (s.setReg d v).gateReq = s.gateReq := rfl
@[simp] theorem State.setReg_firmware (s : State) (d : Reg) (v : Word) : (s.setReg d v).firmware = s.firmware := rfl
@[simp] theorem State.setReg_powered (s : State) (d : Reg) (v : Word) : (s.setReg d v).powered = s.powered := rfl
@[simp] theorem State.setReg_exchanges (s : State) (d : Reg) (v : Word) : (s.setReg d v).exchanges = s.exchanges := rfl
@[simp] theorem State.setReg_agenda (s : State) (d : Reg) (v : Word) : (s.setReg d v).agenda = s.agenda := rfl
@[simp] theorem State.setReg_background (s : State) (d : Reg) (v : Word) : (s.setReg d v).background = s.background := rfl
@[simp] theorem State.setReg_oracle (s : State) (d : Reg) (v : Word) : (s.setReg d v).oracle = s.oracle := rfl
@[simp] theorem State.setReg_fresh (s : State) (d : Reg) (v : Word) : (s.setReg d v).fresh = s.fresh := rfl
@[simp] theorem State.setReg_issued (s : State) (d : Reg) (v : Word) : (s.setReg d v).issued = s.issued := rfl
@[simp] theorem State.setReg_aborted (s : State) (d : Reg) (v : Word) : (s.setReg d v).aborted = s.aborted := rfl
@[simp] theorem State.setReg_chunkWrites (s : State) (d : Reg) (v : Word) : (s.setReg d v).chunkWrites = s.chunkWrites := rfl

/-! ### `State.advance` -/

@[simp] theorem State.advance_cycle (s : State) : (s.advance).cycle = s.cycle := rfl
@[simp] theorem State.advance_cur (s : State) : (s.advance).cur = { s.cur with pc := s.cur.pc + 8 } := rfl
@[simp] theorem State.advance_rest (s : State) : (s.advance).rest = s.rest := rfl
@[simp] theorem State.advance_teams (s : State) : (s.advance).teams = s.teams := rfl
@[simp] theorem State.advance_grids (s : State) : (s.advance).grids = s.grids := rfl
@[simp] theorem State.advance_cores (s : State) : (s.advance).cores = s.cores := rfl
@[simp] theorem State.advance_clusters (s : State) : (s.advance).clusters = s.clusters := rfl
@[simp] theorem State.advance_banks (s : State) : (s.advance).banks = s.banks := rfl
@[simp] theorem State.advance_queues (s : State) : (s.advance).queues = s.queues := rfl
@[simp] theorem State.advance_copies (s : State) : (s.advance).copies = s.copies := rfl
@[simp] theorem State.advance_mem (s : State) : (s.advance).mem = s.mem := rfl
@[simp] theorem State.advance_empty (s : State) : (s.advance).empty = s.empty := rfl
@[simp] theorem State.advance_poison (s : State) : (s.advance).poison = s.poison := rfl
@[simp] theorem State.advance_soft (s : State) : (s.advance).soft = s.soft := rfl
@[simp] theorem State.advance_keepDurable (s : State) : (s.advance).keepDurable = s.keepDurable := rfl
@[simp] theorem State.advance_keepEmpty (s : State) : (s.advance).keepEmpty = s.keepEmpty := rfl
@[simp] theorem State.advance_keepPending (s : State) : (s.advance).keepPending = s.keepPending := rfl
@[simp] theorem State.advance_fabric (s : State) : (s.advance).fabric = s.fabric := rfl
@[simp] theorem State.advance_tlb (s : State) : (s.advance).tlb = s.tlb := rfl
@[simp] theorem State.advance_lines (s : State) : (s.advance).lines = s.lines := rfl
@[simp] theorem State.advance_fs (s : State) : (s.advance).fs = s.fs := rfl
@[simp] theorem State.advance_host (s : State) : (s.advance).host = s.host := rfl
@[simp] theorem State.advance_corrected (s : State) : (s.advance).corrected = s.corrected := rfl
@[simp] theorem State.advance_reach (s : State) : (s.advance).reach = s.reach := rfl
@[simp] theorem State.advance_nolend (s : State) : (s.advance).nolend = s.nolend := rfl
@[simp] theorem State.advance_linksDown (s : State) : (s.advance).linksDown = s.linksDown := rfl
@[simp] theorem State.advance_linkErrors (s : State) : (s.advance).linkErrors = s.linkErrors := rfl
@[simp] theorem State.advance_sensors (s : State) : (s.advance).sensors = s.sensors := rfl
@[simp] theorem State.advance_spares (s : State) : (s.advance).spares = s.spares := rfl
@[simp] theorem State.advance_keepSpares (s : State) : (s.advance).keepSpares = s.keepSpares := rfl
@[simp] theorem State.advance_mramBad (s : State) : (s.advance).mramBad = s.mramBad := rfl
@[simp] theorem State.advance_gateReq (s : State) : (s.advance).gateReq = s.gateReq := rfl
@[simp] theorem State.advance_firmware (s : State) : (s.advance).firmware = s.firmware := rfl
@[simp] theorem State.advance_powered (s : State) : (s.advance).powered = s.powered := rfl
@[simp] theorem State.advance_exchanges (s : State) : (s.advance).exchanges = s.exchanges := rfl
@[simp] theorem State.advance_agenda (s : State) : (s.advance).agenda = s.agenda := rfl
@[simp] theorem State.advance_background (s : State) : (s.advance).background = s.background := rfl
@[simp] theorem State.advance_oracle (s : State) : (s.advance).oracle = s.oracle := rfl
@[simp] theorem State.advance_fresh (s : State) : (s.advance).fresh = s.fresh := rfl
@[simp] theorem State.advance_issued (s : State) : (s.advance).issued = s.issued := rfl
@[simp] theorem State.advance_aborted (s : State) : (s.advance).aborted = s.aborted := rfl
@[simp] theorem State.advance_chunkWrites (s : State) : (s.advance).chunkWrites = s.chunkWrites := rfl

/-! ### `State.await` -/

@[simp] theorem State.await_cycle (s : State) (w : Wait) : (s.await w).cycle = s.cycle := rfl
@[simp] theorem State.await_cur (s : State) (w : Wait) : (s.await w).cur = { s.cur with wait := w } := rfl
@[simp] theorem State.await_rest (s : State) (w : Wait) : (s.await w).rest = s.rest := rfl
@[simp] theorem State.await_teams (s : State) (w : Wait) : (s.await w).teams = s.teams := rfl
@[simp] theorem State.await_grids (s : State) (w : Wait) : (s.await w).grids = s.grids := rfl
@[simp] theorem State.await_cores (s : State) (w : Wait) : (s.await w).cores = s.cores := rfl
@[simp] theorem State.await_clusters (s : State) (w : Wait) : (s.await w).clusters = s.clusters := rfl
@[simp] theorem State.await_banks (s : State) (w : Wait) : (s.await w).banks = s.banks := rfl
@[simp] theorem State.await_queues (s : State) (w : Wait) : (s.await w).queues = s.queues := rfl
@[simp] theorem State.await_copies (s : State) (w : Wait) : (s.await w).copies = s.copies := rfl
@[simp] theorem State.await_mem (s : State) (w : Wait) : (s.await w).mem = s.mem := rfl
@[simp] theorem State.await_empty (s : State) (w : Wait) : (s.await w).empty = s.empty := rfl
@[simp] theorem State.await_poison (s : State) (w : Wait) : (s.await w).poison = s.poison := rfl
@[simp] theorem State.await_soft (s : State) (w : Wait) : (s.await w).soft = s.soft := rfl
@[simp] theorem State.await_keepDurable (s : State) (w : Wait) : (s.await w).keepDurable = s.keepDurable := rfl
@[simp] theorem State.await_keepEmpty (s : State) (w : Wait) : (s.await w).keepEmpty = s.keepEmpty := rfl
@[simp] theorem State.await_keepPending (s : State) (w : Wait) : (s.await w).keepPending = s.keepPending := rfl
@[simp] theorem State.await_fabric (s : State) (w : Wait) : (s.await w).fabric = s.fabric := rfl
@[simp] theorem State.await_tlb (s : State) (w : Wait) : (s.await w).tlb = s.tlb := rfl
@[simp] theorem State.await_lines (s : State) (w : Wait) : (s.await w).lines = s.lines := rfl
@[simp] theorem State.await_fs (s : State) (w : Wait) : (s.await w).fs = s.fs := rfl
@[simp] theorem State.await_host (s : State) (w : Wait) : (s.await w).host = s.host := rfl
@[simp] theorem State.await_corrected (s : State) (w : Wait) : (s.await w).corrected = s.corrected := rfl
@[simp] theorem State.await_reach (s : State) (w : Wait) : (s.await w).reach = s.reach := rfl
@[simp] theorem State.await_nolend (s : State) (w : Wait) : (s.await w).nolend = s.nolend := rfl
@[simp] theorem State.await_linksDown (s : State) (w : Wait) : (s.await w).linksDown = s.linksDown := rfl
@[simp] theorem State.await_linkErrors (s : State) (w : Wait) : (s.await w).linkErrors = s.linkErrors := rfl
@[simp] theorem State.await_sensors (s : State) (w : Wait) : (s.await w).sensors = s.sensors := rfl
@[simp] theorem State.await_spares (s : State) (w : Wait) : (s.await w).spares = s.spares := rfl
@[simp] theorem State.await_keepSpares (s : State) (w : Wait) : (s.await w).keepSpares = s.keepSpares := rfl
@[simp] theorem State.await_mramBad (s : State) (w : Wait) : (s.await w).mramBad = s.mramBad := rfl
@[simp] theorem State.await_gateReq (s : State) (w : Wait) : (s.await w).gateReq = s.gateReq := rfl
@[simp] theorem State.await_firmware (s : State) (w : Wait) : (s.await w).firmware = s.firmware := rfl
@[simp] theorem State.await_powered (s : State) (w : Wait) : (s.await w).powered = s.powered := rfl
@[simp] theorem State.await_exchanges (s : State) (w : Wait) : (s.await w).exchanges = s.exchanges := rfl
@[simp] theorem State.await_agenda (s : State) (w : Wait) : (s.await w).agenda = s.agenda := rfl
@[simp] theorem State.await_background (s : State) (w : Wait) : (s.await w).background = s.background := rfl
@[simp] theorem State.await_oracle (s : State) (w : Wait) : (s.await w).oracle = s.oracle := rfl
@[simp] theorem State.await_fresh (s : State) (w : Wait) : (s.await w).fresh = s.fresh := rfl
@[simp] theorem State.await_issued (s : State) (w : Wait) : (s.await w).issued = s.issued := rfl
@[simp] theorem State.await_aborted (s : State) (w : Wait) : (s.await w).aborted = s.aborted := rfl
@[simp] theorem State.await_chunkWrites (s : State) (w : Wait) : (s.await w).chunkWrites = s.chunkWrites := rfl

/-! ### `State.hold` -/

@[simp] theorem State.hold_cycle (s : State) : (s.hold).cycle = s.cycle := rfl
@[simp] theorem State.hold_cur (s : State) : (s.hold).cur = s.cur := rfl
@[simp] theorem State.hold_rest (s : State) : (s.hold).rest = s.rest := rfl
@[simp] theorem State.hold_teams (s : State) : (s.hold).teams = s.teams := rfl
@[simp] theorem State.hold_grids (s : State) : (s.hold).grids = s.grids := rfl
@[simp] theorem State.hold_cores (s : State) : (s.hold).cores = s.cores := rfl
@[simp] theorem State.hold_clusters (s : State) : (s.hold).clusters = s.clusters := rfl
@[simp] theorem State.hold_banks (s : State) : (s.hold).banks = s.banks := rfl
@[simp] theorem State.hold_queues (s : State) : (s.hold).queues = s.queues := rfl
@[simp] theorem State.hold_copies (s : State) : (s.hold).copies = s.copies := rfl
@[simp] theorem State.hold_mem (s : State) : (s.hold).mem = s.mem := rfl
@[simp] theorem State.hold_empty (s : State) : (s.hold).empty = s.empty := rfl
@[simp] theorem State.hold_poison (s : State) : (s.hold).poison = s.poison := rfl
@[simp] theorem State.hold_soft (s : State) : (s.hold).soft = s.soft := rfl
@[simp] theorem State.hold_keepDurable (s : State) : (s.hold).keepDurable = s.keepDurable := rfl
@[simp] theorem State.hold_keepEmpty (s : State) : (s.hold).keepEmpty = s.keepEmpty := rfl
@[simp] theorem State.hold_keepPending (s : State) : (s.hold).keepPending = s.keepPending := rfl
@[simp] theorem State.hold_fabric (s : State) : (s.hold).fabric = s.fabric := rfl
@[simp] theorem State.hold_tlb (s : State) : (s.hold).tlb = s.tlb := rfl
@[simp] theorem State.hold_lines (s : State) : (s.hold).lines = s.lines := rfl
@[simp] theorem State.hold_fs (s : State) : (s.hold).fs = s.fs := rfl
@[simp] theorem State.hold_host (s : State) : (s.hold).host = s.host := rfl
@[simp] theorem State.hold_corrected (s : State) : (s.hold).corrected = s.corrected := rfl
@[simp] theorem State.hold_reach (s : State) : (s.hold).reach = s.reach := rfl
@[simp] theorem State.hold_nolend (s : State) : (s.hold).nolend = s.nolend := rfl
@[simp] theorem State.hold_linksDown (s : State) : (s.hold).linksDown = s.linksDown := rfl
@[simp] theorem State.hold_linkErrors (s : State) : (s.hold).linkErrors = s.linkErrors := rfl
@[simp] theorem State.hold_sensors (s : State) : (s.hold).sensors = s.sensors := rfl
@[simp] theorem State.hold_spares (s : State) : (s.hold).spares = s.spares := rfl
@[simp] theorem State.hold_keepSpares (s : State) : (s.hold).keepSpares = s.keepSpares := rfl
@[simp] theorem State.hold_mramBad (s : State) : (s.hold).mramBad = s.mramBad := rfl
@[simp] theorem State.hold_gateReq (s : State) : (s.hold).gateReq = s.gateReq := rfl
@[simp] theorem State.hold_firmware (s : State) : (s.hold).firmware = s.firmware := rfl
@[simp] theorem State.hold_powered (s : State) : (s.hold).powered = s.powered := rfl
@[simp] theorem State.hold_exchanges (s : State) : (s.hold).exchanges = s.exchanges := rfl
@[simp] theorem State.hold_agenda (s : State) : (s.hold).agenda = s.agenda := rfl
@[simp] theorem State.hold_background (s : State) : (s.hold).background = s.background := rfl
@[simp] theorem State.hold_oracle (s : State) : (s.hold).oracle = s.oracle := rfl
@[simp] theorem State.hold_fresh (s : State) : (s.hold).fresh = s.fresh := rfl
@[simp] theorem State.hold_issued (s : State) : (s.hold).issued = s.issued := rfl
@[simp] theorem State.hold_aborted (s : State) : (s.hold).aborted = true := rfl
@[simp] theorem State.hold_chunkWrites (s : State) : (s.hold).chunkWrites = s.chunkWrites := rfl

/-! ### `State.store` -/

@[simp] theorem State.store_cycle (s : State) (k n v : Nat) : (s.store k n v).cycle = s.cycle := rfl
@[simp] theorem State.store_cur (s : State) (k n v : Nat) : (s.store k n v).cur = s.cur := rfl
@[simp] theorem State.store_rest (s : State) (k n v : Nat) : (s.store k n v).rest = s.rest := rfl
@[simp] theorem State.store_teams (s : State) (k n v : Nat) : (s.store k n v).teams = s.teams := rfl
@[simp] theorem State.store_grids (s : State) (k n v : Nat) : (s.store k n v).grids = s.grids := rfl
@[simp] theorem State.store_cores (s : State) (k n v : Nat) : (s.store k n v).cores = s.cores := rfl
@[simp] theorem State.store_clusters (s : State) (k n v : Nat) : (s.store k n v).clusters = s.clusters := rfl
@[simp] theorem State.store_banks (s : State) (k n v : Nat) : (s.store k n v).banks = s.banks := rfl
@[simp] theorem State.store_queues (s : State) (k n v : Nat) : (s.store k n v).queues = s.queues := rfl
@[simp] theorem State.store_copies (s : State) (k n v : Nat) : (s.store k n v).copies = s.copies := rfl
@[simp] theorem State.store_mem (s : State) (k n v : Nat) : (s.store k n v).mem = Memory.store s.mem k v n := rfl
@[simp] theorem State.store_empty (s : State) (k n v : Nat) : (s.store k n v).empty = s.empty := rfl
@[simp] theorem State.store_keepDurable (s : State) (k n v : Nat) : (s.store k n v).keepDurable = s.keepDurable := rfl
@[simp] theorem State.store_keepEmpty (s : State) (k n v : Nat) : (s.store k n v).keepEmpty = s.keepEmpty := rfl
@[simp] theorem State.store_keepPending (s : State) (k n v : Nat) : (s.store k n v).keepPending = s.keepPending := rfl
@[simp] theorem State.store_fabric (s : State) (k n v : Nat) : (s.store k n v).fabric = s.fabric := rfl
@[simp] theorem State.store_tlb (s : State) (k n v : Nat) : (s.store k n v).tlb = s.tlb := rfl
@[simp] theorem State.store_lines (s : State) (k n v : Nat) : (s.store k n v).lines = s.lines := rfl
@[simp] theorem State.store_fs (s : State) (k n v : Nat) : (s.store k n v).fs = s.fs := rfl
@[simp] theorem State.store_host (s : State) (k n v : Nat) : (s.store k n v).host = s.host := rfl
@[simp] theorem State.store_corrected (s : State) (k n v : Nat) : (s.store k n v).corrected = s.corrected := rfl
@[simp] theorem State.store_reach (s : State) (k n v : Nat) : (s.store k n v).reach = s.reach := rfl
@[simp] theorem State.store_nolend (s : State) (k n v : Nat) : (s.store k n v).nolend = s.nolend := rfl
@[simp] theorem State.store_linksDown (s : State) (k n v : Nat) : (s.store k n v).linksDown = s.linksDown := rfl
@[simp] theorem State.store_linkErrors (s : State) (k n v : Nat) : (s.store k n v).linkErrors = s.linkErrors := rfl
@[simp] theorem State.store_sensors (s : State) (k n v : Nat) : (s.store k n v).sensors = s.sensors := rfl
@[simp] theorem State.store_spares (s : State) (k n v : Nat) : (s.store k n v).spares = s.spares := rfl
@[simp] theorem State.store_keepSpares (s : State) (k n v : Nat) : (s.store k n v).keepSpares = s.keepSpares := rfl
@[simp] theorem State.store_mramBad (s : State) (k n v : Nat) : (s.store k n v).mramBad = s.mramBad := rfl
@[simp] theorem State.store_gateReq (s : State) (k n v : Nat) : (s.store k n v).gateReq = s.gateReq := rfl
@[simp] theorem State.store_firmware (s : State) (k n v : Nat) : (s.store k n v).firmware = s.firmware := rfl
@[simp] theorem State.store_powered (s : State) (k n v : Nat) : (s.store k n v).powered = s.powered := rfl
@[simp] theorem State.store_exchanges (s : State) (k n v : Nat) : (s.store k n v).exchanges = s.exchanges := rfl
@[simp] theorem State.store_agenda (s : State) (k n v : Nat) : (s.store k n v).agenda = s.agenda := rfl
@[simp] theorem State.store_background (s : State) (k n v : Nat) : (s.store k n v).background = s.background := rfl
@[simp] theorem State.store_oracle (s : State) (k n v : Nat) : (s.store k n v).oracle = s.oracle := rfl
@[simp] theorem State.store_fresh (s : State) (k n v : Nat) : (s.store k n v).fresh = s.fresh := rfl
@[simp] theorem State.store_issued (s : State) (k n v : Nat) : (s.store k n v).issued = s.issued := rfl
@[simp] theorem State.store_aborted (s : State) (k n v : Nat) : (s.store k n v).aborted = s.aborted := rfl
@[simp] theorem State.store_chunkWrites (s : State) (k n v : Nat) : (s.store k n v).chunkWrites = s.chunkWrites := rfl

/-! ### `State.setFull` -/

@[simp] theorem State.setFull_cycle (s : State) (k : Nat) (v : Bool) : (s.setFull k v).cycle = s.cycle := rfl
@[simp] theorem State.setFull_cur (s : State) (k : Nat) (v : Bool) : (s.setFull k v).cur = s.cur := rfl
@[simp] theorem State.setFull_rest (s : State) (k : Nat) (v : Bool) : (s.setFull k v).rest = s.rest := rfl
@[simp] theorem State.setFull_teams (s : State) (k : Nat) (v : Bool) : (s.setFull k v).teams = s.teams := rfl
@[simp] theorem State.setFull_grids (s : State) (k : Nat) (v : Bool) : (s.setFull k v).grids = s.grids := rfl
@[simp] theorem State.setFull_cores (s : State) (k : Nat) (v : Bool) : (s.setFull k v).cores = s.cores := rfl
@[simp] theorem State.setFull_clusters (s : State) (k : Nat) (v : Bool) : (s.setFull k v).clusters = s.clusters := rfl
@[simp] theorem State.setFull_banks (s : State) (k : Nat) (v : Bool) : (s.setFull k v).banks = s.banks := rfl
@[simp] theorem State.setFull_queues (s : State) (k : Nat) (v : Bool) : (s.setFull k v).queues = s.queues := rfl
@[simp] theorem State.setFull_copies (s : State) (k : Nat) (v : Bool) : (s.setFull k v).copies = s.copies := rfl
@[simp] theorem State.setFull_mem (s : State) (k : Nat) (v : Bool) : (s.setFull k v).mem = s.mem := rfl
@[simp] theorem State.setFull_poison (s : State) (k : Nat) (v : Bool) : (s.setFull k v).poison = s.poison := rfl
@[simp] theorem State.setFull_soft (s : State) (k : Nat) (v : Bool) : (s.setFull k v).soft = s.soft := rfl
@[simp] theorem State.setFull_keepDurable (s : State) (k : Nat) (v : Bool) : (s.setFull k v).keepDurable = s.keepDurable := rfl
@[simp] theorem State.setFull_keepEmpty (s : State) (k : Nat) (v : Bool) : (s.setFull k v).keepEmpty = s.keepEmpty := rfl
@[simp] theorem State.setFull_keepPending (s : State) (k : Nat) (v : Bool) : (s.setFull k v).keepPending = s.keepPending := rfl
@[simp] theorem State.setFull_fabric (s : State) (k : Nat) (v : Bool) : (s.setFull k v).fabric = s.fabric := rfl
@[simp] theorem State.setFull_tlb (s : State) (k : Nat) (v : Bool) : (s.setFull k v).tlb = s.tlb := rfl
@[simp] theorem State.setFull_lines (s : State) (k : Nat) (v : Bool) : (s.setFull k v).lines = s.lines := rfl
@[simp] theorem State.setFull_fs (s : State) (k : Nat) (v : Bool) : (s.setFull k v).fs = s.fs := rfl
@[simp] theorem State.setFull_host (s : State) (k : Nat) (v : Bool) : (s.setFull k v).host = s.host := rfl
@[simp] theorem State.setFull_corrected (s : State) (k : Nat) (v : Bool) : (s.setFull k v).corrected = s.corrected := rfl
@[simp] theorem State.setFull_reach (s : State) (k : Nat) (v : Bool) : (s.setFull k v).reach = s.reach := rfl
@[simp] theorem State.setFull_nolend (s : State) (k : Nat) (v : Bool) : (s.setFull k v).nolend = s.nolend := rfl
@[simp] theorem State.setFull_linksDown (s : State) (k : Nat) (v : Bool) : (s.setFull k v).linksDown = s.linksDown := rfl
@[simp] theorem State.setFull_linkErrors (s : State) (k : Nat) (v : Bool) : (s.setFull k v).linkErrors = s.linkErrors := rfl
@[simp] theorem State.setFull_sensors (s : State) (k : Nat) (v : Bool) : (s.setFull k v).sensors = s.sensors := rfl
@[simp] theorem State.setFull_spares (s : State) (k : Nat) (v : Bool) : (s.setFull k v).spares = s.spares := rfl
@[simp] theorem State.setFull_keepSpares (s : State) (k : Nat) (v : Bool) : (s.setFull k v).keepSpares = s.keepSpares := rfl
@[simp] theorem State.setFull_mramBad (s : State) (k : Nat) (v : Bool) : (s.setFull k v).mramBad = s.mramBad := rfl
@[simp] theorem State.setFull_gateReq (s : State) (k : Nat) (v : Bool) : (s.setFull k v).gateReq = s.gateReq := rfl
@[simp] theorem State.setFull_firmware (s : State) (k : Nat) (v : Bool) : (s.setFull k v).firmware = s.firmware := rfl
@[simp] theorem State.setFull_powered (s : State) (k : Nat) (v : Bool) : (s.setFull k v).powered = s.powered := rfl
@[simp] theorem State.setFull_exchanges (s : State) (k : Nat) (v : Bool) : (s.setFull k v).exchanges = s.exchanges := rfl
@[simp] theorem State.setFull_agenda (s : State) (k : Nat) (v : Bool) : (s.setFull k v).agenda = s.agenda := rfl
@[simp] theorem State.setFull_background (s : State) (k : Nat) (v : Bool) : (s.setFull k v).background = s.background := rfl
@[simp] theorem State.setFull_oracle (s : State) (k : Nat) (v : Bool) : (s.setFull k v).oracle = s.oracle := rfl
@[simp] theorem State.setFull_fresh (s : State) (k : Nat) (v : Bool) : (s.setFull k v).fresh = s.fresh := rfl
@[simp] theorem State.setFull_issued (s : State) (k : Nat) (v : Bool) : (s.setFull k v).issued = s.issued := rfl
@[simp] theorem State.setFull_aborted (s : State) (k : Nat) (v : Bool) : (s.setFull k v).aborted = s.aborted := rfl
@[simp] theorem State.setFull_chunkWrites (s : State) (k : Nat) (v : Bool) : (s.setFull k v).chunkWrites = s.chunkWrites := rfl

/-! ### `State.clearError` -/

@[simp] theorem State.clearError_cycle (s : State) (n : Nat) : (s.clearError n).cycle = s.cycle := rfl
@[simp] theorem State.clearError_cur (s : State) (n : Nat) : (s.clearError n).cur = s.cur := rfl
@[simp] theorem State.clearError_rest (s : State) (n : Nat) : (s.clearError n).rest = s.rest := rfl
@[simp] theorem State.clearError_teams (s : State) (n : Nat) : (s.clearError n).teams = s.teams := rfl
@[simp] theorem State.clearError_grids (s : State) (n : Nat) : (s.clearError n).grids = s.grids := rfl
@[simp] theorem State.clearError_cores (s : State) (n : Nat) : (s.clearError n).cores = s.cores := rfl
@[simp] theorem State.clearError_clusters (s : State) (n : Nat) : (s.clearError n).clusters = s.clusters := rfl
@[simp] theorem State.clearError_banks (s : State) (n : Nat) : (s.clearError n).banks = s.banks := rfl
@[simp] theorem State.clearError_queues (s : State) (n : Nat) : (s.clearError n).queues = s.queues := rfl
@[simp] theorem State.clearError_copies (s : State) (n : Nat) : (s.clearError n).copies = s.copies := rfl
@[simp] theorem State.clearError_mem (s : State) (n : Nat) : (s.clearError n).mem = s.mem := rfl
@[simp] theorem State.clearError_empty (s : State) (n : Nat) : (s.clearError n).empty = s.empty := rfl
@[simp] theorem State.clearError_keepDurable (s : State) (n : Nat) : (s.clearError n).keepDurable = s.keepDurable := rfl
@[simp] theorem State.clearError_keepEmpty (s : State) (n : Nat) : (s.clearError n).keepEmpty = s.keepEmpty := rfl
@[simp] theorem State.clearError_keepPending (s : State) (n : Nat) : (s.clearError n).keepPending = s.keepPending := rfl
@[simp] theorem State.clearError_fabric (s : State) (n : Nat) : (s.clearError n).fabric = s.fabric := rfl
@[simp] theorem State.clearError_tlb (s : State) (n : Nat) : (s.clearError n).tlb = s.tlb := rfl
@[simp] theorem State.clearError_lines (s : State) (n : Nat) : (s.clearError n).lines = s.lines := rfl
@[simp] theorem State.clearError_fs (s : State) (n : Nat) : (s.clearError n).fs = s.fs := rfl
@[simp] theorem State.clearError_host (s : State) (n : Nat) : (s.clearError n).host = s.host := rfl
@[simp] theorem State.clearError_corrected (s : State) (n : Nat) : (s.clearError n).corrected = s.corrected := rfl
@[simp] theorem State.clearError_reach (s : State) (n : Nat) : (s.clearError n).reach = s.reach := rfl
@[simp] theorem State.clearError_nolend (s : State) (n : Nat) : (s.clearError n).nolend = s.nolend := rfl
@[simp] theorem State.clearError_linksDown (s : State) (n : Nat) : (s.clearError n).linksDown = s.linksDown := rfl
@[simp] theorem State.clearError_linkErrors (s : State) (n : Nat) : (s.clearError n).linkErrors = s.linkErrors := rfl
@[simp] theorem State.clearError_sensors (s : State) (n : Nat) : (s.clearError n).sensors = s.sensors := rfl
@[simp] theorem State.clearError_spares (s : State) (n : Nat) : (s.clearError n).spares = s.spares := rfl
@[simp] theorem State.clearError_keepSpares (s : State) (n : Nat) : (s.clearError n).keepSpares = s.keepSpares := rfl
@[simp] theorem State.clearError_mramBad (s : State) (n : Nat) : (s.clearError n).mramBad = s.mramBad := rfl
@[simp] theorem State.clearError_gateReq (s : State) (n : Nat) : (s.clearError n).gateReq = s.gateReq := rfl
@[simp] theorem State.clearError_firmware (s : State) (n : Nat) : (s.clearError n).firmware = s.firmware := rfl
@[simp] theorem State.clearError_powered (s : State) (n : Nat) : (s.clearError n).powered = s.powered := rfl
@[simp] theorem State.clearError_exchanges (s : State) (n : Nat) : (s.clearError n).exchanges = s.exchanges := rfl
@[simp] theorem State.clearError_agenda (s : State) (n : Nat) : (s.clearError n).agenda = s.agenda := rfl
@[simp] theorem State.clearError_background (s : State) (n : Nat) : (s.clearError n).background = s.background := rfl
@[simp] theorem State.clearError_oracle (s : State) (n : Nat) : (s.clearError n).oracle = s.oracle := rfl
@[simp] theorem State.clearError_fresh (s : State) (n : Nat) : (s.clearError n).fresh = s.fresh := rfl
@[simp] theorem State.clearError_issued (s : State) (n : Nat) : (s.clearError n).issued = s.issued := rfl
@[simp] theorem State.clearError_aborted (s : State) (n : Nat) : (s.clearError n).aborted = s.aborted := rfl
@[simp] theorem State.clearError_chunkWrites (s : State) (n : Nat) : (s.clearError n).chunkWrites = s.chunkWrites := rfl

/-! ### `State.setCore` -/

@[simp] theorem State.setCore_cycle (s : State) (c : Core) : (s.setCore c).cycle = s.cycle := rfl
@[simp] theorem State.setCore_cur (s : State) (c : Core) : (s.setCore c).cur = s.cur := rfl
@[simp] theorem State.setCore_rest (s : State) (c : Core) : (s.setCore c).rest = s.rest := rfl
@[simp] theorem State.setCore_teams (s : State) (c : Core) : (s.setCore c).teams = s.teams := rfl
@[simp] theorem State.setCore_grids (s : State) (c : Core) : (s.setCore c).grids = s.grids := rfl
@[simp] theorem State.setCore_cores (s : State) (c : Core) : (s.setCore c).cores = upsert Core.num c s.cores := rfl
@[simp] theorem State.setCore_clusters (s : State) (c : Core) : (s.setCore c).clusters = s.clusters := rfl
@[simp] theorem State.setCore_banks (s : State) (c : Core) : (s.setCore c).banks = s.banks := rfl
@[simp] theorem State.setCore_queues (s : State) (c : Core) : (s.setCore c).queues = s.queues := rfl
@[simp] theorem State.setCore_copies (s : State) (c : Core) : (s.setCore c).copies = s.copies := rfl
@[simp] theorem State.setCore_mem (s : State) (c : Core) : (s.setCore c).mem = s.mem := rfl
@[simp] theorem State.setCore_empty (s : State) (c : Core) : (s.setCore c).empty = s.empty := rfl
@[simp] theorem State.setCore_poison (s : State) (c : Core) : (s.setCore c).poison = s.poison := rfl
@[simp] theorem State.setCore_soft (s : State) (c : Core) : (s.setCore c).soft = s.soft := rfl
@[simp] theorem State.setCore_keepDurable (s : State) (c : Core) : (s.setCore c).keepDurable = s.keepDurable := rfl
@[simp] theorem State.setCore_keepEmpty (s : State) (c : Core) : (s.setCore c).keepEmpty = s.keepEmpty := rfl
@[simp] theorem State.setCore_keepPending (s : State) (c : Core) : (s.setCore c).keepPending = s.keepPending := rfl
@[simp] theorem State.setCore_fabric (s : State) (c : Core) : (s.setCore c).fabric = s.fabric := rfl
@[simp] theorem State.setCore_tlb (s : State) (c : Core) : (s.setCore c).tlb = s.tlb := rfl
@[simp] theorem State.setCore_lines (s : State) (c : Core) : (s.setCore c).lines = s.lines := rfl
@[simp] theorem State.setCore_fs (s : State) (c : Core) : (s.setCore c).fs = s.fs := rfl
@[simp] theorem State.setCore_host (s : State) (c : Core) : (s.setCore c).host = s.host := rfl
@[simp] theorem State.setCore_corrected (s : State) (c : Core) : (s.setCore c).corrected = s.corrected := rfl
@[simp] theorem State.setCore_reach (s : State) (c : Core) : (s.setCore c).reach = s.reach := rfl
@[simp] theorem State.setCore_nolend (s : State) (c : Core) : (s.setCore c).nolend = s.nolend := rfl
@[simp] theorem State.setCore_linksDown (s : State) (c : Core) : (s.setCore c).linksDown = s.linksDown := rfl
@[simp] theorem State.setCore_linkErrors (s : State) (c : Core) : (s.setCore c).linkErrors = s.linkErrors := rfl
@[simp] theorem State.setCore_sensors (s : State) (c : Core) : (s.setCore c).sensors = s.sensors := rfl
@[simp] theorem State.setCore_spares (s : State) (c : Core) : (s.setCore c).spares = s.spares := rfl
@[simp] theorem State.setCore_keepSpares (s : State) (c : Core) : (s.setCore c).keepSpares = s.keepSpares := rfl
@[simp] theorem State.setCore_mramBad (s : State) (c : Core) : (s.setCore c).mramBad = s.mramBad := rfl
@[simp] theorem State.setCore_gateReq (s : State) (c : Core) : (s.setCore c).gateReq = s.gateReq := rfl
@[simp] theorem State.setCore_firmware (s : State) (c : Core) : (s.setCore c).firmware = s.firmware := rfl
@[simp] theorem State.setCore_powered (s : State) (c : Core) : (s.setCore c).powered = s.powered := rfl
@[simp] theorem State.setCore_exchanges (s : State) (c : Core) : (s.setCore c).exchanges = s.exchanges := rfl
@[simp] theorem State.setCore_agenda (s : State) (c : Core) : (s.setCore c).agenda = s.agenda := rfl
@[simp] theorem State.setCore_background (s : State) (c : Core) : (s.setCore c).background = s.background := rfl
@[simp] theorem State.setCore_oracle (s : State) (c : Core) : (s.setCore c).oracle = s.oracle := rfl
@[simp] theorem State.setCore_fresh (s : State) (c : Core) : (s.setCore c).fresh = s.fresh := rfl
@[simp] theorem State.setCore_issued (s : State) (c : Core) : (s.setCore c).issued = s.issued := rfl
@[simp] theorem State.setCore_aborted (s : State) (c : Core) : (s.setCore c).aborted = s.aborted := rfl
@[simp] theorem State.setCore_chunkWrites (s : State) (c : Core) : (s.setCore c).chunkWrites = s.chunkWrites := rfl

/-! ### `State.setCluster` -/

@[simp] theorem State.setCluster_cycle (s : State) (c : Cluster) : (s.setCluster c).cycle = s.cycle := rfl
@[simp] theorem State.setCluster_cur (s : State) (c : Cluster) : (s.setCluster c).cur = s.cur := rfl
@[simp] theorem State.setCluster_rest (s : State) (c : Cluster) : (s.setCluster c).rest = s.rest := rfl
@[simp] theorem State.setCluster_teams (s : State) (c : Cluster) : (s.setCluster c).teams = s.teams := rfl
@[simp] theorem State.setCluster_grids (s : State) (c : Cluster) : (s.setCluster c).grids = s.grids := rfl
@[simp] theorem State.setCluster_cores (s : State) (c : Cluster) : (s.setCluster c).cores = s.cores := rfl
@[simp] theorem State.setCluster_clusters (s : State) (c : Cluster) : (s.setCluster c).clusters = upsert Cluster.num c s.clusters := rfl
@[simp] theorem State.setCluster_banks (s : State) (c : Cluster) : (s.setCluster c).banks = s.banks := rfl
@[simp] theorem State.setCluster_queues (s : State) (c : Cluster) : (s.setCluster c).queues = s.queues := rfl
@[simp] theorem State.setCluster_copies (s : State) (c : Cluster) : (s.setCluster c).copies = s.copies := rfl
@[simp] theorem State.setCluster_mem (s : State) (c : Cluster) : (s.setCluster c).mem = s.mem := rfl
@[simp] theorem State.setCluster_empty (s : State) (c : Cluster) : (s.setCluster c).empty = s.empty := rfl
@[simp] theorem State.setCluster_poison (s : State) (c : Cluster) : (s.setCluster c).poison = s.poison := rfl
@[simp] theorem State.setCluster_soft (s : State) (c : Cluster) : (s.setCluster c).soft = s.soft := rfl
@[simp] theorem State.setCluster_keepDurable (s : State) (c : Cluster) : (s.setCluster c).keepDurable = s.keepDurable := rfl
@[simp] theorem State.setCluster_keepEmpty (s : State) (c : Cluster) : (s.setCluster c).keepEmpty = s.keepEmpty := rfl
@[simp] theorem State.setCluster_keepPending (s : State) (c : Cluster) : (s.setCluster c).keepPending = s.keepPending := rfl
@[simp] theorem State.setCluster_fabric (s : State) (c : Cluster) : (s.setCluster c).fabric = s.fabric := rfl
@[simp] theorem State.setCluster_tlb (s : State) (c : Cluster) : (s.setCluster c).tlb = s.tlb := rfl
@[simp] theorem State.setCluster_lines (s : State) (c : Cluster) : (s.setCluster c).lines = s.lines := rfl
@[simp] theorem State.setCluster_fs (s : State) (c : Cluster) : (s.setCluster c).fs = s.fs := rfl
@[simp] theorem State.setCluster_host (s : State) (c : Cluster) : (s.setCluster c).host = s.host := rfl
@[simp] theorem State.setCluster_corrected (s : State) (c : Cluster) : (s.setCluster c).corrected = s.corrected := rfl
@[simp] theorem State.setCluster_reach (s : State) (c : Cluster) : (s.setCluster c).reach = s.reach := rfl
@[simp] theorem State.setCluster_nolend (s : State) (c : Cluster) : (s.setCluster c).nolend = s.nolend := rfl
@[simp] theorem State.setCluster_linksDown (s : State) (c : Cluster) : (s.setCluster c).linksDown = s.linksDown := rfl
@[simp] theorem State.setCluster_linkErrors (s : State) (c : Cluster) : (s.setCluster c).linkErrors = s.linkErrors := rfl
@[simp] theorem State.setCluster_sensors (s : State) (c : Cluster) : (s.setCluster c).sensors = s.sensors := rfl
@[simp] theorem State.setCluster_spares (s : State) (c : Cluster) : (s.setCluster c).spares = s.spares := rfl
@[simp] theorem State.setCluster_keepSpares (s : State) (c : Cluster) : (s.setCluster c).keepSpares = s.keepSpares := rfl
@[simp] theorem State.setCluster_mramBad (s : State) (c : Cluster) : (s.setCluster c).mramBad = s.mramBad := rfl
@[simp] theorem State.setCluster_gateReq (s : State) (c : Cluster) : (s.setCluster c).gateReq = s.gateReq := rfl
@[simp] theorem State.setCluster_firmware (s : State) (c : Cluster) : (s.setCluster c).firmware = s.firmware := rfl
@[simp] theorem State.setCluster_powered (s : State) (c : Cluster) : (s.setCluster c).powered = s.powered := rfl
@[simp] theorem State.setCluster_exchanges (s : State) (c : Cluster) : (s.setCluster c).exchanges = s.exchanges := rfl
@[simp] theorem State.setCluster_agenda (s : State) (c : Cluster) : (s.setCluster c).agenda = s.agenda := rfl
@[simp] theorem State.setCluster_background (s : State) (c : Cluster) : (s.setCluster c).background = s.background := rfl
@[simp] theorem State.setCluster_oracle (s : State) (c : Cluster) : (s.setCluster c).oracle = s.oracle := rfl
@[simp] theorem State.setCluster_fresh (s : State) (c : Cluster) : (s.setCluster c).fresh = s.fresh := rfl
@[simp] theorem State.setCluster_issued (s : State) (c : Cluster) : (s.setCluster c).issued = s.issued := rfl
@[simp] theorem State.setCluster_aborted (s : State) (c : Cluster) : (s.setCluster c).aborted = s.aborted := rfl
@[simp] theorem State.setCluster_chunkWrites (s : State) (c : Cluster) : (s.setCluster c).chunkWrites = s.chunkWrites := rfl

/-! ### `State.setBank` -/

@[simp] theorem State.setBank_cycle (s : State) (b : Bank) : (s.setBank b).cycle = s.cycle := rfl
@[simp] theorem State.setBank_cur (s : State) (b : Bank) : (s.setBank b).cur = s.cur := rfl
@[simp] theorem State.setBank_rest (s : State) (b : Bank) : (s.setBank b).rest = s.rest := rfl
@[simp] theorem State.setBank_teams (s : State) (b : Bank) : (s.setBank b).teams = s.teams := rfl
@[simp] theorem State.setBank_grids (s : State) (b : Bank) : (s.setBank b).grids = s.grids := rfl
@[simp] theorem State.setBank_cores (s : State) (b : Bank) : (s.setBank b).cores = s.cores := rfl
@[simp] theorem State.setBank_clusters (s : State) (b : Bank) : (s.setBank b).clusters = s.clusters := rfl
@[simp] theorem State.setBank_banks (s : State) (b : Bank) : (s.setBank b).banks = upsert Bank.num b s.banks := rfl
@[simp] theorem State.setBank_queues (s : State) (b : Bank) : (s.setBank b).queues = s.queues := rfl
@[simp] theorem State.setBank_copies (s : State) (b : Bank) : (s.setBank b).copies = s.copies := rfl
@[simp] theorem State.setBank_mem (s : State) (b : Bank) : (s.setBank b).mem = s.mem := rfl
@[simp] theorem State.setBank_empty (s : State) (b : Bank) : (s.setBank b).empty = s.empty := rfl
@[simp] theorem State.setBank_poison (s : State) (b : Bank) : (s.setBank b).poison = s.poison := rfl
@[simp] theorem State.setBank_soft (s : State) (b : Bank) : (s.setBank b).soft = s.soft := rfl
@[simp] theorem State.setBank_keepDurable (s : State) (b : Bank) : (s.setBank b).keepDurable = s.keepDurable := rfl
@[simp] theorem State.setBank_keepEmpty (s : State) (b : Bank) : (s.setBank b).keepEmpty = s.keepEmpty := rfl
@[simp] theorem State.setBank_keepPending (s : State) (b : Bank) : (s.setBank b).keepPending = s.keepPending := rfl
@[simp] theorem State.setBank_fabric (s : State) (b : Bank) : (s.setBank b).fabric = s.fabric := rfl
@[simp] theorem State.setBank_tlb (s : State) (b : Bank) : (s.setBank b).tlb = s.tlb := rfl
@[simp] theorem State.setBank_lines (s : State) (b : Bank) : (s.setBank b).lines = s.lines := rfl
@[simp] theorem State.setBank_fs (s : State) (b : Bank) : (s.setBank b).fs = s.fs := rfl
@[simp] theorem State.setBank_host (s : State) (b : Bank) : (s.setBank b).host = s.host := rfl
@[simp] theorem State.setBank_corrected (s : State) (b : Bank) : (s.setBank b).corrected = s.corrected := rfl
@[simp] theorem State.setBank_reach (s : State) (b : Bank) : (s.setBank b).reach = s.reach := rfl
@[simp] theorem State.setBank_nolend (s : State) (b : Bank) : (s.setBank b).nolend = s.nolend := rfl
@[simp] theorem State.setBank_linksDown (s : State) (b : Bank) : (s.setBank b).linksDown = s.linksDown := rfl
@[simp] theorem State.setBank_linkErrors (s : State) (b : Bank) : (s.setBank b).linkErrors = s.linkErrors := rfl
@[simp] theorem State.setBank_sensors (s : State) (b : Bank) : (s.setBank b).sensors = s.sensors := rfl
@[simp] theorem State.setBank_spares (s : State) (b : Bank) : (s.setBank b).spares = s.spares := rfl
@[simp] theorem State.setBank_keepSpares (s : State) (b : Bank) : (s.setBank b).keepSpares = s.keepSpares := rfl
@[simp] theorem State.setBank_mramBad (s : State) (b : Bank) : (s.setBank b).mramBad = s.mramBad := rfl
@[simp] theorem State.setBank_gateReq (s : State) (b : Bank) : (s.setBank b).gateReq = s.gateReq := rfl
@[simp] theorem State.setBank_firmware (s : State) (b : Bank) : (s.setBank b).firmware = s.firmware := rfl
@[simp] theorem State.setBank_powered (s : State) (b : Bank) : (s.setBank b).powered = s.powered := rfl
@[simp] theorem State.setBank_exchanges (s : State) (b : Bank) : (s.setBank b).exchanges = s.exchanges := rfl
@[simp] theorem State.setBank_agenda (s : State) (b : Bank) : (s.setBank b).agenda = s.agenda := rfl
@[simp] theorem State.setBank_background (s : State) (b : Bank) : (s.setBank b).background = s.background := rfl
@[simp] theorem State.setBank_oracle (s : State) (b : Bank) : (s.setBank b).oracle = s.oracle := rfl
@[simp] theorem State.setBank_fresh (s : State) (b : Bank) : (s.setBank b).fresh = s.fresh := rfl
@[simp] theorem State.setBank_issued (s : State) (b : Bank) : (s.setBank b).issued = s.issued := rfl
@[simp] theorem State.setBank_aborted (s : State) (b : Bank) : (s.setBank b).aborted = s.aborted := rfl
@[simp] theorem State.setBank_chunkWrites (s : State) (b : Bank) : (s.setBank b).chunkWrites = s.chunkWrites := rfl

/-! ### `State.setQueue` -/

@[simp] theorem State.setQueue_cycle (s : State) (q : Queue) : (s.setQueue q).cycle = s.cycle := rfl
@[simp] theorem State.setQueue_cur (s : State) (q : Queue) : (s.setQueue q).cur = s.cur := rfl
@[simp] theorem State.setQueue_rest (s : State) (q : Queue) : (s.setQueue q).rest = s.rest := rfl
@[simp] theorem State.setQueue_teams (s : State) (q : Queue) : (s.setQueue q).teams = s.teams := rfl
@[simp] theorem State.setQueue_grids (s : State) (q : Queue) : (s.setQueue q).grids = s.grids := rfl
@[simp] theorem State.setQueue_cores (s : State) (q : Queue) : (s.setQueue q).cores = s.cores := rfl
@[simp] theorem State.setQueue_clusters (s : State) (q : Queue) : (s.setQueue q).clusters = s.clusters := rfl
@[simp] theorem State.setQueue_banks (s : State) (q : Queue) : (s.setQueue q).banks = s.banks := rfl
@[simp] theorem State.setQueue_queues (s : State) (q : Queue) : (s.setQueue q).queues = upsert Queue.num q s.queues := rfl
@[simp] theorem State.setQueue_copies (s : State) (q : Queue) : (s.setQueue q).copies = s.copies := rfl
@[simp] theorem State.setQueue_mem (s : State) (q : Queue) : (s.setQueue q).mem = s.mem := rfl
@[simp] theorem State.setQueue_empty (s : State) (q : Queue) : (s.setQueue q).empty = s.empty := rfl
@[simp] theorem State.setQueue_poison (s : State) (q : Queue) : (s.setQueue q).poison = s.poison := rfl
@[simp] theorem State.setQueue_soft (s : State) (q : Queue) : (s.setQueue q).soft = s.soft := rfl
@[simp] theorem State.setQueue_keepDurable (s : State) (q : Queue) : (s.setQueue q).keepDurable = s.keepDurable := rfl
@[simp] theorem State.setQueue_keepEmpty (s : State) (q : Queue) : (s.setQueue q).keepEmpty = s.keepEmpty := rfl
@[simp] theorem State.setQueue_keepPending (s : State) (q : Queue) : (s.setQueue q).keepPending = s.keepPending := rfl
@[simp] theorem State.setQueue_fabric (s : State) (q : Queue) : (s.setQueue q).fabric = s.fabric := rfl
@[simp] theorem State.setQueue_tlb (s : State) (q : Queue) : (s.setQueue q).tlb = s.tlb := rfl
@[simp] theorem State.setQueue_lines (s : State) (q : Queue) : (s.setQueue q).lines = s.lines := rfl
@[simp] theorem State.setQueue_fs (s : State) (q : Queue) : (s.setQueue q).fs = s.fs := rfl
@[simp] theorem State.setQueue_host (s : State) (q : Queue) : (s.setQueue q).host = s.host := rfl
@[simp] theorem State.setQueue_corrected (s : State) (q : Queue) : (s.setQueue q).corrected = s.corrected := rfl
@[simp] theorem State.setQueue_reach (s : State) (q : Queue) : (s.setQueue q).reach = s.reach := rfl
@[simp] theorem State.setQueue_nolend (s : State) (q : Queue) : (s.setQueue q).nolend = s.nolend := rfl
@[simp] theorem State.setQueue_linksDown (s : State) (q : Queue) : (s.setQueue q).linksDown = s.linksDown := rfl
@[simp] theorem State.setQueue_linkErrors (s : State) (q : Queue) : (s.setQueue q).linkErrors = s.linkErrors := rfl
@[simp] theorem State.setQueue_sensors (s : State) (q : Queue) : (s.setQueue q).sensors = s.sensors := rfl
@[simp] theorem State.setQueue_spares (s : State) (q : Queue) : (s.setQueue q).spares = s.spares := rfl
@[simp] theorem State.setQueue_keepSpares (s : State) (q : Queue) : (s.setQueue q).keepSpares = s.keepSpares := rfl
@[simp] theorem State.setQueue_mramBad (s : State) (q : Queue) : (s.setQueue q).mramBad = s.mramBad := rfl
@[simp] theorem State.setQueue_gateReq (s : State) (q : Queue) : (s.setQueue q).gateReq = s.gateReq := rfl
@[simp] theorem State.setQueue_firmware (s : State) (q : Queue) : (s.setQueue q).firmware = s.firmware := rfl
@[simp] theorem State.setQueue_powered (s : State) (q : Queue) : (s.setQueue q).powered = s.powered := rfl
@[simp] theorem State.setQueue_exchanges (s : State) (q : Queue) : (s.setQueue q).exchanges = s.exchanges := rfl
@[simp] theorem State.setQueue_agenda (s : State) (q : Queue) : (s.setQueue q).agenda = s.agenda := rfl
@[simp] theorem State.setQueue_background (s : State) (q : Queue) : (s.setQueue q).background = s.background := rfl
@[simp] theorem State.setQueue_oracle (s : State) (q : Queue) : (s.setQueue q).oracle = s.oracle := rfl
@[simp] theorem State.setQueue_fresh (s : State) (q : Queue) : (s.setQueue q).fresh = s.fresh := rfl
@[simp] theorem State.setQueue_issued (s : State) (q : Queue) : (s.setQueue q).issued = s.issued := rfl
@[simp] theorem State.setQueue_aborted (s : State) (q : Queue) : (s.setQueue q).aborted = s.aborted := rfl
@[simp] theorem State.setQueue_chunkWrites (s : State) (q : Queue) : (s.setQueue q).chunkWrites = s.chunkWrites := rfl

/-! ### `State.setReach` -/

@[simp] theorem State.setReach_cycle (s : State) (r : Reach) : (s.setReach r).cycle = s.cycle := rfl
@[simp] theorem State.setReach_cur (s : State) (r : Reach) : (s.setReach r).cur = s.cur := rfl
@[simp] theorem State.setReach_rest (s : State) (r : Reach) : (s.setReach r).rest = s.rest := rfl
@[simp] theorem State.setReach_teams (s : State) (r : Reach) : (s.setReach r).teams = s.teams := rfl
@[simp] theorem State.setReach_grids (s : State) (r : Reach) : (s.setReach r).grids = s.grids := rfl
@[simp] theorem State.setReach_cores (s : State) (r : Reach) : (s.setReach r).cores = s.cores := rfl
@[simp] theorem State.setReach_clusters (s : State) (r : Reach) : (s.setReach r).clusters = s.clusters := rfl
@[simp] theorem State.setReach_banks (s : State) (r : Reach) : (s.setReach r).banks = s.banks := rfl
@[simp] theorem State.setReach_queues (s : State) (r : Reach) : (s.setReach r).queues = s.queues := rfl
@[simp] theorem State.setReach_copies (s : State) (r : Reach) : (s.setReach r).copies = s.copies := rfl
@[simp] theorem State.setReach_mem (s : State) (r : Reach) : (s.setReach r).mem = s.mem := rfl
@[simp] theorem State.setReach_empty (s : State) (r : Reach) : (s.setReach r).empty = s.empty := rfl
@[simp] theorem State.setReach_poison (s : State) (r : Reach) : (s.setReach r).poison = s.poison := rfl
@[simp] theorem State.setReach_soft (s : State) (r : Reach) : (s.setReach r).soft = s.soft := rfl
@[simp] theorem State.setReach_keepDurable (s : State) (r : Reach) : (s.setReach r).keepDurable = s.keepDurable := rfl
@[simp] theorem State.setReach_keepEmpty (s : State) (r : Reach) : (s.setReach r).keepEmpty = s.keepEmpty := rfl
@[simp] theorem State.setReach_keepPending (s : State) (r : Reach) : (s.setReach r).keepPending = s.keepPending := rfl
@[simp] theorem State.setReach_fabric (s : State) (r : Reach) : (s.setReach r).fabric = s.fabric := rfl
@[simp] theorem State.setReach_tlb (s : State) (r : Reach) : (s.setReach r).tlb = s.tlb := rfl
@[simp] theorem State.setReach_lines (s : State) (r : Reach) : (s.setReach r).lines = s.lines := rfl
@[simp] theorem State.setReach_fs (s : State) (r : Reach) : (s.setReach r).fs = s.fs := rfl
@[simp] theorem State.setReach_host (s : State) (r : Reach) : (s.setReach r).host = s.host := rfl
@[simp] theorem State.setReach_corrected (s : State) (r : Reach) : (s.setReach r).corrected = s.corrected := rfl
@[simp] theorem State.setReach_reach (s : State) (r : Reach) : (s.setReach r).reach = upsert Reach.num r s.reach := rfl
@[simp] theorem State.setReach_nolend (s : State) (r : Reach) : (s.setReach r).nolend = s.nolend := rfl
@[simp] theorem State.setReach_linksDown (s : State) (r : Reach) : (s.setReach r).linksDown = s.linksDown := rfl
@[simp] theorem State.setReach_linkErrors (s : State) (r : Reach) : (s.setReach r).linkErrors = s.linkErrors := rfl
@[simp] theorem State.setReach_sensors (s : State) (r : Reach) : (s.setReach r).sensors = s.sensors := rfl
@[simp] theorem State.setReach_spares (s : State) (r : Reach) : (s.setReach r).spares = s.spares := rfl
@[simp] theorem State.setReach_keepSpares (s : State) (r : Reach) : (s.setReach r).keepSpares = s.keepSpares := rfl
@[simp] theorem State.setReach_mramBad (s : State) (r : Reach) : (s.setReach r).mramBad = s.mramBad := rfl
@[simp] theorem State.setReach_gateReq (s : State) (r : Reach) : (s.setReach r).gateReq = s.gateReq := rfl
@[simp] theorem State.setReach_firmware (s : State) (r : Reach) : (s.setReach r).firmware = s.firmware := rfl
@[simp] theorem State.setReach_powered (s : State) (r : Reach) : (s.setReach r).powered = s.powered := rfl
@[simp] theorem State.setReach_exchanges (s : State) (r : Reach) : (s.setReach r).exchanges = s.exchanges := rfl
@[simp] theorem State.setReach_agenda (s : State) (r : Reach) : (s.setReach r).agenda = s.agenda := rfl
@[simp] theorem State.setReach_background (s : State) (r : Reach) : (s.setReach r).background = s.background := rfl
@[simp] theorem State.setReach_oracle (s : State) (r : Reach) : (s.setReach r).oracle = s.oracle := rfl
@[simp] theorem State.setReach_fresh (s : State) (r : Reach) : (s.setReach r).fresh = s.fresh := rfl
@[simp] theorem State.setReach_issued (s : State) (r : Reach) : (s.setReach r).issued = s.issued := rfl
@[simp] theorem State.setReach_aborted (s : State) (r : Reach) : (s.setReach r).aborted = s.aborted := rfl
@[simp] theorem State.setReach_chunkWrites (s : State) (r : Reach) : (s.setReach r).chunkWrites = s.chunkWrites := rfl

/-! ### `State.modGrid` -/

@[simp] theorem State.modGrid_cycle (s : State) (g : Nat) (f : Grid → Grid) : (s.modGrid g f).cycle = s.cycle := rfl
@[simp] theorem State.modGrid_cur (s : State) (g : Nat) (f : Grid → Grid) : (s.modGrid g f).cur = s.cur := rfl
@[simp] theorem State.modGrid_rest (s : State) (g : Nat) (f : Grid → Grid) : (s.modGrid g f).rest = s.rest := rfl
@[simp] theorem State.modGrid_teams (s : State) (g : Nat) (f : Grid → Grid) : (s.modGrid g f).teams = s.teams := rfl
@[simp] theorem State.modGrid_cores (s : State) (g : Nat) (f : Grid → Grid) : (s.modGrid g f).cores = s.cores := rfl
@[simp] theorem State.modGrid_clusters (s : State) (g : Nat) (f : Grid → Grid) : (s.modGrid g f).clusters = s.clusters := rfl
@[simp] theorem State.modGrid_banks (s : State) (g : Nat) (f : Grid → Grid) : (s.modGrid g f).banks = s.banks := rfl
@[simp] theorem State.modGrid_queues (s : State) (g : Nat) (f : Grid → Grid) : (s.modGrid g f).queues = s.queues := rfl
@[simp] theorem State.modGrid_copies (s : State) (g : Nat) (f : Grid → Grid) : (s.modGrid g f).copies = s.copies := rfl
@[simp] theorem State.modGrid_mem (s : State) (g : Nat) (f : Grid → Grid) : (s.modGrid g f).mem = s.mem := rfl
@[simp] theorem State.modGrid_empty (s : State) (g : Nat) (f : Grid → Grid) : (s.modGrid g f).empty = s.empty := rfl
@[simp] theorem State.modGrid_poison (s : State) (g : Nat) (f : Grid → Grid) : (s.modGrid g f).poison = s.poison := rfl
@[simp] theorem State.modGrid_soft (s : State) (g : Nat) (f : Grid → Grid) : (s.modGrid g f).soft = s.soft := rfl
@[simp] theorem State.modGrid_keepDurable (s : State) (g : Nat) (f : Grid → Grid) : (s.modGrid g f).keepDurable = s.keepDurable := rfl
@[simp] theorem State.modGrid_keepEmpty (s : State) (g : Nat) (f : Grid → Grid) : (s.modGrid g f).keepEmpty = s.keepEmpty := rfl
@[simp] theorem State.modGrid_keepPending (s : State) (g : Nat) (f : Grid → Grid) : (s.modGrid g f).keepPending = s.keepPending := rfl
@[simp] theorem State.modGrid_fabric (s : State) (g : Nat) (f : Grid → Grid) : (s.modGrid g f).fabric = s.fabric := rfl
@[simp] theorem State.modGrid_tlb (s : State) (g : Nat) (f : Grid → Grid) : (s.modGrid g f).tlb = s.tlb := rfl
@[simp] theorem State.modGrid_lines (s : State) (g : Nat) (f : Grid → Grid) : (s.modGrid g f).lines = s.lines := rfl
@[simp] theorem State.modGrid_fs (s : State) (g : Nat) (f : Grid → Grid) : (s.modGrid g f).fs = s.fs := rfl
@[simp] theorem State.modGrid_host (s : State) (g : Nat) (f : Grid → Grid) : (s.modGrid g f).host = s.host := rfl
@[simp] theorem State.modGrid_corrected (s : State) (g : Nat) (f : Grid → Grid) : (s.modGrid g f).corrected = s.corrected := rfl
@[simp] theorem State.modGrid_reach (s : State) (g : Nat) (f : Grid → Grid) : (s.modGrid g f).reach = s.reach := rfl
@[simp] theorem State.modGrid_nolend (s : State) (g : Nat) (f : Grid → Grid) : (s.modGrid g f).nolend = s.nolend := rfl
@[simp] theorem State.modGrid_linksDown (s : State) (g : Nat) (f : Grid → Grid) : (s.modGrid g f).linksDown = s.linksDown := rfl
@[simp] theorem State.modGrid_linkErrors (s : State) (g : Nat) (f : Grid → Grid) : (s.modGrid g f).linkErrors = s.linkErrors := rfl
@[simp] theorem State.modGrid_sensors (s : State) (g : Nat) (f : Grid → Grid) : (s.modGrid g f).sensors = s.sensors := rfl
@[simp] theorem State.modGrid_spares (s : State) (g : Nat) (f : Grid → Grid) : (s.modGrid g f).spares = s.spares := rfl
@[simp] theorem State.modGrid_keepSpares (s : State) (g : Nat) (f : Grid → Grid) : (s.modGrid g f).keepSpares = s.keepSpares := rfl
@[simp] theorem State.modGrid_mramBad (s : State) (g : Nat) (f : Grid → Grid) : (s.modGrid g f).mramBad = s.mramBad := rfl
@[simp] theorem State.modGrid_gateReq (s : State) (g : Nat) (f : Grid → Grid) : (s.modGrid g f).gateReq = s.gateReq := rfl
@[simp] theorem State.modGrid_firmware (s : State) (g : Nat) (f : Grid → Grid) : (s.modGrid g f).firmware = s.firmware := rfl
@[simp] theorem State.modGrid_powered (s : State) (g : Nat) (f : Grid → Grid) : (s.modGrid g f).powered = s.powered := rfl
@[simp] theorem State.modGrid_exchanges (s : State) (g : Nat) (f : Grid → Grid) : (s.modGrid g f).exchanges = s.exchanges := rfl
@[simp] theorem State.modGrid_agenda (s : State) (g : Nat) (f : Grid → Grid) : (s.modGrid g f).agenda = s.agenda := rfl
@[simp] theorem State.modGrid_background (s : State) (g : Nat) (f : Grid → Grid) : (s.modGrid g f).background = s.background := rfl
@[simp] theorem State.modGrid_oracle (s : State) (g : Nat) (f : Grid → Grid) : (s.modGrid g f).oracle = s.oracle := rfl
@[simp] theorem State.modGrid_fresh (s : State) (g : Nat) (f : Grid → Grid) : (s.modGrid g f).fresh = s.fresh := rfl
@[simp] theorem State.modGrid_issued (s : State) (g : Nat) (f : Grid → Grid) : (s.modGrid g f).issued = s.issued := rfl
@[simp] theorem State.modGrid_aborted (s : State) (g : Nat) (f : Grid → Grid) : (s.modGrid g f).aborted = s.aborted := rfl
@[simp] theorem State.modGrid_chunkWrites (s : State) (g : Nat) (f : Grid → Grid) : (s.modGrid g f).chunkWrites = s.chunkWrites := rfl

/-! ### `State.modTeam` -/

@[simp] theorem State.modTeam_cycle (s : State) (g l : Nat) (f : Team → Team) : (s.modTeam g l f).cycle = s.cycle := rfl
@[simp] theorem State.modTeam_cur (s : State) (g l : Nat) (f : Team → Team) : (s.modTeam g l f).cur = s.cur := rfl
@[simp] theorem State.modTeam_rest (s : State) (g l : Nat) (f : Team → Team) : (s.modTeam g l f).rest = s.rest := rfl
@[simp] theorem State.modTeam_grids (s : State) (g l : Nat) (f : Team → Team) : (s.modTeam g l f).grids = s.grids := rfl
@[simp] theorem State.modTeam_cores (s : State) (g l : Nat) (f : Team → Team) : (s.modTeam g l f).cores = s.cores := rfl
@[simp] theorem State.modTeam_clusters (s : State) (g l : Nat) (f : Team → Team) : (s.modTeam g l f).clusters = s.clusters := rfl
@[simp] theorem State.modTeam_banks (s : State) (g l : Nat) (f : Team → Team) : (s.modTeam g l f).banks = s.banks := rfl
@[simp] theorem State.modTeam_queues (s : State) (g l : Nat) (f : Team → Team) : (s.modTeam g l f).queues = s.queues := rfl
@[simp] theorem State.modTeam_copies (s : State) (g l : Nat) (f : Team → Team) : (s.modTeam g l f).copies = s.copies := rfl
@[simp] theorem State.modTeam_mem (s : State) (g l : Nat) (f : Team → Team) : (s.modTeam g l f).mem = s.mem := rfl
@[simp] theorem State.modTeam_empty (s : State) (g l : Nat) (f : Team → Team) : (s.modTeam g l f).empty = s.empty := rfl
@[simp] theorem State.modTeam_poison (s : State) (g l : Nat) (f : Team → Team) : (s.modTeam g l f).poison = s.poison := rfl
@[simp] theorem State.modTeam_soft (s : State) (g l : Nat) (f : Team → Team) : (s.modTeam g l f).soft = s.soft := rfl
@[simp] theorem State.modTeam_keepDurable (s : State) (g l : Nat) (f : Team → Team) : (s.modTeam g l f).keepDurable = s.keepDurable := rfl
@[simp] theorem State.modTeam_keepEmpty (s : State) (g l : Nat) (f : Team → Team) : (s.modTeam g l f).keepEmpty = s.keepEmpty := rfl
@[simp] theorem State.modTeam_keepPending (s : State) (g l : Nat) (f : Team → Team) : (s.modTeam g l f).keepPending = s.keepPending := rfl
@[simp] theorem State.modTeam_fabric (s : State) (g l : Nat) (f : Team → Team) : (s.modTeam g l f).fabric = s.fabric := rfl
@[simp] theorem State.modTeam_tlb (s : State) (g l : Nat) (f : Team → Team) : (s.modTeam g l f).tlb = s.tlb := rfl
@[simp] theorem State.modTeam_lines (s : State) (g l : Nat) (f : Team → Team) : (s.modTeam g l f).lines = s.lines := rfl
@[simp] theorem State.modTeam_fs (s : State) (g l : Nat) (f : Team → Team) : (s.modTeam g l f).fs = s.fs := rfl
@[simp] theorem State.modTeam_host (s : State) (g l : Nat) (f : Team → Team) : (s.modTeam g l f).host = s.host := rfl
@[simp] theorem State.modTeam_corrected (s : State) (g l : Nat) (f : Team → Team) : (s.modTeam g l f).corrected = s.corrected := rfl
@[simp] theorem State.modTeam_reach (s : State) (g l : Nat) (f : Team → Team) : (s.modTeam g l f).reach = s.reach := rfl
@[simp] theorem State.modTeam_nolend (s : State) (g l : Nat) (f : Team → Team) : (s.modTeam g l f).nolend = s.nolend := rfl
@[simp] theorem State.modTeam_linksDown (s : State) (g l : Nat) (f : Team → Team) : (s.modTeam g l f).linksDown = s.linksDown := rfl
@[simp] theorem State.modTeam_linkErrors (s : State) (g l : Nat) (f : Team → Team) : (s.modTeam g l f).linkErrors = s.linkErrors := rfl
@[simp] theorem State.modTeam_sensors (s : State) (g l : Nat) (f : Team → Team) : (s.modTeam g l f).sensors = s.sensors := rfl
@[simp] theorem State.modTeam_spares (s : State) (g l : Nat) (f : Team → Team) : (s.modTeam g l f).spares = s.spares := rfl
@[simp] theorem State.modTeam_keepSpares (s : State) (g l : Nat) (f : Team → Team) : (s.modTeam g l f).keepSpares = s.keepSpares := rfl
@[simp] theorem State.modTeam_mramBad (s : State) (g l : Nat) (f : Team → Team) : (s.modTeam g l f).mramBad = s.mramBad := rfl
@[simp] theorem State.modTeam_gateReq (s : State) (g l : Nat) (f : Team → Team) : (s.modTeam g l f).gateReq = s.gateReq := rfl
@[simp] theorem State.modTeam_firmware (s : State) (g l : Nat) (f : Team → Team) : (s.modTeam g l f).firmware = s.firmware := rfl
@[simp] theorem State.modTeam_powered (s : State) (g l : Nat) (f : Team → Team) : (s.modTeam g l f).powered = s.powered := rfl
@[simp] theorem State.modTeam_exchanges (s : State) (g l : Nat) (f : Team → Team) : (s.modTeam g l f).exchanges = s.exchanges := rfl
@[simp] theorem State.modTeam_agenda (s : State) (g l : Nat) (f : Team → Team) : (s.modTeam g l f).agenda = s.agenda := rfl
@[simp] theorem State.modTeam_background (s : State) (g l : Nat) (f : Team → Team) : (s.modTeam g l f).background = s.background := rfl
@[simp] theorem State.modTeam_oracle (s : State) (g l : Nat) (f : Team → Team) : (s.modTeam g l f).oracle = s.oracle := rfl
@[simp] theorem State.modTeam_fresh (s : State) (g l : Nat) (f : Team → Team) : (s.modTeam g l f).fresh = s.fresh := rfl
@[simp] theorem State.modTeam_issued (s : State) (g l : Nat) (f : Team → Team) : (s.modTeam g l f).issued = s.issued := rfl
@[simp] theorem State.modTeam_aborted (s : State) (g l : Nat) (f : Team → Team) : (s.modTeam g l f).aborted = s.aborted := rfl
@[simp] theorem State.modTeam_chunkWrites (s : State) (g l : Nat) (f : Team → Team) : (s.modTeam g l f).chunkWrites = s.chunkWrites := rfl

/-! ### `State.modCur` -/

@[simp] theorem State.modCur_cycle (s : State) (f : Thread → Thread) : (s.modCur f).cycle = s.cycle := rfl
@[simp] theorem State.modCur_cur (s : State) (f : Thread → Thread) : (s.modCur f).cur = f s.cur := rfl
@[simp] theorem State.modCur_rest (s : State) (f : Thread → Thread) : (s.modCur f).rest = s.rest := rfl
@[simp] theorem State.modCur_teams (s : State) (f : Thread → Thread) : (s.modCur f).teams = s.teams := rfl
@[simp] theorem State.modCur_grids (s : State) (f : Thread → Thread) : (s.modCur f).grids = s.grids := rfl
@[simp] theorem State.modCur_cores (s : State) (f : Thread → Thread) : (s.modCur f).cores = s.cores := rfl
@[simp] theorem State.modCur_clusters (s : State) (f : Thread → Thread) : (s.modCur f).clusters = s.clusters := rfl
@[simp] theorem State.modCur_banks (s : State) (f : Thread → Thread) : (s.modCur f).banks = s.banks := rfl
@[simp] theorem State.modCur_queues (s : State) (f : Thread → Thread) : (s.modCur f).queues = s.queues := rfl
@[simp] theorem State.modCur_copies (s : State) (f : Thread → Thread) : (s.modCur f).copies = s.copies := rfl
@[simp] theorem State.modCur_mem (s : State) (f : Thread → Thread) : (s.modCur f).mem = s.mem := rfl
@[simp] theorem State.modCur_empty (s : State) (f : Thread → Thread) : (s.modCur f).empty = s.empty := rfl
@[simp] theorem State.modCur_poison (s : State) (f : Thread → Thread) : (s.modCur f).poison = s.poison := rfl
@[simp] theorem State.modCur_soft (s : State) (f : Thread → Thread) : (s.modCur f).soft = s.soft := rfl
@[simp] theorem State.modCur_keepDurable (s : State) (f : Thread → Thread) : (s.modCur f).keepDurable = s.keepDurable := rfl
@[simp] theorem State.modCur_keepEmpty (s : State) (f : Thread → Thread) : (s.modCur f).keepEmpty = s.keepEmpty := rfl
@[simp] theorem State.modCur_keepPending (s : State) (f : Thread → Thread) : (s.modCur f).keepPending = s.keepPending := rfl
@[simp] theorem State.modCur_fabric (s : State) (f : Thread → Thread) : (s.modCur f).fabric = s.fabric := rfl
@[simp] theorem State.modCur_tlb (s : State) (f : Thread → Thread) : (s.modCur f).tlb = s.tlb := rfl
@[simp] theorem State.modCur_lines (s : State) (f : Thread → Thread) : (s.modCur f).lines = s.lines := rfl
@[simp] theorem State.modCur_fs (s : State) (f : Thread → Thread) : (s.modCur f).fs = s.fs := rfl
@[simp] theorem State.modCur_host (s : State) (f : Thread → Thread) : (s.modCur f).host = s.host := rfl
@[simp] theorem State.modCur_corrected (s : State) (f : Thread → Thread) : (s.modCur f).corrected = s.corrected := rfl
@[simp] theorem State.modCur_reach (s : State) (f : Thread → Thread) : (s.modCur f).reach = s.reach := rfl
@[simp] theorem State.modCur_nolend (s : State) (f : Thread → Thread) : (s.modCur f).nolend = s.nolend := rfl
@[simp] theorem State.modCur_linksDown (s : State) (f : Thread → Thread) : (s.modCur f).linksDown = s.linksDown := rfl
@[simp] theorem State.modCur_linkErrors (s : State) (f : Thread → Thread) : (s.modCur f).linkErrors = s.linkErrors := rfl
@[simp] theorem State.modCur_sensors (s : State) (f : Thread → Thread) : (s.modCur f).sensors = s.sensors := rfl
@[simp] theorem State.modCur_spares (s : State) (f : Thread → Thread) : (s.modCur f).spares = s.spares := rfl
@[simp] theorem State.modCur_keepSpares (s : State) (f : Thread → Thread) : (s.modCur f).keepSpares = s.keepSpares := rfl
@[simp] theorem State.modCur_mramBad (s : State) (f : Thread → Thread) : (s.modCur f).mramBad = s.mramBad := rfl
@[simp] theorem State.modCur_gateReq (s : State) (f : Thread → Thread) : (s.modCur f).gateReq = s.gateReq := rfl
@[simp] theorem State.modCur_firmware (s : State) (f : Thread → Thread) : (s.modCur f).firmware = s.firmware := rfl
@[simp] theorem State.modCur_powered (s : State) (f : Thread → Thread) : (s.modCur f).powered = s.powered := rfl
@[simp] theorem State.modCur_exchanges (s : State) (f : Thread → Thread) : (s.modCur f).exchanges = s.exchanges := rfl
@[simp] theorem State.modCur_agenda (s : State) (f : Thread → Thread) : (s.modCur f).agenda = s.agenda := rfl
@[simp] theorem State.modCur_background (s : State) (f : Thread → Thread) : (s.modCur f).background = s.background := rfl
@[simp] theorem State.modCur_oracle (s : State) (f : Thread → Thread) : (s.modCur f).oracle = s.oracle := rfl
@[simp] theorem State.modCur_fresh (s : State) (f : Thread → Thread) : (s.modCur f).fresh = s.fresh := rfl
@[simp] theorem State.modCur_issued (s : State) (f : Thread → Thread) : (s.modCur f).issued = s.issued := rfl
@[simp] theorem State.modCur_aborted (s : State) (f : Thread → Thread) : (s.modCur f).aborted = s.aborted := rfl
@[simp] theorem State.modCur_chunkWrites (s : State) (f : Thread → Thread) : (s.modCur f).chunkWrites = s.chunkWrites := rfl

/-! ### `State.modThread` -/

@[simp] theorem State.modThread_cycle (s : State) (t : Tid) (f : Thread → Thread) : (s.modThread t f).cycle = s.cycle := rfl
@[simp] theorem State.modThread_teams (s : State) (t : Tid) (f : Thread → Thread) : (s.modThread t f).teams = s.teams := rfl
@[simp] theorem State.modThread_grids (s : State) (t : Tid) (f : Thread → Thread) : (s.modThread t f).grids = s.grids := rfl
@[simp] theorem State.modThread_cores (s : State) (t : Tid) (f : Thread → Thread) : (s.modThread t f).cores = s.cores := rfl
@[simp] theorem State.modThread_clusters (s : State) (t : Tid) (f : Thread → Thread) : (s.modThread t f).clusters = s.clusters := rfl
@[simp] theorem State.modThread_banks (s : State) (t : Tid) (f : Thread → Thread) : (s.modThread t f).banks = s.banks := rfl
@[simp] theorem State.modThread_queues (s : State) (t : Tid) (f : Thread → Thread) : (s.modThread t f).queues = s.queues := rfl
@[simp] theorem State.modThread_copies (s : State) (t : Tid) (f : Thread → Thread) : (s.modThread t f).copies = s.copies := rfl
@[simp] theorem State.modThread_mem (s : State) (t : Tid) (f : Thread → Thread) : (s.modThread t f).mem = s.mem := rfl
@[simp] theorem State.modThread_empty (s : State) (t : Tid) (f : Thread → Thread) : (s.modThread t f).empty = s.empty := rfl
@[simp] theorem State.modThread_poison (s : State) (t : Tid) (f : Thread → Thread) : (s.modThread t f).poison = s.poison := rfl
@[simp] theorem State.modThread_soft (s : State) (t : Tid) (f : Thread → Thread) : (s.modThread t f).soft = s.soft := rfl
@[simp] theorem State.modThread_keepDurable (s : State) (t : Tid) (f : Thread → Thread) : (s.modThread t f).keepDurable = s.keepDurable := rfl
@[simp] theorem State.modThread_keepEmpty (s : State) (t : Tid) (f : Thread → Thread) : (s.modThread t f).keepEmpty = s.keepEmpty := rfl
@[simp] theorem State.modThread_keepPending (s : State) (t : Tid) (f : Thread → Thread) : (s.modThread t f).keepPending = s.keepPending := rfl
@[simp] theorem State.modThread_fabric (s : State) (t : Tid) (f : Thread → Thread) : (s.modThread t f).fabric = s.fabric := rfl
@[simp] theorem State.modThread_tlb (s : State) (t : Tid) (f : Thread → Thread) : (s.modThread t f).tlb = s.tlb := rfl
@[simp] theorem State.modThread_lines (s : State) (t : Tid) (f : Thread → Thread) : (s.modThread t f).lines = s.lines := rfl
@[simp] theorem State.modThread_fs (s : State) (t : Tid) (f : Thread → Thread) : (s.modThread t f).fs = s.fs := rfl
@[simp] theorem State.modThread_host (s : State) (t : Tid) (f : Thread → Thread) : (s.modThread t f).host = s.host := rfl
@[simp] theorem State.modThread_corrected (s : State) (t : Tid) (f : Thread → Thread) : (s.modThread t f).corrected = s.corrected := rfl
@[simp] theorem State.modThread_reach (s : State) (t : Tid) (f : Thread → Thread) : (s.modThread t f).reach = s.reach := rfl
@[simp] theorem State.modThread_nolend (s : State) (t : Tid) (f : Thread → Thread) : (s.modThread t f).nolend = s.nolend := rfl
@[simp] theorem State.modThread_linksDown (s : State) (t : Tid) (f : Thread → Thread) : (s.modThread t f).linksDown = s.linksDown := rfl
@[simp] theorem State.modThread_linkErrors (s : State) (t : Tid) (f : Thread → Thread) : (s.modThread t f).linkErrors = s.linkErrors := rfl
@[simp] theorem State.modThread_sensors (s : State) (t : Tid) (f : Thread → Thread) : (s.modThread t f).sensors = s.sensors := rfl
@[simp] theorem State.modThread_spares (s : State) (t : Tid) (f : Thread → Thread) : (s.modThread t f).spares = s.spares := rfl
@[simp] theorem State.modThread_keepSpares (s : State) (t : Tid) (f : Thread → Thread) : (s.modThread t f).keepSpares = s.keepSpares := rfl
@[simp] theorem State.modThread_mramBad (s : State) (t : Tid) (f : Thread → Thread) : (s.modThread t f).mramBad = s.mramBad := rfl
@[simp] theorem State.modThread_gateReq (s : State) (t : Tid) (f : Thread → Thread) : (s.modThread t f).gateReq = s.gateReq := rfl
@[simp] theorem State.modThread_firmware (s : State) (t : Tid) (f : Thread → Thread) : (s.modThread t f).firmware = s.firmware := rfl
@[simp] theorem State.modThread_powered (s : State) (t : Tid) (f : Thread → Thread) : (s.modThread t f).powered = s.powered := rfl
@[simp] theorem State.modThread_exchanges (s : State) (t : Tid) (f : Thread → Thread) : (s.modThread t f).exchanges = s.exchanges := rfl
@[simp] theorem State.modThread_agenda (s : State) (t : Tid) (f : Thread → Thread) : (s.modThread t f).agenda = s.agenda := rfl
@[simp] theorem State.modThread_background (s : State) (t : Tid) (f : Thread → Thread) : (s.modThread t f).background = s.background := rfl
@[simp] theorem State.modThread_oracle (s : State) (t : Tid) (f : Thread → Thread) : (s.modThread t f).oracle = s.oracle := rfl
@[simp] theorem State.modThread_fresh (s : State) (t : Tid) (f : Thread → Thread) : (s.modThread t f).fresh = s.fresh := rfl
@[simp] theorem State.modThread_issued (s : State) (t : Tid) (f : Thread → Thread) : (s.modThread t f).issued = s.issued := rfl
@[simp] theorem State.modThread_aborted (s : State) (t : Tid) (f : Thread → Thread) : (s.modThread t f).aborted = s.aborted := rfl
@[simp] theorem State.modThread_chunkWrites (s : State) (t : Tid) (f : Thread → Thread) : (s.modThread t f).chunkWrites = s.chunkWrites := rfl

/-! ### `State.mapThreads` -/

@[simp] theorem State.mapThreads_cycle (s : State) (f : Thread → Thread) : (s.mapThreads f).cycle = s.cycle := rfl
@[simp] theorem State.mapThreads_cur (s : State) (f : Thread → Thread) : (s.mapThreads f).cur = f s.cur := rfl
@[simp] theorem State.mapThreads_rest (s : State) (f : Thread → Thread) : (s.mapThreads f).rest = s.rest.map f := rfl
@[simp] theorem State.mapThreads_teams (s : State) (f : Thread → Thread) : (s.mapThreads f).teams = s.teams := rfl
@[simp] theorem State.mapThreads_grids (s : State) (f : Thread → Thread) : (s.mapThreads f).grids = s.grids := rfl
@[simp] theorem State.mapThreads_cores (s : State) (f : Thread → Thread) : (s.mapThreads f).cores = s.cores := rfl
@[simp] theorem State.mapThreads_clusters (s : State) (f : Thread → Thread) : (s.mapThreads f).clusters = s.clusters := rfl
@[simp] theorem State.mapThreads_banks (s : State) (f : Thread → Thread) : (s.mapThreads f).banks = s.banks := rfl
@[simp] theorem State.mapThreads_queues (s : State) (f : Thread → Thread) : (s.mapThreads f).queues = s.queues := rfl
@[simp] theorem State.mapThreads_copies (s : State) (f : Thread → Thread) : (s.mapThreads f).copies = s.copies := rfl
@[simp] theorem State.mapThreads_mem (s : State) (f : Thread → Thread) : (s.mapThreads f).mem = s.mem := rfl
@[simp] theorem State.mapThreads_empty (s : State) (f : Thread → Thread) : (s.mapThreads f).empty = s.empty := rfl
@[simp] theorem State.mapThreads_poison (s : State) (f : Thread → Thread) : (s.mapThreads f).poison = s.poison := rfl
@[simp] theorem State.mapThreads_soft (s : State) (f : Thread → Thread) : (s.mapThreads f).soft = s.soft := rfl
@[simp] theorem State.mapThreads_keepDurable (s : State) (f : Thread → Thread) : (s.mapThreads f).keepDurable = s.keepDurable := rfl
@[simp] theorem State.mapThreads_keepEmpty (s : State) (f : Thread → Thread) : (s.mapThreads f).keepEmpty = s.keepEmpty := rfl
@[simp] theorem State.mapThreads_keepPending (s : State) (f : Thread → Thread) : (s.mapThreads f).keepPending = s.keepPending := rfl
@[simp] theorem State.mapThreads_fabric (s : State) (f : Thread → Thread) : (s.mapThreads f).fabric = s.fabric := rfl
@[simp] theorem State.mapThreads_tlb (s : State) (f : Thread → Thread) : (s.mapThreads f).tlb = s.tlb := rfl
@[simp] theorem State.mapThreads_lines (s : State) (f : Thread → Thread) : (s.mapThreads f).lines = s.lines := rfl
@[simp] theorem State.mapThreads_fs (s : State) (f : Thread → Thread) : (s.mapThreads f).fs = s.fs := rfl
@[simp] theorem State.mapThreads_host (s : State) (f : Thread → Thread) : (s.mapThreads f).host = s.host := rfl
@[simp] theorem State.mapThreads_corrected (s : State) (f : Thread → Thread) : (s.mapThreads f).corrected = s.corrected := rfl
@[simp] theorem State.mapThreads_reach (s : State) (f : Thread → Thread) : (s.mapThreads f).reach = s.reach := rfl
@[simp] theorem State.mapThreads_nolend (s : State) (f : Thread → Thread) : (s.mapThreads f).nolend = s.nolend := rfl
@[simp] theorem State.mapThreads_linksDown (s : State) (f : Thread → Thread) : (s.mapThreads f).linksDown = s.linksDown := rfl
@[simp] theorem State.mapThreads_linkErrors (s : State) (f : Thread → Thread) : (s.mapThreads f).linkErrors = s.linkErrors := rfl
@[simp] theorem State.mapThreads_sensors (s : State) (f : Thread → Thread) : (s.mapThreads f).sensors = s.sensors := rfl
@[simp] theorem State.mapThreads_spares (s : State) (f : Thread → Thread) : (s.mapThreads f).spares = s.spares := rfl
@[simp] theorem State.mapThreads_keepSpares (s : State) (f : Thread → Thread) : (s.mapThreads f).keepSpares = s.keepSpares := rfl
@[simp] theorem State.mapThreads_mramBad (s : State) (f : Thread → Thread) : (s.mapThreads f).mramBad = s.mramBad := rfl
@[simp] theorem State.mapThreads_gateReq (s : State) (f : Thread → Thread) : (s.mapThreads f).gateReq = s.gateReq := rfl
@[simp] theorem State.mapThreads_firmware (s : State) (f : Thread → Thread) : (s.mapThreads f).firmware = s.firmware := rfl
@[simp] theorem State.mapThreads_powered (s : State) (f : Thread → Thread) : (s.mapThreads f).powered = s.powered := rfl
@[simp] theorem State.mapThreads_exchanges (s : State) (f : Thread → Thread) : (s.mapThreads f).exchanges = s.exchanges := rfl
@[simp] theorem State.mapThreads_agenda (s : State) (f : Thread → Thread) : (s.mapThreads f).agenda = s.agenda := rfl
@[simp] theorem State.mapThreads_background (s : State) (f : Thread → Thread) : (s.mapThreads f).background = s.background := rfl
@[simp] theorem State.mapThreads_oracle (s : State) (f : Thread → Thread) : (s.mapThreads f).oracle = s.oracle := rfl
@[simp] theorem State.mapThreads_fresh (s : State) (f : Thread → Thread) : (s.mapThreads f).fresh = s.fresh := rfl
@[simp] theorem State.mapThreads_issued (s : State) (f : Thread → Thread) : (s.mapThreads f).issued = s.issued := rfl
@[simp] theorem State.mapThreads_aborted (s : State) (f : Thread → Thread) : (s.mapThreads f).aborted = s.aborted := rfl
@[simp] theorem State.mapThreads_chunkWrites (s : State) (f : Thread → Thread) : (s.mapThreads f).chunkWrites = s.chunkWrites := rfl

/-! ### `State.release` -/

@[simp] theorem State.release_cycle (s : State) (sc : Nat) : (s.release sc).cycle = s.cycle := rfl
@[simp] theorem State.release_rest (s : State) (sc : Nat) : (s.release sc).rest = s.rest := rfl
@[simp] theorem State.release_teams (s : State) (sc : Nat) : (s.release sc).teams = s.teams := rfl
@[simp] theorem State.release_grids (s : State) (sc : Nat) : (s.release sc).grids = s.grids := rfl
@[simp] theorem State.release_cores (s : State) (sc : Nat) : (s.release sc).cores = s.cores := rfl
@[simp] theorem State.release_clusters (s : State) (sc : Nat) : (s.release sc).clusters = s.clusters := rfl
@[simp] theorem State.release_banks (s : State) (sc : Nat) : (s.release sc).banks = s.banks := rfl
@[simp] theorem State.release_queues (s : State) (sc : Nat) : (s.release sc).queues = s.queues := rfl
@[simp] theorem State.release_copies (s : State) (sc : Nat) : (s.release sc).copies = s.copies := rfl
@[simp] theorem State.release_mem (s : State) (sc : Nat) : (s.release sc).mem = s.mem := rfl
@[simp] theorem State.release_empty (s : State) (sc : Nat) : (s.release sc).empty = s.empty := rfl
@[simp] theorem State.release_poison (s : State) (sc : Nat) : (s.release sc).poison = s.poison := rfl
@[simp] theorem State.release_soft (s : State) (sc : Nat) : (s.release sc).soft = s.soft := rfl
@[simp] theorem State.release_keepDurable (s : State) (sc : Nat) : (s.release sc).keepDurable = s.keepDurable := rfl
@[simp] theorem State.release_keepEmpty (s : State) (sc : Nat) : (s.release sc).keepEmpty = s.keepEmpty := rfl
@[simp] theorem State.release_keepPending (s : State) (sc : Nat) : (s.release sc).keepPending = s.keepPending := rfl
@[simp] theorem State.release_fabric (s : State) (sc : Nat) : (s.release sc).fabric = s.fabric := rfl
@[simp] theorem State.release_tlb (s : State) (sc : Nat) : (s.release sc).tlb = s.tlb := rfl
@[simp] theorem State.release_lines (s : State) (sc : Nat) : (s.release sc).lines = s.lines := rfl
@[simp] theorem State.release_fs (s : State) (sc : Nat) : (s.release sc).fs = s.fs := rfl
@[simp] theorem State.release_host (s : State) (sc : Nat) : (s.release sc).host = s.host := rfl
@[simp] theorem State.release_corrected (s : State) (sc : Nat) : (s.release sc).corrected = s.corrected := rfl
@[simp] theorem State.release_reach (s : State) (sc : Nat) : (s.release sc).reach = s.reach := rfl
@[simp] theorem State.release_nolend (s : State) (sc : Nat) : (s.release sc).nolend = s.nolend := rfl
@[simp] theorem State.release_linksDown (s : State) (sc : Nat) : (s.release sc).linksDown = s.linksDown := rfl
@[simp] theorem State.release_linkErrors (s : State) (sc : Nat) : (s.release sc).linkErrors = s.linkErrors := rfl
@[simp] theorem State.release_sensors (s : State) (sc : Nat) : (s.release sc).sensors = s.sensors := rfl
@[simp] theorem State.release_spares (s : State) (sc : Nat) : (s.release sc).spares = s.spares := rfl
@[simp] theorem State.release_keepSpares (s : State) (sc : Nat) : (s.release sc).keepSpares = s.keepSpares := rfl
@[simp] theorem State.release_mramBad (s : State) (sc : Nat) : (s.release sc).mramBad = s.mramBad := rfl
@[simp] theorem State.release_gateReq (s : State) (sc : Nat) : (s.release sc).gateReq = s.gateReq := rfl
@[simp] theorem State.release_firmware (s : State) (sc : Nat) : (s.release sc).firmware = s.firmware := rfl
@[simp] theorem State.release_powered (s : State) (sc : Nat) : (s.release sc).powered = s.powered := rfl
@[simp] theorem State.release_exchanges (s : State) (sc : Nat) : (s.release sc).exchanges = s.exchanges := rfl
@[simp] theorem State.release_agenda (s : State) (sc : Nat) : (s.release sc).agenda = s.agenda := rfl
@[simp] theorem State.release_background (s : State) (sc : Nat) : (s.release sc).background = s.background := rfl
@[simp] theorem State.release_oracle (s : State) (sc : Nat) : (s.release sc).oracle = s.oracle := rfl
@[simp] theorem State.release_fresh (s : State) (sc : Nat) : (s.release sc).fresh = s.fresh := rfl
@[simp] theorem State.release_issued (s : State) (sc : Nat) : (s.release sc).issued = s.issued := rfl
@[simp] theorem State.release_aborted (s : State) (sc : Nat) : (s.release sc).aborted = s.aborted := rfl
@[simp] theorem State.release_chunkWrites (s : State) (sc : Nat) : (s.release sc).chunkWrites = s.chunkWrites := rfl

/-! ### `State.modReq` -/

@[simp] theorem State.modReq_cycle (s : State) (n : Nat) (f : Req → Req) : (s.modReq n f).cycle = s.cycle := rfl
@[simp] theorem State.modReq_cur (s : State) (n : Nat) (f : Req → Req) : (s.modReq n f).cur = s.cur := rfl
@[simp] theorem State.modReq_rest (s : State) (n : Nat) (f : Req → Req) : (s.modReq n f).rest = s.rest := rfl
@[simp] theorem State.modReq_teams (s : State) (n : Nat) (f : Req → Req) : (s.modReq n f).teams = s.teams := rfl
@[simp] theorem State.modReq_grids (s : State) (n : Nat) (f : Req → Req) : (s.modReq n f).grids = s.grids := rfl
@[simp] theorem State.modReq_cores (s : State) (n : Nat) (f : Req → Req) : (s.modReq n f).cores = s.cores := rfl
@[simp] theorem State.modReq_clusters (s : State) (n : Nat) (f : Req → Req) : (s.modReq n f).clusters = s.clusters := rfl
@[simp] theorem State.modReq_banks (s : State) (n : Nat) (f : Req → Req) : (s.modReq n f).banks = s.banks := rfl
@[simp] theorem State.modReq_queues (s : State) (n : Nat) (f : Req → Req) : (s.modReq n f).queues = s.queues := rfl
@[simp] theorem State.modReq_copies (s : State) (n : Nat) (f : Req → Req) : (s.modReq n f).copies = s.copies := rfl
@[simp] theorem State.modReq_mem (s : State) (n : Nat) (f : Req → Req) : (s.modReq n f).mem = s.mem := rfl
@[simp] theorem State.modReq_empty (s : State) (n : Nat) (f : Req → Req) : (s.modReq n f).empty = s.empty := rfl
@[simp] theorem State.modReq_poison (s : State) (n : Nat) (f : Req → Req) : (s.modReq n f).poison = s.poison := rfl
@[simp] theorem State.modReq_soft (s : State) (n : Nat) (f : Req → Req) : (s.modReq n f).soft = s.soft := rfl
@[simp] theorem State.modReq_keepDurable (s : State) (n : Nat) (f : Req → Req) : (s.modReq n f).keepDurable = s.keepDurable := rfl
@[simp] theorem State.modReq_keepEmpty (s : State) (n : Nat) (f : Req → Req) : (s.modReq n f).keepEmpty = s.keepEmpty := rfl
@[simp] theorem State.modReq_keepPending (s : State) (n : Nat) (f : Req → Req) : (s.modReq n f).keepPending = s.keepPending := rfl
@[simp] theorem State.modReq_tlb (s : State) (n : Nat) (f : Req → Req) : (s.modReq n f).tlb = s.tlb := rfl
@[simp] theorem State.modReq_lines (s : State) (n : Nat) (f : Req → Req) : (s.modReq n f).lines = s.lines := rfl
@[simp] theorem State.modReq_fs (s : State) (n : Nat) (f : Req → Req) : (s.modReq n f).fs = s.fs := rfl
@[simp] theorem State.modReq_host (s : State) (n : Nat) (f : Req → Req) : (s.modReq n f).host = s.host := rfl
@[simp] theorem State.modReq_corrected (s : State) (n : Nat) (f : Req → Req) : (s.modReq n f).corrected = s.corrected := rfl
@[simp] theorem State.modReq_reach (s : State) (n : Nat) (f : Req → Req) : (s.modReq n f).reach = s.reach := rfl
@[simp] theorem State.modReq_nolend (s : State) (n : Nat) (f : Req → Req) : (s.modReq n f).nolend = s.nolend := rfl
@[simp] theorem State.modReq_linksDown (s : State) (n : Nat) (f : Req → Req) : (s.modReq n f).linksDown = s.linksDown := rfl
@[simp] theorem State.modReq_linkErrors (s : State) (n : Nat) (f : Req → Req) : (s.modReq n f).linkErrors = s.linkErrors := rfl
@[simp] theorem State.modReq_sensors (s : State) (n : Nat) (f : Req → Req) : (s.modReq n f).sensors = s.sensors := rfl
@[simp] theorem State.modReq_spares (s : State) (n : Nat) (f : Req → Req) : (s.modReq n f).spares = s.spares := rfl
@[simp] theorem State.modReq_keepSpares (s : State) (n : Nat) (f : Req → Req) : (s.modReq n f).keepSpares = s.keepSpares := rfl
@[simp] theorem State.modReq_mramBad (s : State) (n : Nat) (f : Req → Req) : (s.modReq n f).mramBad = s.mramBad := rfl
@[simp] theorem State.modReq_gateReq (s : State) (n : Nat) (f : Req → Req) : (s.modReq n f).gateReq = s.gateReq := rfl
@[simp] theorem State.modReq_firmware (s : State) (n : Nat) (f : Req → Req) : (s.modReq n f).firmware = s.firmware := rfl
@[simp] theorem State.modReq_powered (s : State) (n : Nat) (f : Req → Req) : (s.modReq n f).powered = s.powered := rfl
@[simp] theorem State.modReq_exchanges (s : State) (n : Nat) (f : Req → Req) : (s.modReq n f).exchanges = s.exchanges := rfl
@[simp] theorem State.modReq_agenda (s : State) (n : Nat) (f : Req → Req) : (s.modReq n f).agenda = s.agenda := rfl
@[simp] theorem State.modReq_background (s : State) (n : Nat) (f : Req → Req) : (s.modReq n f).background = s.background := rfl
@[simp] theorem State.modReq_oracle (s : State) (n : Nat) (f : Req → Req) : (s.modReq n f).oracle = s.oracle := rfl
@[simp] theorem State.modReq_fresh (s : State) (n : Nat) (f : Req → Req) : (s.modReq n f).fresh = s.fresh := rfl
@[simp] theorem State.modReq_issued (s : State) (n : Nat) (f : Req → Req) : (s.modReq n f).issued = s.issued := rfl
@[simp] theorem State.modReq_aborted (s : State) (n : Nat) (f : Req → Req) : (s.modReq n f).aborted = s.aborted := rfl
@[simp] theorem State.modReq_chunkWrites (s : State) (n : Nat) (f : Req → Req) : (s.modReq n f).chunkWrites = s.chunkWrites := rfl

/-! ### `State.dropReq` -/

@[simp] theorem State.dropReq_cycle (s : State) (n : Nat) : (s.dropReq n).cycle = s.cycle := rfl
@[simp] theorem State.dropReq_cur (s : State) (n : Nat) : (s.dropReq n).cur = s.cur := rfl
@[simp] theorem State.dropReq_rest (s : State) (n : Nat) : (s.dropReq n).rest = s.rest := rfl
@[simp] theorem State.dropReq_teams (s : State) (n : Nat) : (s.dropReq n).teams = s.teams := rfl
@[simp] theorem State.dropReq_grids (s : State) (n : Nat) : (s.dropReq n).grids = s.grids := rfl
@[simp] theorem State.dropReq_cores (s : State) (n : Nat) : (s.dropReq n).cores = s.cores := rfl
@[simp] theorem State.dropReq_clusters (s : State) (n : Nat) : (s.dropReq n).clusters = s.clusters := rfl
@[simp] theorem State.dropReq_banks (s : State) (n : Nat) : (s.dropReq n).banks = s.banks := rfl
@[simp] theorem State.dropReq_queues (s : State) (n : Nat) : (s.dropReq n).queues = s.queues := rfl
@[simp] theorem State.dropReq_copies (s : State) (n : Nat) : (s.dropReq n).copies = s.copies := rfl
@[simp] theorem State.dropReq_mem (s : State) (n : Nat) : (s.dropReq n).mem = s.mem := rfl
@[simp] theorem State.dropReq_empty (s : State) (n : Nat) : (s.dropReq n).empty = s.empty := rfl
@[simp] theorem State.dropReq_poison (s : State) (n : Nat) : (s.dropReq n).poison = s.poison := rfl
@[simp] theorem State.dropReq_soft (s : State) (n : Nat) : (s.dropReq n).soft = s.soft := rfl
@[simp] theorem State.dropReq_keepDurable (s : State) (n : Nat) : (s.dropReq n).keepDurable = s.keepDurable := rfl
@[simp] theorem State.dropReq_keepEmpty (s : State) (n : Nat) : (s.dropReq n).keepEmpty = s.keepEmpty := rfl
@[simp] theorem State.dropReq_keepPending (s : State) (n : Nat) : (s.dropReq n).keepPending = s.keepPending := rfl
@[simp] theorem State.dropReq_fabric (s : State) (n : Nat) : (s.dropReq n).fabric = s.fabric.filter fun r => r.id != n := rfl
@[simp] theorem State.dropReq_tlb (s : State) (n : Nat) : (s.dropReq n).tlb = s.tlb := rfl
@[simp] theorem State.dropReq_lines (s : State) (n : Nat) : (s.dropReq n).lines = s.lines := rfl
@[simp] theorem State.dropReq_fs (s : State) (n : Nat) : (s.dropReq n).fs = s.fs := rfl
@[simp] theorem State.dropReq_host (s : State) (n : Nat) : (s.dropReq n).host = s.host := rfl
@[simp] theorem State.dropReq_corrected (s : State) (n : Nat) : (s.dropReq n).corrected = s.corrected := rfl
@[simp] theorem State.dropReq_reach (s : State) (n : Nat) : (s.dropReq n).reach = s.reach := rfl
@[simp] theorem State.dropReq_nolend (s : State) (n : Nat) : (s.dropReq n).nolend = s.nolend := rfl
@[simp] theorem State.dropReq_linksDown (s : State) (n : Nat) : (s.dropReq n).linksDown = s.linksDown := rfl
@[simp] theorem State.dropReq_linkErrors (s : State) (n : Nat) : (s.dropReq n).linkErrors = s.linkErrors := rfl
@[simp] theorem State.dropReq_sensors (s : State) (n : Nat) : (s.dropReq n).sensors = s.sensors := rfl
@[simp] theorem State.dropReq_spares (s : State) (n : Nat) : (s.dropReq n).spares = s.spares := rfl
@[simp] theorem State.dropReq_keepSpares (s : State) (n : Nat) : (s.dropReq n).keepSpares = s.keepSpares := rfl
@[simp] theorem State.dropReq_mramBad (s : State) (n : Nat) : (s.dropReq n).mramBad = s.mramBad := rfl
@[simp] theorem State.dropReq_gateReq (s : State) (n : Nat) : (s.dropReq n).gateReq = s.gateReq := rfl
@[simp] theorem State.dropReq_firmware (s : State) (n : Nat) : (s.dropReq n).firmware = s.firmware := rfl
@[simp] theorem State.dropReq_powered (s : State) (n : Nat) : (s.dropReq n).powered = s.powered := rfl
@[simp] theorem State.dropReq_exchanges (s : State) (n : Nat) : (s.dropReq n).exchanges = s.exchanges := rfl
@[simp] theorem State.dropReq_agenda (s : State) (n : Nat) : (s.dropReq n).agenda = s.agenda := rfl
@[simp] theorem State.dropReq_background (s : State) (n : Nat) : (s.dropReq n).background = s.background := rfl
@[simp] theorem State.dropReq_oracle (s : State) (n : Nat) : (s.dropReq n).oracle = s.oracle := rfl
@[simp] theorem State.dropReq_fresh (s : State) (n : Nat) : (s.dropReq n).fresh = s.fresh := rfl
@[simp] theorem State.dropReq_issued (s : State) (n : Nat) : (s.dropReq n).issued = s.issued := rfl
@[simp] theorem State.dropReq_aborted (s : State) (n : Nat) : (s.dropReq n).aborted = s.aborted := rfl
@[simp] theorem State.dropReq_chunkWrites (s : State) (n : Nat) : (s.dropReq n).chunkWrites = s.chunkWrites := rfl

/-! ### `State.modCopy` -/

@[simp] theorem State.modCopy_cycle (s : State) (n : Nat) (f : Copy → Copy) : (s.modCopy n f).cycle = s.cycle := rfl
@[simp] theorem State.modCopy_cur (s : State) (n : Nat) (f : Copy → Copy) : (s.modCopy n f).cur = s.cur := rfl
@[simp] theorem State.modCopy_rest (s : State) (n : Nat) (f : Copy → Copy) : (s.modCopy n f).rest = s.rest := rfl
@[simp] theorem State.modCopy_teams (s : State) (n : Nat) (f : Copy → Copy) : (s.modCopy n f).teams = s.teams := rfl
@[simp] theorem State.modCopy_grids (s : State) (n : Nat) (f : Copy → Copy) : (s.modCopy n f).grids = s.grids := rfl
@[simp] theorem State.modCopy_cores (s : State) (n : Nat) (f : Copy → Copy) : (s.modCopy n f).cores = s.cores := rfl
@[simp] theorem State.modCopy_clusters (s : State) (n : Nat) (f : Copy → Copy) : (s.modCopy n f).clusters = s.clusters := rfl
@[simp] theorem State.modCopy_banks (s : State) (n : Nat) (f : Copy → Copy) : (s.modCopy n f).banks = s.banks := rfl
@[simp] theorem State.modCopy_queues (s : State) (n : Nat) (f : Copy → Copy) : (s.modCopy n f).queues = s.queues := rfl
@[simp] theorem State.modCopy_mem (s : State) (n : Nat) (f : Copy → Copy) : (s.modCopy n f).mem = s.mem := rfl
@[simp] theorem State.modCopy_empty (s : State) (n : Nat) (f : Copy → Copy) : (s.modCopy n f).empty = s.empty := rfl
@[simp] theorem State.modCopy_poison (s : State) (n : Nat) (f : Copy → Copy) : (s.modCopy n f).poison = s.poison := rfl
@[simp] theorem State.modCopy_soft (s : State) (n : Nat) (f : Copy → Copy) : (s.modCopy n f).soft = s.soft := rfl
@[simp] theorem State.modCopy_keepDurable (s : State) (n : Nat) (f : Copy → Copy) : (s.modCopy n f).keepDurable = s.keepDurable := rfl
@[simp] theorem State.modCopy_keepEmpty (s : State) (n : Nat) (f : Copy → Copy) : (s.modCopy n f).keepEmpty = s.keepEmpty := rfl
@[simp] theorem State.modCopy_keepPending (s : State) (n : Nat) (f : Copy → Copy) : (s.modCopy n f).keepPending = s.keepPending := rfl
@[simp] theorem State.modCopy_fabric (s : State) (n : Nat) (f : Copy → Copy) : (s.modCopy n f).fabric = s.fabric := rfl
@[simp] theorem State.modCopy_tlb (s : State) (n : Nat) (f : Copy → Copy) : (s.modCopy n f).tlb = s.tlb := rfl
@[simp] theorem State.modCopy_lines (s : State) (n : Nat) (f : Copy → Copy) : (s.modCopy n f).lines = s.lines := rfl
@[simp] theorem State.modCopy_fs (s : State) (n : Nat) (f : Copy → Copy) : (s.modCopy n f).fs = s.fs := rfl
@[simp] theorem State.modCopy_host (s : State) (n : Nat) (f : Copy → Copy) : (s.modCopy n f).host = s.host := rfl
@[simp] theorem State.modCopy_corrected (s : State) (n : Nat) (f : Copy → Copy) : (s.modCopy n f).corrected = s.corrected := rfl
@[simp] theorem State.modCopy_reach (s : State) (n : Nat) (f : Copy → Copy) : (s.modCopy n f).reach = s.reach := rfl
@[simp] theorem State.modCopy_nolend (s : State) (n : Nat) (f : Copy → Copy) : (s.modCopy n f).nolend = s.nolend := rfl
@[simp] theorem State.modCopy_linksDown (s : State) (n : Nat) (f : Copy → Copy) : (s.modCopy n f).linksDown = s.linksDown := rfl
@[simp] theorem State.modCopy_linkErrors (s : State) (n : Nat) (f : Copy → Copy) : (s.modCopy n f).linkErrors = s.linkErrors := rfl
@[simp] theorem State.modCopy_sensors (s : State) (n : Nat) (f : Copy → Copy) : (s.modCopy n f).sensors = s.sensors := rfl
@[simp] theorem State.modCopy_spares (s : State) (n : Nat) (f : Copy → Copy) : (s.modCopy n f).spares = s.spares := rfl
@[simp] theorem State.modCopy_keepSpares (s : State) (n : Nat) (f : Copy → Copy) : (s.modCopy n f).keepSpares = s.keepSpares := rfl
@[simp] theorem State.modCopy_mramBad (s : State) (n : Nat) (f : Copy → Copy) : (s.modCopy n f).mramBad = s.mramBad := rfl
@[simp] theorem State.modCopy_gateReq (s : State) (n : Nat) (f : Copy → Copy) : (s.modCopy n f).gateReq = s.gateReq := rfl
@[simp] theorem State.modCopy_firmware (s : State) (n : Nat) (f : Copy → Copy) : (s.modCopy n f).firmware = s.firmware := rfl
@[simp] theorem State.modCopy_powered (s : State) (n : Nat) (f : Copy → Copy) : (s.modCopy n f).powered = s.powered := rfl
@[simp] theorem State.modCopy_exchanges (s : State) (n : Nat) (f : Copy → Copy) : (s.modCopy n f).exchanges = s.exchanges := rfl
@[simp] theorem State.modCopy_agenda (s : State) (n : Nat) (f : Copy → Copy) : (s.modCopy n f).agenda = s.agenda := rfl
@[simp] theorem State.modCopy_background (s : State) (n : Nat) (f : Copy → Copy) : (s.modCopy n f).background = s.background := rfl
@[simp] theorem State.modCopy_oracle (s : State) (n : Nat) (f : Copy → Copy) : (s.modCopy n f).oracle = s.oracle := rfl
@[simp] theorem State.modCopy_fresh (s : State) (n : Nat) (f : Copy → Copy) : (s.modCopy n f).fresh = s.fresh := rfl
@[simp] theorem State.modCopy_issued (s : State) (n : Nat) (f : Copy → Copy) : (s.modCopy n f).issued = s.issued := rfl
@[simp] theorem State.modCopy_aborted (s : State) (n : Nat) (f : Copy → Copy) : (s.modCopy n f).aborted = s.aborted := rfl
@[simp] theorem State.modCopy_chunkWrites (s : State) (n : Nat) (f : Copy → Copy) : (s.modCopy n f).chunkWrites = s.chunkWrites := rfl

/-! ### `State.takeReply` -/

@[simp] theorem State.takeReply_cycle (s : State) (tok : Nat) : (s.takeReply tok).cycle = s.cycle := rfl
@[simp] theorem State.takeReply_cur (s : State) (tok : Nat) : (s.takeReply tok).cur = s.cur := rfl
@[simp] theorem State.takeReply_rest (s : State) (tok : Nat) : (s.takeReply tok).rest = s.rest := rfl
@[simp] theorem State.takeReply_teams (s : State) (tok : Nat) : (s.takeReply tok).teams = s.teams := rfl
@[simp] theorem State.takeReply_grids (s : State) (tok : Nat) : (s.takeReply tok).grids = s.grids := rfl
@[simp] theorem State.takeReply_cores (s : State) (tok : Nat) : (s.takeReply tok).cores = s.cores := rfl
@[simp] theorem State.takeReply_clusters (s : State) (tok : Nat) : (s.takeReply tok).clusters = s.clusters := rfl
@[simp] theorem State.takeReply_banks (s : State) (tok : Nat) : (s.takeReply tok).banks = s.banks := rfl
@[simp] theorem State.takeReply_queues (s : State) (tok : Nat) : (s.takeReply tok).queues = s.queues := rfl
@[simp] theorem State.takeReply_copies (s : State) (tok : Nat) : (s.takeReply tok).copies = s.copies := rfl
@[simp] theorem State.takeReply_mem (s : State) (tok : Nat) : (s.takeReply tok).mem = s.mem := rfl
@[simp] theorem State.takeReply_empty (s : State) (tok : Nat) : (s.takeReply tok).empty = s.empty := rfl
@[simp] theorem State.takeReply_poison (s : State) (tok : Nat) : (s.takeReply tok).poison = s.poison := rfl
@[simp] theorem State.takeReply_soft (s : State) (tok : Nat) : (s.takeReply tok).soft = s.soft := rfl
@[simp] theorem State.takeReply_keepDurable (s : State) (tok : Nat) : (s.takeReply tok).keepDurable = s.keepDurable := rfl
@[simp] theorem State.takeReply_keepEmpty (s : State) (tok : Nat) : (s.takeReply tok).keepEmpty = s.keepEmpty := rfl
@[simp] theorem State.takeReply_keepPending (s : State) (tok : Nat) : (s.takeReply tok).keepPending = s.keepPending := rfl
@[simp] theorem State.takeReply_fabric (s : State) (tok : Nat) : (s.takeReply tok).fabric = s.fabric := rfl
@[simp] theorem State.takeReply_tlb (s : State) (tok : Nat) : (s.takeReply tok).tlb = s.tlb := rfl
@[simp] theorem State.takeReply_lines (s : State) (tok : Nat) : (s.takeReply tok).lines = s.lines := rfl
@[simp] theorem State.takeReply_fs (s : State) (tok : Nat) : (s.takeReply tok).fs = s.fs.filter fun f => f.token != tok := rfl
@[simp] theorem State.takeReply_host (s : State) (tok : Nat) : (s.takeReply tok).host = s.host := rfl
@[simp] theorem State.takeReply_corrected (s : State) (tok : Nat) : (s.takeReply tok).corrected = s.corrected := rfl
@[simp] theorem State.takeReply_reach (s : State) (tok : Nat) : (s.takeReply tok).reach = s.reach := rfl
@[simp] theorem State.takeReply_nolend (s : State) (tok : Nat) : (s.takeReply tok).nolend = s.nolend := rfl
@[simp] theorem State.takeReply_linksDown (s : State) (tok : Nat) : (s.takeReply tok).linksDown = s.linksDown := rfl
@[simp] theorem State.takeReply_linkErrors (s : State) (tok : Nat) : (s.takeReply tok).linkErrors = s.linkErrors := rfl
@[simp] theorem State.takeReply_sensors (s : State) (tok : Nat) : (s.takeReply tok).sensors = s.sensors := rfl
@[simp] theorem State.takeReply_spares (s : State) (tok : Nat) : (s.takeReply tok).spares = s.spares := rfl
@[simp] theorem State.takeReply_keepSpares (s : State) (tok : Nat) : (s.takeReply tok).keepSpares = s.keepSpares := rfl
@[simp] theorem State.takeReply_mramBad (s : State) (tok : Nat) : (s.takeReply tok).mramBad = s.mramBad := rfl
@[simp] theorem State.takeReply_gateReq (s : State) (tok : Nat) : (s.takeReply tok).gateReq = s.gateReq := rfl
@[simp] theorem State.takeReply_firmware (s : State) (tok : Nat) : (s.takeReply tok).firmware = s.firmware := rfl
@[simp] theorem State.takeReply_powered (s : State) (tok : Nat) : (s.takeReply tok).powered = s.powered := rfl
@[simp] theorem State.takeReply_exchanges (s : State) (tok : Nat) : (s.takeReply tok).exchanges = s.exchanges := rfl
@[simp] theorem State.takeReply_agenda (s : State) (tok : Nat) : (s.takeReply tok).agenda = s.agenda := rfl
@[simp] theorem State.takeReply_background (s : State) (tok : Nat) : (s.takeReply tok).background = s.background := rfl
@[simp] theorem State.takeReply_oracle (s : State) (tok : Nat) : (s.takeReply tok).oracle = s.oracle := rfl
@[simp] theorem State.takeReply_fresh (s : State) (tok : Nat) : (s.takeReply tok).fresh = s.fresh := rfl
@[simp] theorem State.takeReply_issued (s : State) (tok : Nat) : (s.takeReply tok).issued = s.issued := rfl
@[simp] theorem State.takeReply_aborted (s : State) (tok : Nat) : (s.takeReply tok).aborted = s.aborted := rfl
@[simp] theorem State.takeReply_chunkWrites (s : State) (tok : Nat) : (s.takeReply tok).chunkWrites = s.chunkWrites := rfl

/-! ### `State.send` -/

@[simp] theorem State.send_cycle (s : State) (op : ReqOp) (p : List Piece) (d : Dest) (l st : Bool) (c : Counter) (ea : Word) : (s.send op p d l st c ea).cycle = s.cycle := rfl
@[simp] theorem State.send_rest (s : State) (op : ReqOp) (p : List Piece) (d : Dest) (l st : Bool) (c : Counter) (ea : Word) : (s.send op p d l st c ea).rest = s.rest := rfl
@[simp] theorem State.send_grids (s : State) (op : ReqOp) (p : List Piece) (d : Dest) (l st : Bool) (c : Counter) (ea : Word) : (s.send op p d l st c ea).grids = s.grids := rfl
@[simp] theorem State.send_cores (s : State) (op : ReqOp) (p : List Piece) (d : Dest) (l st : Bool) (c : Counter) (ea : Word) : (s.send op p d l st c ea).cores = s.cores := rfl
@[simp] theorem State.send_clusters (s : State) (op : ReqOp) (p : List Piece) (d : Dest) (l st : Bool) (c : Counter) (ea : Word) : (s.send op p d l st c ea).clusters = s.clusters := rfl
@[simp] theorem State.send_banks (s : State) (op : ReqOp) (p : List Piece) (d : Dest) (l st : Bool) (c : Counter) (ea : Word) : (s.send op p d l st c ea).banks = s.banks := rfl
@[simp] theorem State.send_queues (s : State) (op : ReqOp) (p : List Piece) (d : Dest) (l st : Bool) (c : Counter) (ea : Word) : (s.send op p d l st c ea).queues = s.queues := rfl
@[simp] theorem State.send_copies (s : State) (op : ReqOp) (p : List Piece) (d : Dest) (l st : Bool) (c : Counter) (ea : Word) : (s.send op p d l st c ea).copies = s.copies := rfl
@[simp] theorem State.send_mem (s : State) (op : ReqOp) (p : List Piece) (d : Dest) (l st : Bool) (c : Counter) (ea : Word) : (s.send op p d l st c ea).mem = s.mem := rfl
@[simp] theorem State.send_empty (s : State) (op : ReqOp) (p : List Piece) (d : Dest) (l st : Bool) (c : Counter) (ea : Word) : (s.send op p d l st c ea).empty = s.empty := rfl
@[simp] theorem State.send_poison (s : State) (op : ReqOp) (p : List Piece) (d : Dest) (l st : Bool) (c : Counter) (ea : Word) : (s.send op p d l st c ea).poison = s.poison := rfl
@[simp] theorem State.send_soft (s : State) (op : ReqOp) (p : List Piece) (d : Dest) (l st : Bool) (c : Counter) (ea : Word) : (s.send op p d l st c ea).soft = s.soft := rfl
@[simp] theorem State.send_keepDurable (s : State) (op : ReqOp) (p : List Piece) (d : Dest) (l st : Bool) (c : Counter) (ea : Word) : (s.send op p d l st c ea).keepDurable = s.keepDurable := rfl
@[simp] theorem State.send_keepEmpty (s : State) (op : ReqOp) (p : List Piece) (d : Dest) (l st : Bool) (c : Counter) (ea : Word) : (s.send op p d l st c ea).keepEmpty = s.keepEmpty := rfl
@[simp] theorem State.send_keepPending (s : State) (op : ReqOp) (p : List Piece) (d : Dest) (l st : Bool) (c : Counter) (ea : Word) : (s.send op p d l st c ea).keepPending = s.keepPending := rfl
@[simp] theorem State.send_tlb (s : State) (op : ReqOp) (p : List Piece) (d : Dest) (l st : Bool) (c : Counter) (ea : Word) : (s.send op p d l st c ea).tlb = s.tlb := rfl
@[simp] theorem State.send_lines (s : State) (op : ReqOp) (p : List Piece) (d : Dest) (l st : Bool) (c : Counter) (ea : Word) : (s.send op p d l st c ea).lines = s.lines := rfl
@[simp] theorem State.send_fs (s : State) (op : ReqOp) (p : List Piece) (d : Dest) (l st : Bool) (c : Counter) (ea : Word) : (s.send op p d l st c ea).fs = s.fs := rfl
@[simp] theorem State.send_host (s : State) (op : ReqOp) (p : List Piece) (d : Dest) (l st : Bool) (c : Counter) (ea : Word) : (s.send op p d l st c ea).host = s.host := rfl
@[simp] theorem State.send_corrected (s : State) (op : ReqOp) (p : List Piece) (d : Dest) (l st : Bool) (c : Counter) (ea : Word) : (s.send op p d l st c ea).corrected = s.corrected := rfl
@[simp] theorem State.send_reach (s : State) (op : ReqOp) (p : List Piece) (d : Dest) (l st : Bool) (c : Counter) (ea : Word) : (s.send op p d l st c ea).reach = s.reach := rfl
@[simp] theorem State.send_nolend (s : State) (op : ReqOp) (p : List Piece) (d : Dest) (l st : Bool) (c : Counter) (ea : Word) : (s.send op p d l st c ea).nolend = s.nolend := rfl
@[simp] theorem State.send_linksDown (s : State) (op : ReqOp) (p : List Piece) (d : Dest) (l st : Bool) (c : Counter) (ea : Word) : (s.send op p d l st c ea).linksDown = s.linksDown := rfl
@[simp] theorem State.send_linkErrors (s : State) (op : ReqOp) (p : List Piece) (d : Dest) (l st : Bool) (c : Counter) (ea : Word) : (s.send op p d l st c ea).linkErrors = s.linkErrors := rfl
@[simp] theorem State.send_sensors (s : State) (op : ReqOp) (p : List Piece) (d : Dest) (l st : Bool) (c : Counter) (ea : Word) : (s.send op p d l st c ea).sensors = s.sensors := rfl
@[simp] theorem State.send_spares (s : State) (op : ReqOp) (p : List Piece) (d : Dest) (l st : Bool) (c : Counter) (ea : Word) : (s.send op p d l st c ea).spares = s.spares := rfl
@[simp] theorem State.send_keepSpares (s : State) (op : ReqOp) (p : List Piece) (d : Dest) (l st : Bool) (c : Counter) (ea : Word) : (s.send op p d l st c ea).keepSpares = s.keepSpares := rfl
@[simp] theorem State.send_mramBad (s : State) (op : ReqOp) (p : List Piece) (d : Dest) (l st : Bool) (c : Counter) (ea : Word) : (s.send op p d l st c ea).mramBad = s.mramBad := rfl
@[simp] theorem State.send_gateReq (s : State) (op : ReqOp) (p : List Piece) (d : Dest) (l st : Bool) (c : Counter) (ea : Word) : (s.send op p d l st c ea).gateReq = s.gateReq := rfl
@[simp] theorem State.send_firmware (s : State) (op : ReqOp) (p : List Piece) (d : Dest) (l st : Bool) (c : Counter) (ea : Word) : (s.send op p d l st c ea).firmware = s.firmware := rfl
@[simp] theorem State.send_powered (s : State) (op : ReqOp) (p : List Piece) (d : Dest) (l st : Bool) (c : Counter) (ea : Word) : (s.send op p d l st c ea).powered = s.powered := rfl
@[simp] theorem State.send_exchanges (s : State) (op : ReqOp) (p : List Piece) (d : Dest) (l st : Bool) (c : Counter) (ea : Word) : (s.send op p d l st c ea).exchanges = s.exchanges := rfl
@[simp] theorem State.send_agenda (s : State) (op : ReqOp) (p : List Piece) (d : Dest) (l st : Bool) (c : Counter) (ea : Word) : (s.send op p d l st c ea).agenda = s.agenda := rfl
@[simp] theorem State.send_background (s : State) (op : ReqOp) (p : List Piece) (d : Dest) (l st : Bool) (c : Counter) (ea : Word) : (s.send op p d l st c ea).background = s.background := rfl
@[simp] theorem State.send_oracle (s : State) (op : ReqOp) (p : List Piece) (d : Dest) (l st : Bool) (c : Counter) (ea : Word) : (s.send op p d l st c ea).oracle = s.oracle := rfl
@[simp] theorem State.send_fresh (s : State) (op : ReqOp) (p : List Piece) (d : Dest) (l st : Bool) (c : Counter) (ea : Word) : (s.send op p d l st c ea).fresh = s.fresh + 1 := rfl
@[simp] theorem State.send_issued (s : State) (op : ReqOp) (p : List Piece) (d : Dest) (l st : Bool) (c : Counter) (ea : Word) : (s.send op p d l st c ea).issued = s.issued := rfl
@[simp] theorem State.send_aborted (s : State) (op : ReqOp) (p : List Piece) (d : Dest) (l st : Bool) (c : Counter) (ea : Word) : (s.send op p d l st c ea).aborted = s.aborted := rfl
@[simp] theorem State.send_chunkWrites (s : State) (op : ReqOp) (p : List Piece) (d : Dest) (l st : Bool) (c : Counter) (ea : Word) : (s.send op p d l st c ea).chunkWrites = s.chunkWrites := rfl

/-! ### Registers of a thread -/

@[simp] theorem Thread.setReg_id (t : Thread) (d : Reg) (v : Word) : (t.setReg d v).id = t.id := by
  unfold Thread.setReg; split <;> rfl
@[simp] theorem Thread.setReg_pc (t : Thread) (d : Reg) (v : Word) : (t.setReg d v).pc = t.pc := by
  unfold Thread.setReg; split <;> rfl
@[simp] theorem Thread.setReg_fregs (t : Thread) (d : Reg) (v : Word) : (t.setReg d v).fregs = t.fregs := by
  unfold Thread.setReg; split <;> rfl
@[simp] theorem Thread.setReg_tstat (t : Thread) (d : Reg) (v : Word) : (t.setReg d v).tstat = t.tstat := by
  unfold Thread.setReg; split <;> rfl
@[simp] theorem Thread.setReg_cntL (t : Thread) (d : Reg) (v : Word) : (t.setReg d v).cntL = t.cntL := by
  unfold Thread.setReg; split <;> rfl
@[simp] theorem Thread.setReg_cntS (t : Thread) (d : Reg) (v : Word) : (t.setReg d v).cntS = t.cntS := by
  unfold Thread.setReg; split <;> rfl
@[simp] theorem Thread.setReg_cntC (t : Thread) (d : Reg) (v : Word) : (t.setReg d v).cntC = t.cntC := by
  unfold Thread.setReg; split <;> rfl
@[simp] theorem Thread.setReg_cntM (t : Thread) (d : Reg) (v : Word) : (t.setReg d v).cntM = t.cntM := by
  unfold Thread.setReg; split <;> rfl
@[simp] theorem Thread.setReg_tvec (t : Thread) (d : Reg) (v : Word) : (t.setReg d v).tvec = t.tvec := by
  unfold Thread.setReg; split <;> rfl
@[simp] theorem Thread.setReg_tcause (t : Thread) (d : Reg) (v : Word) : (t.setReg d v).tcause = t.tcause := by
  unfold Thread.setReg; split <;> rfl
@[simp] theorem Thread.setReg_tpc (t : Thread) (d : Reg) (v : Word) : (t.setReg d v).tpc = t.tpc := by
  unfold Thread.setReg; split <;> rfl
@[simp] theorem Thread.setReg_tval (t : Thread) (d : Reg) (v : Word) : (t.setReg d v).tval = t.tval := by
  unfold Thread.setReg; split <;> rfl
@[simp] theorem Thread.setReg_phaseNo (t : Thread) (d : Reg) (v : Word) : (t.setReg d v).phaseNo = t.phaseNo := by
  unfold Thread.setReg; split <;> rfl
@[simp] theorem Thread.setReg_closed (t : Thread) (d : Reg) (v : Word) : (t.setReg d v).closed = t.closed := by
  unfold Thread.setReg; split <;> rfl
@[simp] theorem Thread.setReg_far (t : Thread) (d : Reg) (v : Word) : (t.setReg d v).far = t.far := by
  unfold Thread.setReg; split <;> rfl
@[simp] theorem Thread.setReg_epoch (t : Thread) (d : Reg) (v : Word) : (t.setReg d v).epoch = t.epoch := by
  unfold Thread.setReg; split <;> rfl
@[simp] theorem Thread.setReg_awaiting (t : Thread) (d : Reg) (v : Word) : (t.setReg d v).awaiting = t.awaiting := by
  unfold Thread.setReg; split <;> rfl
@[simp] theorem Thread.setReg_streams (t : Thread) (d : Reg) (v : Word) : (t.setReg d v).streams = t.streams := by
  unfold Thread.setReg; split <;> rfl
@[simp] theorem Thread.setReg_resq (t : Thread) (d : Reg) (v : Word) : (t.setReg d v).resq = t.resq := by
  unfold Thread.setReg; split <;> rfl
@[simp] theorem Thread.setReg_log (t : Thread) (d : Reg) (v : Word) : (t.setReg d v).log = t.log := by
  unfold Thread.setReg; split <;> rfl
@[simp] theorem Thread.setReg_vreplay (t : Thread) (d : Reg) (v : Word) : (t.setReg d v).vreplay = t.vreplay := by
  unfold Thread.setReg; split <;> rfl
@[simp] theorem Thread.setReg_wait (t : Thread) (d : Reg) (v : Word) : (t.setReg d v).wait = t.wait := by
  unfold Thread.setReg; split <;> rfl
@[simp] theorem Thread.setReg_core (t : Thread) (d : Reg) (v : Word) : (t.setReg d v).core = t.core := by
  unfold Thread.setReg; split <;> rfl
@[simp] theorem Thread.setReg_slot (t : Thread) (d : Reg) (v : Word) : (t.setReg d v).slot = t.slot := by
  unfold Thread.setReg; split <;> rfl
@[simp] theorem Thread.setReg_homeSlot (t : Thread) (d : Reg) (v : Word) : (t.setReg d v).homeSlot = t.homeSlot := by
  unfold Thread.setReg; split <;> rfl
@[simp] theorem Thread.setReg_launches (t : Thread) (d : Reg) (v : Word) : (t.setReg d v).launches = t.launches := by
  unfold Thread.setReg; split <;> rfl
@[simp] theorem Thread.setReg_promises (t : Thread) (d : Reg) (v : Word) : (t.setReg d v).promises = t.promises := by
  unfold Thread.setReg; split <;> rfl
@[simp] theorem Thread.setReg_traps (t : Thread) (d : Reg) (v : Word) : (t.setReg d v).traps = t.traps := by
  unfold Thread.setReg; split <;> rfl
@[simp] theorem Thread.setReg_taskAt (t : Thread) (d : Reg) (v : Word) : (t.setReg d v).taskAt = t.taskAt := by
  unfold Thread.setReg; split <;> rfl
@[simp] theorem Thread.setReg_yieldUntil (t : Thread) (d : Reg) (v : Word) : (t.setReg d v).yieldUntil = t.yieldUntil := by
  unfold Thread.setReg; split <;> rfl
@[simp] theorem Thread.setReg_half (t : Thread) (d : Reg) (v : Word) : (t.setReg d v).half = t.half := by
  unfold Thread.setReg; split <;> rfl
@[simp] theorem Thread.setReg_outer (t : Thread) (d : Reg) (v : Word) : (t.setReg d v).outer = t.outer := by
  unfold Thread.setReg; split <;> rfl
@[simp] theorem Thread.setReg_got (t : Thread) (d : Reg) (v : Word) : (t.setReg d v).got = t.got := by
  unfold Thread.setReg; split <;> rfl
@[simp] theorem Thread.setFreg_id (t : Thread) (d : FRegN) (v : FReg) : (t.setFreg d v).id = t.id := rfl
@[simp] theorem Thread.setFreg_regs (t : Thread) (d : FRegN) (v : FReg) : (t.setFreg d v).regs = t.regs := rfl
@[simp] theorem Thread.setFreg_pc (t : Thread) (d : FRegN) (v : FReg) : (t.setFreg d v).pc = t.pc := rfl
@[simp] theorem Thread.setFreg_tstat (t : Thread) (d : FRegN) (v : FReg) : (t.setFreg d v).tstat = t.tstat := rfl
@[simp] theorem Thread.setFreg_cntL (t : Thread) (d : FRegN) (v : FReg) : (t.setFreg d v).cntL = t.cntL := rfl
@[simp] theorem Thread.setFreg_cntS (t : Thread) (d : FRegN) (v : FReg) : (t.setFreg d v).cntS = t.cntS := rfl
@[simp] theorem Thread.setFreg_cntC (t : Thread) (d : FRegN) (v : FReg) : (t.setFreg d v).cntC = t.cntC := rfl
@[simp] theorem Thread.setFreg_cntM (t : Thread) (d : FRegN) (v : FReg) : (t.setFreg d v).cntM = t.cntM := rfl
@[simp] theorem Thread.setFreg_tvec (t : Thread) (d : FRegN) (v : FReg) : (t.setFreg d v).tvec = t.tvec := rfl
@[simp] theorem Thread.setFreg_tcause (t : Thread) (d : FRegN) (v : FReg) : (t.setFreg d v).tcause = t.tcause := rfl
@[simp] theorem Thread.setFreg_tpc (t : Thread) (d : FRegN) (v : FReg) : (t.setFreg d v).tpc = t.tpc := rfl
@[simp] theorem Thread.setFreg_tval (t : Thread) (d : FRegN) (v : FReg) : (t.setFreg d v).tval = t.tval := rfl
@[simp] theorem Thread.setFreg_phaseNo (t : Thread) (d : FRegN) (v : FReg) : (t.setFreg d v).phaseNo = t.phaseNo := rfl
@[simp] theorem Thread.setFreg_closed (t : Thread) (d : FRegN) (v : FReg) : (t.setFreg d v).closed = t.closed := rfl
@[simp] theorem Thread.setFreg_far (t : Thread) (d : FRegN) (v : FReg) : (t.setFreg d v).far = t.far := rfl
@[simp] theorem Thread.setFreg_epoch (t : Thread) (d : FRegN) (v : FReg) : (t.setFreg d v).epoch = t.epoch := rfl
@[simp] theorem Thread.setFreg_awaiting (t : Thread) (d : FRegN) (v : FReg) : (t.setFreg d v).awaiting = t.awaiting := rfl
@[simp] theorem Thread.setFreg_streams (t : Thread) (d : FRegN) (v : FReg) : (t.setFreg d v).streams = t.streams := rfl
@[simp] theorem Thread.setFreg_resq (t : Thread) (d : FRegN) (v : FReg) : (t.setFreg d v).resq = t.resq := rfl
@[simp] theorem Thread.setFreg_log (t : Thread) (d : FRegN) (v : FReg) : (t.setFreg d v).log = t.log := rfl
@[simp] theorem Thread.setFreg_vreplay (t : Thread) (d : FRegN) (v : FReg) : (t.setFreg d v).vreplay = t.vreplay := rfl
@[simp] theorem Thread.setFreg_wait (t : Thread) (d : FRegN) (v : FReg) : (t.setFreg d v).wait = t.wait := rfl
@[simp] theorem Thread.setFreg_core (t : Thread) (d : FRegN) (v : FReg) : (t.setFreg d v).core = t.core := rfl
@[simp] theorem Thread.setFreg_slot (t : Thread) (d : FRegN) (v : FReg) : (t.setFreg d v).slot = t.slot := rfl
@[simp] theorem Thread.setFreg_homeSlot (t : Thread) (d : FRegN) (v : FReg) : (t.setFreg d v).homeSlot = t.homeSlot := rfl
@[simp] theorem Thread.setFreg_launches (t : Thread) (d : FRegN) (v : FReg) : (t.setFreg d v).launches = t.launches := rfl
@[simp] theorem Thread.setFreg_promises (t : Thread) (d : FRegN) (v : FReg) : (t.setFreg d v).promises = t.promises := rfl
@[simp] theorem Thread.setFreg_traps (t : Thread) (d : FRegN) (v : FReg) : (t.setFreg d v).traps = t.traps := rfl
@[simp] theorem Thread.setFreg_taskAt (t : Thread) (d : FRegN) (v : FReg) : (t.setFreg d v).taskAt = t.taskAt := rfl
@[simp] theorem Thread.setFreg_yieldUntil (t : Thread) (d : FRegN) (v : FReg) : (t.setFreg d v).yieldUntil = t.yieldUntil := rfl
@[simp] theorem Thread.setFreg_half (t : Thread) (d : FRegN) (v : FReg) : (t.setFreg d v).half = t.half := rfl
@[simp] theorem Thread.setFreg_outer (t : Thread) (d : FRegN) (v : FReg) : (t.setFreg d v).outer = t.outer := rfl
@[simp] theorem Thread.setFreg_got (t : Thread) (d : FRegN) (v : FReg) : (t.setFreg d v).got = t.got := rfl

/-- A register reads what was written to it; `s0` reads 0 (R108). -/
@[simp] theorem Thread.reg_setReg (t : Thread) (d r : Reg) (v : Word) :
    (t.setReg d v).reg r = if r = d ∧ d ≠ 0 then v else t.reg r := by
  by_cases hd : d = 0#4
  · simp [Thread.setReg, hd]
  · by_cases hr : r = 0#4
    · have h : ¬ r = d := fun h => hd (h ▸ hr)
      simp only [h, false_and, if_false]; simp [Thread.reg, hr]
    · by_cases h : r = d
      · subst h; simp [Thread.reg, Thread.setReg, hd]
      · have hn : d.toNat ≠ r.toNat := fun e => h (BitVec.eq_of_toNat_eq e).symm
        simp [Thread.reg, Thread.setReg, hd, hr, h, hn]

/-- The register `s0` reads 0 (R108). -/
@[simp] theorem Thread.reg_zero (t : Thread) : t.reg 0 = 0 := by simp [Thread.reg]

@[simp] theorem State.setReg_reg (s : State) (d r : Reg) (v : Word) :
    (s.setReg d v).reg r = if r = d ∧ d ≠ 0 then v else s.reg r := Thread.reg_setReg s.cur d r v

@[simp] theorem State.advance_reg (s : State) (r : Reg) : s.advance.reg r = s.reg r := rfl

@[simp] theorem State.await_reg (s : State) (w : Wait) (r : Reg) : (s.await w).reg r = s.reg r := rfl

/-- What a register write changes: the register file alone. -/
theorem State.setReg_frame (s : State) (d : Reg) (v : Word) :
    s.setReg d v = { s with cur := { s.cur with regs := (s.setReg d v).cur.regs } } := by
  unfold State.setReg Thread.setReg; split <;> rfl

/-- A function register reads what was written to it. -/
@[simp] theorem Thread.freg_setFreg (t : Thread) (d f : FRegN) (v : FReg) :
    (t.setFreg d v).freg f = if f = d then v else t.freg f := by
  unfold Thread.freg Thread.setFreg
  by_cases h : f = d
  · subst h; simp
  · have hn : d.toNat ≠ f.toNat := fun e => h (BitVec.eq_of_toNat_eq e).symm
    simp [h, hn]

end Sys2Proof.Machine
end

