-- ==== Sys2Proof/Laws/Ops.lean ====
section
/-! SUPPORT. What each shared operation can do, said once: lookups after an update, memory and full/empty bits after a write, what
translation, checks, records and faults may change, what a trap and an access do, and that each keeps the canonical form of memory. -/

namespace Sys2Proof.Machine

set_option Elab.async false

/-! ### Sparse lists and lookups -/

/-- Looking up a number after a record has been put in under its own. -/
theorem find_upsert {α : Type} (num : α → Nat) (x : α) (l : List α) (n : Nat) :
    (upsert num x l).find? (num · == n) = if n = num x then some x else l.find? (num · == n) := by
  induction l with
  | nil =>
    by_cases h : n = num x
    · simp [upsert, h]
    · have : num x ≠ n := fun e => h e.symm
      simp [upsert, h, this]
  | cons y r ih =>
    unfold upsert
    by_cases hy : num y = num x
    · by_cases h : n = num x
      · simp [hy, h]
      · have h1 : num x ≠ n := fun e => h e.symm
        simp [hy, h, h1]
    · by_cases h : num y = n
      · have : n ≠ num x := fun e => hy (h.trans e)
        simp [h, this]
      · simp only [hy, if_false, List.find?_cons, beq_eq_false_iff_ne.2 h]; exact ih

/-- A core after one is set. -/
theorem State.core_setCore (s : State) (k : Core) (c : Nat) : (s.setCore k).core c = if c = k.num then k else s.core c := by
  unfold State.core State.setCore; rw [find_upsert]; split <;> rfl

/-- A cluster after one is set. -/
theorem State.cluster_setCluster (s : State) (k : Cluster) (c : Nat) :
    (s.setCluster k).cluster c = if c = k.num then k else s.cluster c := by
  unfold State.cluster State.setCluster; rw [find_upsert]; split <;> rfl

/-- A bank after one is set. -/
theorem State.bank_setBank (s : State) (k : Bank) (b : Nat) : (s.setBank k).bank b = if b = k.num then k else s.bank b := by
  unfold State.bank State.setBank; rw [find_upsert]; split <;> rfl

/-- A queue after one is set. -/
theorem State.queue_setQueue (s : State) (k : Queue) (q : Nat) : (s.setQueue k).queue q = if q = k.num then k else s.queue q := by
  unfold State.queue State.setQueue; rw [find_upsert]; split <;> rfl

/-- A reach block after one is set. -/
theorem State.reachOf_setReach (s : State) (k : Reach) (n : Nat) :
    (s.setReach k).reachOf n = if n = k.num then k else s.reachOf n := by
  unfold State.reachOf State.setReach; rw [find_upsert]; split <;> rfl

/-- A count after one is raised. -/
theorem countAt_bump (key n k : Nat) (l : List (Nat × Nat)) :
    countAt k (bump key n l) = countAt k l + if k = key then n else 0 := by
  induction l with
  | nil =>
    by_cases h : k = key
    · simp [bump, countAt, h]
    · have : key ≠ k := fun e => h e.symm
      simp [bump, countAt, h, this]
  | cons p r ih =>
    obtain ⟨a, v⟩ := p
    unfold bump
    by_cases ha : a = key
    · by_cases h : k = key
      · simp [countAt, ha, h]
      · have : key ≠ k := fun e => h e.symm
        simp [countAt, ha, h, this]
    · by_cases h : a = k
      · have : k ≠ key := fun e => ha (h.trans e)
        simp [countAt, h, this]
      · simp [countAt, ha, h, ih]

/-- A live grid after one is changed by a function that keeps its number. -/
theorem State.grid?_modGrid (s : State) (g n : Nat) (f : Grid → Grid) (hf : ∀ x, (f x).num = x.num) :
    (s.modGrid g f).grid? n = (s.grid? n).map fun x => if x.num = g then f x else x := by
  unfold State.grid? State.modGrid
  simp only [List.find?_map]
  congr 2
  funext x
  simp only [Function.comp]
  split <;> simp [hf]

/-! ### Bytes and full/empty bits -/

/-- The memory of the machine after a write (R3): the bytes written hold the value, every other byte is as before. -/
theorem State.byte_store (s : State) (k n v x : Nat) (h : Memory.wf s.mem = true) :
    (s.store k n v).byte x = if k ≤ x ∧ x < k + n then BitVec.ofNat 8 (v / 256 ^ (x - k)) else s.byte x := by
  by_cases hx : k ≤ x ∧ x < k + n
  · rw [if_pos hx]; exact Memory.get_store_in s.mem k v n x h hx.1 hx.2
  · rw [if_neg hx]; exact Memory.get_store s.mem k v n x h (by omega)

/-- The full/empty bits after one is set (R66). -/
theorem State.isFull_setFull (s : State) (k x : Nat) (v : Bool) :
    (s.setFull k v).isFull x = if x / 8 = k / 8 then v else s.isFull x := by
  unfold State.isFull State.setFull
  cases v
  · by_cases hc : k / 8 ∈ s.empty
    · by_cases hx : x / 8 = k / 8
      · simp [hc, hx]
      · simp [hc, hx]
    · by_cases hx : x / 8 = k / 8
      · simp [hc, hx]
      · simp [hc, hx]
  · by_cases hx : x / 8 = k / 8
    · simp [hx]
    · simp [hx]

/-! ### Records to the host -/

/-- A write changes memory, and clears the errors of whole words (R345). -/
theorem State.store_frame (s : State) (k n v : Nat) :
    s.store k n v = { s with mem := (s.store k n v).mem, poison := (s.store k n v).poison, soft := (s.store k n v).soft } := rfl

/-- Only memory, errors, copies of lines, the host's registers and the fault-service records may differ. -/
def RecordsOnly (s t : State) : Prop :=
  ∃ m p e l h f, t = { s with mem := m, poison := p, soft := e, lines := l, host := h, fs := f }

theorem RecordsOnly.refl (s : State) : RecordsOnly s s := ⟨_, _, _, _, _, _, rfl⟩

theorem RecordsOnly.deviceStore {s t : State} (h : RecordsOnly s t) (k n v : Nat) : RecordsOnly s (t.deviceStore k n v) := by
  obtain ⟨_, _, _, _, _, _, rfl⟩ := h; exact ⟨_, _, _, _, _, _, rfl⟩

theorem RecordsOnly.setHost {s t : State} (h : RecordsOnly s t) (x : HostRegs) : RecordsOnly s { t with host := x } := by
  obtain ⟨_, _, _, _, _, _, rfl⟩ := h; exact ⟨_, _, _, _, _, _, rfl⟩

theorem RecordsOnly.setFs {s t : State} (h : RecordsOnly s t) (x : List FsRec) : RecordsOnly s { t with fs := x } := by
  obtain ⟨_, _, _, _, _, _, rfl⟩ := h; exact ⟨_, _, _, _, _, _, rfl⟩

/-- A telemetry record changes memory, errors and copies of what it writes, and the ring's registers (R343). -/
theorem RecordsOnly.telemetry {s t : State} (h : RecordsOnly s t) (kind sub loc addr value : Nat) :
    RecordsOnly s (t.telemetry kind sub loc addr value) := by
  unfold State.telemetry State.interrupt
  simp only []
  split <;> split
  · exact (h.setHost _).deviceStore _ _ _
  · exact ((((((h.deviceStore _ _ _).deviceStore _ _ _).deviceStore _ _ _).deviceStore _ _ _).setHost _).deviceStore _ _ _)
  · exact h.setHost _
  · exact ((((h.deviceStore _ _ _).deviceStore _ _ _).deviceStore _ _ _).deviceStore _ _ _).setHost _

theorem State.telemetry_only (s : State) (kind sub loc addr value : Nat) : RecordsOnly s (s.telemetry kind sub loc addr value) :=
  (RecordsOnly.refl s).telemetry _ _ _ _ _

/-- Waiting fault-service records being written change memory, errors, copies, the ring's registers and the records (R289). -/
theorem pumpList_only (l : List FsRec) (s t : State) (done : List FsRec) (h : RecordsOnly s t) : RecordsOnly s (pumpList l t done) := by
  induction l generalizing t done with
  | nil => exact h.setFs _
  | cons r rest ih =>
    unfold pumpList
    simp only []
    split
    · exact ih _ _ h
    · split
      · exact ih _ _ h
      · exact ih _ _ ((((((h.deviceStore _ _ _).deviceStore _ _ _).deviceStore _ _ _).deviceStore _ _ _).setHost _).deviceStore _ _ _)

/-- A fault-service record added (R289): besides, one number is used. -/
theorem State.addFs_only (s : State) (va : Word) (t : Tid) (kind : Nat) (who : FsWho) :
    RecordsOnly { s with fresh := s.fresh + 1 } (s.addFs va t kind who).2 :=
  pumpList_only _ _ _ _ ((RecordsOnly.refl _).setFs _)

/-! ### What translation and checks may change -/

/-- Besides records to the host, only translations held, the oracle and its counter, and the counts of corrected errors may differ:
what a walk leaves (R55, R344; log entry 1). -/
def WalksOnly (s t : State) : Prop :=
  ∃ b o n c, RecordsOnly { s with tlb := b, oracle := o, fresh := n, corrected := c } t

theorem RecordsOnly.walksOnly {s t : State} (h : RecordsOnly s t) : WalksOnly s t := ⟨_, _, _, _, h⟩

/-- What a walk itself leaves. -/
theorem WalksOnly.walk (s : State) (b : List TlbEntry) (o : List Nat) (n : Nat) (c : List Corrected) :
    WalksOnly s { s with tlb := b, oracle := o, fresh := n, corrected := c } := ⟨b, o, n, c, .refl _⟩

theorem WalksOnly.refl (s : State) : WalksOnly s s := (RecordsOnly.refl s).walksOnly

theorem WalksOnly.trans {s t u : State} (h : WalksOnly s t) (k : WalksOnly t u) : WalksOnly s u := by
  obtain ⟨_, _, _, _, _, _, _, _, _, _, rfl⟩ := h
  obtain ⟨_, _, _, _, _, _, _, _, _, _, rfl⟩ := k
  exact ⟨_, _, _, _, _, _, _, _, _, _, rfl⟩

/-- The spec's open choices are taken from the oracle or the counter: a draw changes nothing else (log entry 1). -/
theorem State.draw_frame (s : State) : s.draw.2 = { s with oracle := s.draw.2.oracle, fresh := s.draw.2.fresh } := by
  unfold State.draw; split <;> rfl

/-- Page-table entries held, nothing else (R55). -/
theorem State.holdTrail_frame (s : State) (q loc : Nat) (p : Place) :
    s.holdTrail q loc p = { s with tlb := (s.holdTrail q loc p).tlb } := by
  unfold State.holdTrail; split <;> rfl

/-- An error corrected: its place, the count of it, and perhaps a record (R343, R344). -/
theorem State.correct_only (s : State) (place sub loc addr : Nat) : WalksOnly s (s.correct place sub loc addr) := by
  unfold State.correct
  simp only []
  have none : ∀ (e : List Nat) (c : List Corrected), WalksOnly s { s with soft := e, corrected := c } :=
    fun e c => ⟨s.tlb, s.oracle, s.fresh, c, s.mem, s.poison, e, s.lines, s.host, s.fs, rfl⟩
  split
  · exact (none _ _).trans (State.telemetry_only _ _ _ _ _ _).walksOnly
  · split
    · exact (none _ _).trans (State.telemetry_only _ _ _ _ _ _).walksOnly
    · exact none _ _

/-- A place free of errors: the errors alone. -/
theorem State.clearError_only (s : State) (n : Nat) : WalksOnly s (s.clearError n) := ⟨_, _, _, _, _, _, _, _, _, _, rfl⟩

/-- An error of a clean copy reported and gone: the same. -/
theorem State.recovered_only (s : State) (place sub loc addr : Nat) : WalksOnly s (s.recovered place sub loc addr) :=
  (s.clearError_only place).trans (State.telemetry_only _ _ _ _ _ _).walksOnly

/-- Steps of a list that each leave no more than a walk does. -/
theorem WalksOnly.foldl {α : Type} (f : State → α → State) (hf : ∀ t a, WalksOnly t (f t a)) (l : List α) (s : State) :
    WalksOnly s (l.foldl f s) := by
  induction l generalizing s with
  | nil => exact .refl s
  | cons a r ih => exact (hf s a).trans (ih _)

/-- Words read, the same of each error corrected. -/
theorem State.correctWords_only (s : State) (a n : Nat) : WalksOnly s (s.correctWords a n) :=
  WalksOnly.trans (.foldl _ (fun t _ => t.correct_only _ _ _ _) _ _) (.foldl _ (fun t _ => t.recovered_only _ _ _ _) _ _)

/-- The choice of a route, a draw at most (R355). -/
theorem State.noRoute_frame (s : State) (ks : List Nat) :
    (s.noRoute ks).2 = { s with oracle := (s.noRoute ks).2.oracle, fresh := (s.noRoute ks).2.fresh } := by
  unfold State.noRoute
  split
  · exact s.draw_frame
  · rfl

/-- The entries of a walk read, the same. -/
theorem State.correctTrail_only (s : State) (q loc : Nat) : WalksOnly s (s.correctTrail q loc) := by
  unfold State.correctTrail
  split
  · exact .refl s
  · exact .foldl _ (fun t _ => t.correctWords_only _ _) _ _

/-- Everything that a translation may change (R55, R344). -/
theorem State.translate_only (s : State) (q loc : Nat) : WalksOnly s (s.translate q loc).2 := by
  have held : ∀ (t : State) (p : Place), WalksOnly t ((t.holdTrail q loc p).correctTrail q loc) := by
    intro t p
    refine WalksOnly.trans ?_ (State.correctTrail_only _ _ _)
    rw [t.holdTrail_frame]; exact .walk _ _ _ _ _
  have drawn : ∀ t : State, WalksOnly t t.draw.2 := fun t => by rw [t.draw_frame]; exact .walk _ _ _ _ _
  have route : ∀ ks, WalksOnly s (s.noRoute ks).2 := fun ks => by rw [s.noRoute_frame]; exact .walk _ _ _ _ _
  unfold State.translate
  simp only []
  split
  · exact route _
  · split
    · exact (route _).trans (held _ _)
    · exact (route _).trans ((drawn _).trans (held _ _))

/-- The same of a location (R50, R51). -/
theorem State.place_only (s : State) (g loc : Nat) : WalksOnly s (s.place g loc).2 := by
  unfold State.place; split
  · exact .refl s
  · exact s.translate_only _ _

/-- The same of a list of addresses. -/
theorem State.places_only (s : State) (g : Nat) (l : List Word) : WalksOnly s (s.places g l).2 := by
  induction l generalizing s with
  | nil => exact .refl s
  | cons ea r ih => exact (s.place_only g (locOf ea)).trans (ih _)

/-- The same of the checks of an access (R329). -/
theorem State.check_only (s : State) (ea : Word) (ok : Bool) (sz al : Nat) (w : Bool) (units : List Nat) :
    WalksOnly s (s.check ea ok sz al w units).2 := by
  unfold State.check
  split
  · exact .refl s
  · split
    · exact .refl s
    · exact s.places_only _ _

/-- R329: the units mapped, and writable where that is asked, pass the check over their places. -/
theorem checkPlaces_mapped (w : Bool) (eas : List Word) (ps : List (Nat × Bool × Bool)) (hl : ps.length = eas.length)
    (hw : w = true → ∀ p ∈ ps, p.2.1 = true) :
    checkPlaces w (eas.zip (ps.map fun p => Place.mem p.1 p.2.1 p.2.2)) = .ok (ps.map (·.1)) := by
  have hz : ∀ x ∈ eas.zip (ps.map fun p => Place.mem p.1 p.2.1 p.2.2), ∃ p ∈ ps, x.2 = Place.mem p.1 p.2.1 p.2.2 := by
    intro x hx
    obtain ⟨p, hp, e⟩ := List.mem_map.1 (List.of_mem_zip hx).2
    exact ⟨p, hp, e.symm⟩
  unfold checkPlaces
  rw [List.find?_eq_none.2 (by intro x hx; obtain ⟨p, _, h⟩ := hz x hx; simp [h])]
  rw [List.find?_eq_none.2 (by intro x hx; obtain ⟨p, hp, h⟩ := hz x hx; simp [h]; intro h'; exact hw h' p hp)]
  rw [List.find?_eq_none.2 (by intro x hx; obtain ⟨p, _, h⟩ := hz x hx; simp [h])]
  rw [List.find?_eq_none.2 (by intro x hx; obtain ⟨p, _, h⟩ := hz x hx; simp [h])]
  clear hz hw
  simp only [Check.ok.injEq]
  induction ps generalizing eas with
  | nil => simp
  | cons p ps ih =>
    cases eas with
    | nil => simp at hl
    | cons e es => simp; simpa using ih es (by simpa using hl)

/-- R329: an access with a fit view, aligned, whose places pass, passes; the machine is what the translation left. -/
theorem State.check_places (s : State) (ea : Word) (ok : Bool) (sz al : Nat) (w : Bool) (units : List Nat)
    (hv : ok = true) (h6 : viewOf ea < 6) (ha : locOf ea % 2 ^ al = 0) :
    s.check ea ok sz al w units =
      (checkPlaces w (s.places s.cur.id.grid (units.map (eaPlus ea))).1, (s.places s.cur.id.grid (units.map (eaPlus ea))).2) := by
  unfold State.check
  rw [if_neg (by simp [hv]; omega), if_neg (by simp [ha])]

/-- R329, R330: an unfit view stops an access first. -/
theorem State.check_view (s : State) (ea : Word) (ok : Bool) (sz al : Nat) (w : Bool) (units : List Nat)
    (h : ok = false ∨ 6 ≤ viewOf ea) : s.check ea ok sz al w units = (.fault 0x13 (viewOf ea + 16 * sz) ea, s) := by
  unfold State.check; rw [if_pos (by simpa using h)]

/-- R329, R333: then a misaligned location. -/
theorem State.check_align (s : State) (ea : Word) (ok : Bool) (sz al : Nat) (w : Bool) (units : List Nat)
    (hv : ok = true) (h6 : viewOf ea < 6) (ha : locOf ea % 2 ^ al ≠ 0) :
    s.check ea ok sz al w units = (.fault 0x12 (16 * al) ea, s) := by
  unfold State.check; rw [if_neg (by simp [hv]; omega), if_pos (by simpa using ha)]

/-! ### Faults and traps -/

/-- R309, R315: a fault of the issuing thread other than an uncorrectable error, whole. -/
theorem State.stopFault_eq (s : State) (status cause detail : Nat) (fval : Word) (h : cause ≠ 0x1A) :
    s.stopFault status cause detail fval = { s with
      grids := s.grids.map fun g => if g.num = s.cur.id.grid then
        g.addFault ⟨s.cycle, true, s.cur.id.team, s.cur.id.thread, status, cause, detail, s.cur.pc, fval⟩ else g
      cur := { s.cur with wait := .faulted }, aborted := true } := by
  unfold State.stopFault State.recordFault State.recordAt
  simp only [h, if_false]; rfl

/-- The same of STATUS FAULT. -/
theorem State.raiseFault_eq (s : State) (cause detail : Nat) (fval : Word) (h : cause ≠ 0x1A) :
    s.raiseFault cause detail fval = { s with
      grids := s.grids.map fun g => if g.num = s.cur.id.grid then
        g.addFault ⟨s.cycle, true, s.cur.id.team, s.cur.id.thread, 1, cause, detail, s.cur.pc, fval⟩ else g
      cur := { s.cur with wait := .faulted }, aborted := true } := s.stopFault_eq 1 cause detail fval h

/-- A fault recorded may change the grids and what a record to the host changes (R315, R343). -/
theorem State.recordAt_only (s : State) (g loc : Nat) (r : FaultRec) : ∃ gs, RecordsOnly { s with grids := gs } (s.recordAt g loc r) := by
  refine ⟨(s.modGrid g fun x => x.addFault r).grids, ?_⟩
  unfold State.recordAt
  simp only []
  split
  · exact State.telemetry_only _ _ _ _ _ _
  · exact .refl _

/-- What any fault of the issuing thread may change (R309, R315, R343). -/
theorem State.raiseFault_only (s : State) (cause detail : Nat) (fval : Word) :
    ∃ gs, RecordsOnly { s with grids := gs, cur := { s.cur with wait := .faulted }, aborted := true } (s.raiseFault cause detail fval) := by
  obtain ⟨gs, m, p, e, l, x, f, h⟩ := s.recordAt_only s.cur.id.grid (s.errorWhere s.cur.id.grid
    ⟨s.cycle, true, s.cur.id.team, s.cur.id.thread, 1, cause, detail, s.cur.pc, fval⟩)
    ⟨s.cycle, true, s.cur.id.team, s.cur.id.thread, 1, cause, detail, s.cur.pc, fval⟩
  refine ⟨gs, m, p, e, l, x, f, ?_⟩
  unfold State.raiseFault State.stopFault State.recordFault
  simp only [h]

/-- R248, R313: everything that taking a trap can do. -/
theorem State.takeTrap_cases (s : State) (code imm : Nat) (tval ret : Word) :
    (s.cur.hm = true ∧ s.takeTrap code imm tval ret = s.raiseFault 0x20 code tval) ∨
    (s.cur.hm = false ∧ bits s.cur.tvec 55 3 = 0 ∧ s.takeTrap code imm tval ret = s.raiseFault 0x21 code tval) ∨
    (s.cur.hm = false ∧ bits s.cur.tvec 55 3 ≠ 0 ∧ s.takeTrap code imm tval ret = { s with cur := { s.cur with
      tpc := ret, tcause := BitVec.ofNat 64 (code + imm * 256), tval := tval, tstat := setBits s.cur.tstat 9 9 1
      pc := handlerOf s.cur.tvec, half := none, outer := s.cur.half } }) := by
  unfold State.takeTrap Thread.enterHandler
  cases hm : s.cur.hm
  · by_cases hv : bits s.cur.tvec 55 3 = 0
    · exact .inr (.inl ⟨rfl, hv, by simp [hv]⟩)
    · exact .inr (.inr ⟨rfl, hv, by simp [hv]⟩)
  · exact .inl ⟨rfl, by simp⟩

/-! ### Accesses -/

/-- Everything that one access of the issuing thread can do (R37, R192, R311, R329), by what its checks answer. -/
theorem State.access_cases (s : State) (ea : Word) (a : Access) :
    let r := s.check ea a.viewOk a.szLog a.alignLog a.needW (a.units.map (·.1))
    (∃ c d v, r.1 = .fault c d v ∧ s.access ea a = r.2.raiseFault c d v) ∨
    (∃ va, r.1 = .absent va ∧ s.access ea a = r.2.service va a.kind) ∨
    (∃ off, r.1 = .queueWindow off ∧
      s.access ea a = if a.isStore then r.2.raiseFault 0x16 8 ea else (r.2.destZero a.dest).advance) ∨
    (∃ keys, r.1 = .ok keys ∧
      ((a.migrates = false ∨ r.2.migrationFor (keys.headD 0) = none) ∧ s.access ea a = r.2.sendHere ea keys a ∨
       ∃ c slot, a.migrates = true ∧ r.2.migrationFor (keys.headD 0) = some (c, slot) ∧ s.access ea a =
        if r.2.cur.cntL = 0 ∧ r.2.cur.cntS = 0 ∧ r.2.cur.closed = [] then r.2.sendAway ea keys a c slot else r.2.hold)) := by
  intro r
  have hr : s.check ea a.viewOk a.szLog a.alignLog a.needW (a.units.map (·.1)) = r := rfl
  unfold State.access
  rw [hr]
  obtain ⟨c, t⟩ := r
  cases c with
  | fault c d v => exact .inl ⟨c, d, v, rfl, rfl⟩
  | absent va => exact .inr (.inl ⟨va, rfl, rfl⟩)
  | queueWindow off => exact .inr (.inr (.inl ⟨off, rfl, rfl⟩))
  | ok keys =>
    refine .inr (.inr (.inr ⟨keys, rfl, ?_⟩))
    cases hm : a.migrates
    · exact .inl ⟨.inl rfl, by simp⟩
    · cases hk : t.migrationFor (keys.headD 0) with
      | none => exact .inl ⟨.inr rfl, by simp only [if_true, hk]⟩
      | some p => exact .inr ⟨p.1, p.2, rfl, rfl, by simp only [if_true, hk]⟩

/-! ### The canonical form of memory -/

/-- The form depends on three fields. -/
theorem State.MemWf.congr {s t : State} (h : s.MemWf) (hm : t.mem = s.mem) (hk : t.keepDurable = s.keepDurable)
    (hg : t.grids = s.grids) : t.MemWf := by
  unfold State.MemWf; rw [hm, hk, hg]; exact h

/-- Grids changed one by one, with what their chunks keep apart left alone, keep the form. -/
theorem State.MemWf.mapGrids {s : State} (h : s.MemWf) (f : Grid → Grid) (hf : ∀ g, (f g).replay.apart = g.replay.apart) :
    ({ s with grids := s.grids.map f } : State).MemWf := by
  refine ⟨h.1, h.2.1, ?_⟩
  intro g hg x hx
  obtain ⟨y, hy, rfl⟩ := List.mem_map.1 hg
  exact h.2.2 y hy x (hf y ▸ hx)

/-- Grids taken away keep the form. -/
theorem State.MemWf.filterGrids {s : State} (h : s.MemWf) (p : Grid → Bool) :
    ({ s with grids := s.grids.filter p } : State).MemWf :=
  ⟨h.1, h.2.1, fun g hg => h.2.2 g (List.mem_filter.1 hg).1⟩

/-- A grid added that keeps nothing apart keeps the form. -/
theorem State.MemWf.addGrid {s : State} (h : s.MemWf) (g : Grid) (hg : g.replay.apart = none) :
    ({ s with grids := s.grids ++ [g] } : State).MemWf := by
  refine ⟨h.1, h.2.1, ?_⟩
  intro y hy x hx
  rcases List.mem_append.1 hy with hy | hy
  · exact h.2.2 y hy x hx
  · rw [List.mem_singleton.1 hy, hg] at hx; exact absurd hx (by simp)

/-- A write keeps the form. -/
theorem State.MemWf.store {s : State} (h : s.MemWf) (k n v : Nat) : (s.store k n v).MemWf :=
  ⟨State.store_wf s k n v h.1, h.2.1, h.2.2⟩

/-- So does a write of the device. -/
theorem State.MemWf.deviceStore {s : State} (h : s.MemWf) (k n v : Nat) : (s.deviceStore k n v).MemWf :=
  ⟨State.deviceStore_wf s k n v h.1, h.2.1, h.2.2⟩

/-- So do bytes written from a list. -/
theorem State.MemWf.storeBytes {s : State} (h : s.MemWf) (k : Nat) (l : List Byte) : (s.storeBytes k l).MemWf :=
  ⟨State.storeBytes_wf s k l h.1, h.2.1, h.2.2⟩

/-- A draw keeps the form. -/
theorem State.MemWf.draw {s : State} (h : s.MemWf) : s.draw.2.MemWf := by rw [s.draw_frame]; exact h

/-- The host's registers do not matter to it. -/
theorem State.MemWf.setHost {s : State} (h : s.MemWf) (x : HostRegs) : ({ s with host := x } : State).MemWf := h

/-- Nor do the fault-service records. -/
theorem State.MemWf.setFs {s : State} (h : s.MemWf) (x : List FsRec) : ({ s with fs := x } : State).MemWf := h

/-- An interrupt keeps it. -/
theorem State.MemWf.interrupt {s : State} (h : s.MemWf) (cause which : Nat) : (s.interrupt cause which).MemWf := h.deviceStore _ _ _

/-- A telemetry record keeps it. -/
theorem State.MemWf.telemetry {s : State} (h : s.MemWf) (kind sub loc addr value : Nat) :
    (s.telemetry kind sub loc addr value).MemWf := by
  unfold State.telemetry
  extract_lets r a w1 w2 w3 w4 x t
  have ht : t.MemWf := by
    unfold t
    split
    · exact h.setHost _
    · exact ((((h.deviceStore _ _ _).deviceStore _ _ _).deviceStore _ _ _).deviceStore _ _ _).setHost _
  split
  · exact ht.interrupt _ _
  · exact ht

/-- An error corrected keeps it. -/
theorem State.MemWf.correct {s : State} (h : s.MemWf) (place sub loc addr : Nat) : (s.correct place sub loc addr).MemWf := by
  have h' : ∀ (e : List Nat) (c : List Corrected), ({ s with soft := e, corrected := c } : State).MemWf := fun _ _ => h
  unfold State.correct
  simp only []
  split
  · exact (h' _ _).telemetry _ _ _ _ _
  · split
    · exact (h' _ _).telemetry _ _ _ _ _
    · exact h

/-- Steps of a list that each keep it. -/
theorem State.MemWf.foldl {α : Type} (f : State → α → State) (hf : ∀ t a, t.MemWf → (f t a).MemWf) (l : List α) {s : State}
    (h : s.MemWf) : (l.foldl f s).MemWf := by
  induction l generalizing s with
  | nil => exact h
  | cons a r ih => exact ih (hf s a h)

/-- An error of a clean copy reported and gone keeps it. -/
theorem State.MemWf.recovered {s : State} (h : s.MemWf) (place sub loc addr : Nat) : (s.recovered place sub loc addr).MemWf :=
  State.MemWf.telemetry (s := s.clearError place) h _ _ _ _ _

/-- Words read keep it. -/
theorem State.MemWf.correctWords {s : State} (h : s.MemWf) (a n : Nat) : (s.correctWords a n).MemWf :=
  .foldl _ (fun _ _ ht => ht.recovered _ _ _ _) _ (.foldl _ (fun _ _ ht => ht.correct _ _ _ _) _ h)

/-- The choice of a route keeps it. -/
theorem State.MemWf.noRoute {s : State} (h : s.MemWf) (ks : List Nat) : (s.noRoute ks).2.MemWf := by rw [s.noRoute_frame]; exact h

/-- The entries of a walk read keep it. -/
theorem State.MemWf.correctTrail {s : State} (h : s.MemWf) (q loc : Nat) : (s.correctTrail q loc).MemWf := by
  unfold State.correctTrail
  split
  · exact h
  · exact .foldl _ (fun _ _ ht => ht.correctWords _ _) _ h

/-- Translation keeps it. -/
theorem State.MemWf.place {s : State} (h : s.MemWf) (g loc : Nat) : (s.place g loc).2.MemWf := by
  have held : ∀ (t : State) (p : Place) (q : Nat), t.MemWf → ((t.holdTrail q loc p).correctTrail q loc).MemWf := by
    intro t p q ht
    refine State.MemWf.correctTrail ?_ _ _
    rw [t.holdTrail_frame]; exact ht
  unfold State.place State.translate
  simp only []
  split
  · exact h
  · split
    · exact h.noRoute _
    · split
      · exact held _ _ _ (h.noRoute _)
      · exact held _ _ _ (h.noRoute _).draw

/-- The checks of an access keep it. -/
theorem State.MemWf.check {s : State} (h : s.MemWf) (ea : Word) (ok : Bool) (sz al : Nat) (w : Bool) (units : List Nat) :
    (s.check ea ok sz al w units).2.MemWf := by
  unfold State.check
  split
  · exact h
  · split
    · exact h
    · suffices H : ∀ (l : List Word) (t : State), t.MemWf → (t.places t.cur.id.grid l).2.MemWf from H _ _ h
      suffices H : ∀ (l : List Word) (g : Nat) (t : State), t.MemWf → (t.places g l).2.MemWf from fun l t ht => H l _ t ht
      intro l g
      induction l with
      | nil => exact fun _ ht => ht
      | cons ea r ih => exact fun t ht => ih _ (ht.place _ _)

/-- Waiting records being written keep it. -/
theorem pumpList_memWf (l : List FsRec) (s : State) (done : List FsRec) (h : s.MemWf) : (pumpList l s done).MemWf := by
  induction l generalizing s done with
  | nil => exact h
  | cons r rest ih =>
    unfold pumpList
    simp only []
    split
    · exact ih _ _ h
    · split
      · exact ih _ _ h
      · exact ih _ _ ((((((h.deviceStore _ _ _).deviceStore _ _ _).deviceStore _ _ _).deviceStore _ _ _).setHost _).interrupt _ _)

/-- A fault-service record keeps it. -/
theorem State.MemWf.addFs {s : State} (h : s.MemWf) (va : Word) (t : Tid) (kind : Nat) (who : FsWho) :
    (s.addFs va t kind who).2.MemWf := pumpList_memWf _ _ _ h

/-- Parking for fault service keeps it. -/
theorem State.MemWf.service {s : State} (h : s.MemWf) (va : Word) (kind : Nat) : (s.service va kind).MemWf :=
  State.MemWf.congr (h.addFs va s.cur.id kind (.thread s.cur.id)) rfl rfl rfl

/-- A grid changed, with what its chunk keeps apart left alone, keeps it. -/
theorem State.MemWf.modGrid {s : State} (h : s.MemWf) (g : Nat) (f : Grid → Grid) (hf : ∀ x, (f x).replay.apart = x.replay.apart) :
    (s.modGrid g f).MemWf := h.mapGrids _ fun x => by split <;> simp [hf]

/-- A fault recorded keeps it. -/
theorem State.MemWf.recordAt {s : State} (h : s.MemWf) (g loc : Nat) (r : FaultRec) : (s.recordAt g loc r).MemWf := by
  have hg := h.modGrid g (fun x => x.addFault r) fun x => by unfold Grid.addFault; split <;> rfl
  unfold State.recordAt
  by_cases hc : r.cause = 0x1A
  · simp only [hc, if_true]; exact State.MemWf.telemetry hg _ _ _ _ _
  · simp only [hc, if_false]; exact hg

/-- A fault of the issuing thread keeps it. -/
theorem State.MemWf.raiseFault {s : State} (h : s.MemWf) (cause detail : Nat) (fval : Word) : (s.raiseFault cause detail fval).MemWf :=
  State.MemWf.congr (State.MemWf.recordAt h s.cur.id.grid (s.errorWhere s.cur.id.grid
    ⟨s.cycle, true, s.cur.id.team, s.cur.id.thread, 1, cause, detail, s.cur.pc, fval⟩)
    ⟨s.cycle, true, s.cur.id.team, s.cur.id.thread, 1, cause, detail, s.cur.pc, fval⟩) rfl rfl rfl

/-- A fault reported against any thread keeps it. -/
theorem State.MemWf.faultOf {s : State} (h : s.MemWf) (t : Tid) (fpc : Word) (cause detail : Nat) (fval : Word) :
    (s.faultOf t fpc cause detail fval).MemWf :=
  State.MemWf.congr (State.MemWf.recordAt h t.grid (s.errorWhere t.grid ⟨s.cycle, true, t.team, t.thread, 1, cause, detail, fpc, fval⟩)
    ⟨s.cycle, true, t.team, t.thread, 1, cause, detail, fpc, fval⟩) rfl rfl rfl

/-- Taking a trap keeps it. -/
theorem State.MemWf.takeTrap {s : State} (h : s.MemWf) (code imm : Nat) (tval ret : Word) : (s.takeTrap code imm tval ret).MemWf := by
  rcases s.takeTrap_cases code imm tval ret with ⟨_, e⟩ | ⟨_, _, e⟩ | ⟨_, _, e⟩ <;> rw [e]
  · exact h.raiseFault _ _ _
  · exact h.raiseFault _ _ _
  · exact h

/-- A request put into the fabric keeps it. -/
theorem State.MemWf.send {s : State} (h : s.MemWf) (op : ReqOp) (pieces : List Piece) (dest : Dest) (isLoad isStore : Bool)
    (counter : Counter) (ea : Word) : (s.send op pieces dest isLoad isStore counter ea).MemWf := h

/-- A request sent from where the thread is keeps it. -/
theorem State.MemWf.sendHere {s : State} (h : s.MemWf) (ea : Word) (keys : List Nat) (a : Access) : (s.sendHere ea keys a).MemWf := by
  unfold State.sendHere; simp only []; split <;> exact h

/-- A register written with zeros keeps it. -/
theorem State.MemWf.destZero {s : State} (h : s.MemWf) (d : Dest) : (s.destZero d).MemWf := by
  cases d <;> try exact h
  unfold State.destZero; simp only []; split <;> exact h

/-- One access of the issuing thread keeps it. -/
theorem State.MemWf.access {s : State} (h : s.MemWf) (ea : Word) (a : Access) : (s.access ea a).MemWf := by
  have hc := h.check ea a.viewOk a.szLog a.alignLog a.needW (a.units.map (·.1))
  rcases s.access_cases ea a with ⟨_, _, _, _, e⟩ | ⟨_, _, e⟩ | ⟨_, _, e⟩ | ⟨_, _, ⟨_, e⟩ | ⟨_, _, _, _, e⟩⟩ <;> rw [e]
  · exact hc.raiseFault _ _ _
  · exact hc.service _ _
  · split
    · exact hc.raiseFault _ _ _
    · exact hc.destZero _
  · exact hc.sendHere _ _ _
  · split
    · exact hc.sendHere _ _ _
    · exact hc

end Sys2Proof.Machine
end

