-- ==== Sys2Proof/Laws/PerInstr.lean ====
section
/-! SUPPORT. Statements about every instruction as syntax, one lemma for each constructor: what the encoder writes, the decoder reads
back, with every operand at every value that the encoding admits (R110–R117). -/

namespace Sys2Proof.Laws

set_option Elab.async false

/-- A well-formed instruction is read back from its word, in the slot or the long form that it belongs to. -/
def Encoding.Statement (i : Instr) : Prop :=
  i.wf = true →
    (∀ w, encodeCtrl i = some w → decodeCtrl w = .ok i) ∧
    (∀ w, encodeArith i = some w → decodeArith w = .ok i) ∧
    (∀ b, encodeLong i = some b → decodeLong b = .ok i)

/-- A control/memory-slot instruction has no other encoding. -/
theorem Encoding.of_ctrl {i : Instr} {v : BitVec 32} (hc : encodeCtrl i = some v) (ha : encodeArith i = none) (hl : encodeLong i = none)
    (h : i.wf = true → decodeCtrl v = .ok i) : Encoding.Statement i := by
  intro hw
  refine ⟨fun w e => ?_, fun w e => ?_, fun b e => ?_⟩
  · rw [hc] at e; cases e; exact h hw
  · rw [ha] at e; cases e
  · rw [hl] at e; cases e

/-- An arithmetic-slot instruction has no other encoding. -/
theorem Encoding.of_arith {i : Instr} {v : BitVec 32} (hc : encodeCtrl i = none) (ha : encodeArith i = some v) (hl : encodeLong i = none)
    (h : i.wf = true → decodeArith v = .ok i) : Encoding.Statement i := by
  intro hw
  refine ⟨fun w e => ?_, fun w e => ?_, fun b e => ?_⟩
  · rw [hc] at e; cases e
  · rw [ha] at e; cases e; exact h hw
  · rw [hl] at e; cases e

/-- A long instruction has no other encoding. -/
theorem Encoding.of_long {i : Instr} {v : BitVec 64} (hc : encodeCtrl i = none) (ha : encodeArith i = none) (hl : encodeLong i = some v)
    (h : i.wf = true → decodeLong v = .ok i) : Encoding.Statement i := by
  intro hw
  refine ⟨fun w e => ?_, fun w e => ?_, fun b e => ?_⟩
  · rw [hc] at e; cases e
  · rw [ha] at e; cases e
  · rw [hl] at e; cases e; exact h hw

/-- A step that no bundle encodes. -/
theorem Encoding.of_none {i : Instr} (hc : encodeCtrl i = none) (ha : encodeArith i = none) (hl : encodeLong i = none) :
    Encoding.Statement i := by
  intro _
  refine ⟨fun w e => ?_, fun w e => ?_, fun b e => ?_⟩
  · rw [hc] at e; cases e
  · rw [ha] at e; cases e
  · rw [hl] at e; cases e

theorem Encoding.nop : Encoding.Statement (.nop) :=
  Encoding.of_ctrl rfl rfl rfl fun h => by
  simp [decodeCtrl, firstBad]
theorem Encoding.addiCm (d : Reg) (a : Reg) (i : BitVec 13) : Encoding.Statement (.addiCm d a i) :=
  Encoding.of_ctrl rfl rfl rfl fun h => by
  simp [decodeCtrl, firstBad]
theorem Encoding.ldB (d : Reg) (a : Reg) (i : BitVec 13) : Encoding.Statement (.ldB d a i) :=
  Encoding.of_ctrl rfl rfl rfl fun h => by
  simp [decodeCtrl, firstBad]
theorem Encoding.ldBU (d : Reg) (a : Reg) (i : BitVec 13) : Encoding.Statement (.ldBU d a i) :=
  Encoding.of_ctrl rfl rfl rfl fun h => by
  simp [decodeCtrl, firstBad]
theorem Encoding.ldH (d : Reg) (a : Reg) (i : BitVec 13) : Encoding.Statement (.ldH d a i) :=
  Encoding.of_ctrl rfl rfl rfl fun h => by
  simp [decodeCtrl, firstBad]
theorem Encoding.ldHU (d : Reg) (a : Reg) (i : BitVec 13) : Encoding.Statement (.ldHU d a i) :=
  Encoding.of_ctrl rfl rfl rfl fun h => by
  simp [decodeCtrl, firstBad]
theorem Encoding.ldW (d : Reg) (a : Reg) (i : BitVec 13) : Encoding.Statement (.ldW d a i) :=
  Encoding.of_ctrl rfl rfl rfl fun h => by
  simp [decodeCtrl, firstBad]
theorem Encoding.ldWU (d : Reg) (a : Reg) (i : BitVec 13) : Encoding.Statement (.ldWU d a i) :=
  Encoding.of_ctrl rfl rfl rfl fun h => by
  simp [decodeCtrl, firstBad]
theorem Encoding.ldD (d : Reg) (a : Reg) (i : BitVec 13) : Encoding.Statement (.ldD d a i) :=
  Encoding.of_ctrl rfl rfl rfl fun h => by
  simp [decodeCtrl, firstBad]
theorem Encoding.ldQ (a : Reg) (i : BitVec 13) : Encoding.Statement (.ldQ a i) :=
  Encoding.of_ctrl rfl rfl rfl fun h => by
  simp [decodeCtrl, firstBad]
theorem Encoding.stB (a : Reg) (i : BitVec 13) (b : Reg) : Encoding.Statement (.stB a i b) :=
  Encoding.of_ctrl rfl rfl rfl fun h => by
  simp [decodeCtrl, firstBad]
theorem Encoding.stH (a : Reg) (i : BitVec 13) (b : Reg) : Encoding.Statement (.stH a i b) :=
  Encoding.of_ctrl rfl rfl rfl fun h => by
  simp [decodeCtrl, firstBad]
theorem Encoding.stW (a : Reg) (i : BitVec 13) (b : Reg) : Encoding.Statement (.stW a i b) :=
  Encoding.of_ctrl rfl rfl rfl fun h => by
  simp [decodeCtrl, firstBad]
theorem Encoding.stD (a : Reg) (i : BitVec 13) (b : Reg) : Encoding.Statement (.stD a i b) :=
  Encoding.of_ctrl rfl rfl rfl fun h => by
  simp [decodeCtrl, firstBad]
theorem Encoding.stQ (a : Reg) (i : BitVec 13) : Encoding.Statement (.stQ a i) :=
  Encoding.of_ctrl rfl rfl rfl fun h => by
  simp [decodeCtrl, firstBad]
theorem Encoding.ldf (d : Reg) (a : Reg) (i : BitVec 13) : Encoding.Statement (.ldf d a i) :=
  Encoding.of_ctrl rfl rfl rfl fun h => by
  simp [decodeCtrl, firstBad]
theorem Encoding.lde (d : Reg) (a : Reg) (i : BitVec 13) : Encoding.Statement (.lde d a i) :=
  Encoding.of_ctrl rfl rfl rfl fun h => by
  simp [decodeCtrl, firstBad]
theorem Encoding.stf (a : Reg) (i : BitVec 13) (b : Reg) : Encoding.Statement (.stf a i b) :=
  Encoding.of_ctrl rfl rfl rfl fun h => by
  simp [decodeCtrl, firstBad]
theorem Encoding.stw (a : Reg) (i : BitVec 13) (b : Reg) : Encoding.Statement (.stw a i b) :=
  Encoding.of_ctrl rfl rfl rfl fun h => by
  simp [decodeCtrl, firstBad]
theorem Encoding.feset (v : BitVec 1) (a : Reg) (i : BitVec 13) : Encoding.Statement (.feset v a i) :=
  Encoding.of_ctrl rfl rfl rfl fun h => by
  have hv : v = 0#1 ∨ v = 1#1 := by clear h; revert v; decide
  rcases hv with rfl | rfl <;> simp [decodeCtrl, firstBad]
theorem Encoding.festat (d : Reg) (a : Reg) (i : BitVec 13) : Encoding.Statement (.festat d a i) :=
  Encoding.of_ctrl rfl rfl rfl fun h => by
  simp [decodeCtrl, firstBad]
theorem Encoding.aadd (d : Reg) (a : Reg) (b : Reg) : Encoding.Statement (.aadd d a b) :=
  Encoding.of_ctrl rfl rfl rfl fun h => by
  simp [decodeCtrl, firstBad]
theorem Encoding.aaddf (d : Reg) (a : Reg) (b : Reg) : Encoding.Statement (.aaddf d a b) :=
  Encoding.of_ctrl rfl rfl rfl fun h => by
  simp [decodeCtrl, firstBad]
theorem Encoding.aand (d : Reg) (a : Reg) (b : Reg) : Encoding.Statement (.aand d a b) :=
  Encoding.of_ctrl rfl rfl rfl fun h => by
  simp [decodeCtrl, firstBad]
theorem Encoding.aor (d : Reg) (a : Reg) (b : Reg) : Encoding.Statement (.aor d a b) :=
  Encoding.of_ctrl rfl rfl rfl fun h => by
  simp [decodeCtrl, firstBad]
theorem Encoding.axor (d : Reg) (a : Reg) (b : Reg) : Encoding.Statement (.axor d a b) :=
  Encoding.of_ctrl rfl rfl rfl fun h => by
  simp [decodeCtrl, firstBad]
theorem Encoding.amin (d : Reg) (a : Reg) (b : Reg) : Encoding.Statement (.amin d a b) :=
  Encoding.of_ctrl rfl rfl rfl fun h => by
  simp [decodeCtrl, firstBad]
theorem Encoding.amax (d : Reg) (a : Reg) (b : Reg) : Encoding.Statement (.amax d a b) :=
  Encoding.of_ctrl rfl rfl rfl fun h => by
  simp [decodeCtrl, firstBad]
theorem Encoding.aminu (d : Reg) (a : Reg) (b : Reg) : Encoding.Statement (.aminu d a b) :=
  Encoding.of_ctrl rfl rfl rfl fun h => by
  simp [decodeCtrl, firstBad]
theorem Encoding.amaxu (d : Reg) (a : Reg) (b : Reg) : Encoding.Statement (.amaxu d a b) :=
  Encoding.of_ctrl rfl rfl rfl fun h => by
  simp [decodeCtrl, firstBad]
theorem Encoding.aswap (d : Reg) (a : Reg) (b : Reg) : Encoding.Statement (.aswap d a b) :=
  Encoding.of_ctrl rfl rfl rfl fun h => by
  simp [decodeCtrl, firstBad]
theorem Encoding.acas (d : Reg) (a : Reg) (b : Reg) : Encoding.Statement (.acas d a b) :=
  Encoding.of_ctrl rfl rfl rfl fun h => by
  simp [decodeCtrl, firstBad]
theorem Encoding.fenceAcq (sc : BitVec 3) : Encoding.Statement (.fenceAcq sc) :=
  Encoding.of_ctrl rfl rfl rfl fun h => by
  simp [Instr.wf] at h
  simp [decodeCtrl, firstBad]
  omega
theorem Encoding.fenceRel (sc : BitVec 3) : Encoding.Statement (.fenceRel sc) :=
  Encoding.of_ctrl rfl rfl rfl fun h => by
  simp [Instr.wf] at h
  simp [decodeCtrl, firstBad]
  omega
theorem Encoding.fenceFull (sc : BitVec 3) : Encoding.Statement (.fenceFull sc) :=
  Encoding.of_ctrl rfl rfl rfl fun h => by
  simp [Instr.wf] at h
  simp [decodeCtrl, firstBad]
  omega
theorem Encoding.pfenceTile : Encoding.Statement (.pfenceTile) :=
  Encoding.of_ctrl rfl rfl rfl fun h => by
  simp [decodeCtrl, firstBad]
theorem Encoding.pfenceKeep : Encoding.Statement (.pfenceKeep) :=
  Encoding.of_ctrl rfl rfl rfl fun h => by
  simp [decodeCtrl, firstBad]
theorem Encoding.waitc (l : BitVec 6) (sn : BitVec 6) (cn : BitVec 6) (m : BitVec 6) : Encoding.Statement (.waitc l sn cn m) :=
  Encoding.of_ctrl rfl rfl rfl fun h => by
  rw [waitc_word]
  simp [decodeCtrl, firstBad, waitc_op, waitc_l, waitc_s, waitc_c, waitc_m, waitc_z]
theorem Encoding.hint (k : BitVec 2) (a : Reg) (b : Reg) : Encoding.Statement (.hint k a b) :=
  Encoding.of_ctrl rfl rfl rfl fun h => by
  simp [decodeCtrl, firstBad]
theorem Encoding.sbind (d : Reg) (a : Reg) : Encoding.Statement (.sbind d a) :=
  Encoding.of_ctrl rfl rfl rfl fun h => by
  simp [decodeCtrl, firstBad]
  exact h
theorem Encoding.sfree (d : Reg) : Encoding.Statement (.sfree d) :=
  Encoding.of_ctrl rfl rfl rfl fun h => by
  simp [decodeCtrl, firstBad]
  exact h
theorem Encoding.sstat (d : Reg) (a : Reg) : Encoding.Statement (.sstat d a) :=
  Encoding.of_ctrl rfl rfl rfl fun h => by
  simp [decodeCtrl, firstBad]
  exact h
theorem Encoding.bEq (a : Reg) (b : Reg) (o : BitVec 17) : Encoding.Statement (.bEq a b o) :=
  Encoding.of_ctrl rfl rfl rfl fun h => by
  simp [decodeCtrl, firstBad, join_17]
theorem Encoding.bNe (a : Reg) (b : Reg) (o : BitVec 17) : Encoding.Statement (.bNe a b o) :=
  Encoding.of_ctrl rfl rfl rfl fun h => by
  simp [decodeCtrl, firstBad, join_17]
theorem Encoding.bLt (a : Reg) (b : Reg) (o : BitVec 17) : Encoding.Statement (.bLt a b o) :=
  Encoding.of_ctrl rfl rfl rfl fun h => by
  simp [decodeCtrl, firstBad, join_17]
theorem Encoding.bGe (a : Reg) (b : Reg) (o : BitVec 17) : Encoding.Statement (.bGe a b o) :=
  Encoding.of_ctrl rfl rfl rfl fun h => by
  simp [decodeCtrl, firstBad, join_17]
theorem Encoding.bLtu (a : Reg) (b : Reg) (o : BitVec 17) : Encoding.Statement (.bLtu a b o) :=
  Encoding.of_ctrl rfl rfl rfl fun h => by
  simp [decodeCtrl, firstBad, join_17]
theorem Encoding.bGeu (a : Reg) (b : Reg) (o : BitVec 17) : Encoding.Statement (.bGeu a b o) :=
  Encoding.of_ctrl rfl rfl rfl fun h => by
  simp [decodeCtrl, firstBad, join_17]
theorem Encoding.jal (d : Reg) (o : BitVec 21) : Encoding.Statement (.jal d o) :=
  Encoding.of_ctrl rfl rfl rfl fun h => by
  simp [decodeCtrl, firstBad, offset_21]
theorem Encoding.jr (d : Reg) (a : Reg) (i : BitVec 13) : Encoding.Statement (.jr d a i) :=
  Encoding.of_ctrl rfl rfl rfl fun h => by
  simp [decodeCtrl, firstBad]
theorem Encoding.cpy (d : Reg) : Encoding.Statement (.cpy d) :=
  Encoding.of_ctrl rfl rfl rfl fun h => by
  simp [decodeCtrl, firstBad]
theorem Encoding.cpyg (d : Reg) : Encoding.Statement (.cpyg d) :=
  Encoding.of_ctrl rfl rfl rfl fun h => by
  simp [decodeCtrl, firstBad]
theorem Encoding.cpys (d : Reg) : Encoding.Statement (.cpys d) :=
  Encoding.of_ctrl rfl rfl rfl fun h => by
  simp [decodeCtrl, firstBad]
theorem Encoding.publ (a : Reg) : Encoding.Statement (.publ a) :=
  Encoding.of_ctrl rfl rfl rfl fun h => by
  simp [decodeCtrl, firstBad]
theorem Encoding.sleep (a : Reg) : Encoding.Statement (.sleep a) :=
  Encoding.of_ctrl rfl rfl rfl fun h => by
  simp [decodeCtrl, firstBad]
theorem Encoding.fork (o : BitVec 21) : Encoding.Statement (.fork o) :=
  Encoding.of_ctrl rfl rfl rfl fun h => by
  simp [decodeCtrl, firstBad, offset_21]
theorem Encoding.join (a : Reg) : Encoding.Statement (.join a) :=
  Encoding.of_ctrl rfl rfl rfl fun h => by
  simp [decodeCtrl, firstBad]
theorem Encoding.next : Encoding.Statement (.next) :=
  Encoding.of_ctrl rfl rfl rfl fun h => by
  simp [decodeCtrl, firstBad]
theorem Encoding.yield : Encoding.Statement (.yield) :=
  Encoding.of_ctrl rfl rfl rfl fun h => by
  simp [decodeCtrl, firstBad]
theorem Encoding.exit : Encoding.Statement (.exit) :=
  Encoding.of_ctrl rfl rfl rfl fun h => by
  simp [decodeCtrl, firstBad]
theorem Encoding.launch (a : Reg) : Encoding.Statement (.launch a) :=
  Encoding.of_ctrl rfl rfl rfl fun h => by
  simp [decodeCtrl, firstBad]
theorem Encoding.migr (a : Reg) : Encoding.Statement (.migr a) :=
  Encoding.of_ctrl rfl rfl rfl fun h => by
  simp [decodeCtrl, firstBad]
theorem Encoding.prog : Encoding.Statement (.prog) :=
  Encoding.of_ctrl rfl rfl rfl fun h => by
  simp [decodeCtrl, firstBad]
theorem Encoding.rdsr (d : Reg) (n : BitVec 12) : Encoding.Statement (.rdsr d n) :=
  Encoding.of_ctrl rfl rfl rfl fun h => by
  simp [decodeCtrl, firstBad]
  exact h
theorem Encoding.wrsr (n : BitVec 12) (a : Reg) : Encoding.Statement (.wrsr n a) :=
  Encoding.of_ctrl rfl rfl rfl fun h => by
  simp [decodeCtrl, firstBad]
  exact h
theorem Encoding.trap (i : BitVec 13) : Encoding.Statement (.trap i) :=
  Encoding.of_ctrl rfl rfl rfl fun h => by
  simp [decodeCtrl, firstBad]
theorem Encoding.tret : Encoding.Statement (.tret) :=
  Encoding.of_ctrl rfl rfl rfl fun h => by
  simp [decodeCtrl, firstBad]
theorem Encoding.brk (i : BitVec 13) : Encoding.Statement (.brk i) :=
  Encoding.of_ctrl rfl rfl rfl fun h => by
  simp [decodeCtrl, firstBad]
theorem Encoding.halt : Encoding.Statement (.halt) :=
  Encoding.of_ctrl rfl rfl rfl fun h => by
  simp [decodeCtrl, firstBad]
theorem Encoding.nopArithmetic : Encoding.Statement (.nopArithmetic) :=
  Encoding.of_arith rfl rfl rfl fun h => by
  simp [decodeArith, firstBad]
theorem Encoding.addi (d : Reg) (a : Reg) (i : BitVec 14) : Encoding.Statement (.addi d a i) :=
  Encoding.of_arith rfl rfl rfl fun h => by
  simp [decodeArith, firstBad]
theorem Encoding.add (d : Reg) (a : Reg) (b : Reg) : Encoding.Statement (.add d a b) :=
  Encoding.of_arith rfl rfl rfl fun h => by
  simp [decodeArith, firstBad]
theorem Encoding.sub (d : Reg) (a : Reg) (b : Reg) : Encoding.Statement (.sub d a b) :=
  Encoding.of_arith rfl rfl rfl fun h => by
  simp [decodeArith, firstBad]
theorem Encoding.mul (d : Reg) (a : Reg) (b : Reg) : Encoding.Statement (.mul d a b) :=
  Encoding.of_arith rfl rfl rfl fun h => by
  simp [decodeArith, firstBad]
theorem Encoding.mulh (d : Reg) (a : Reg) (b : Reg) : Encoding.Statement (.mulh d a b) :=
  Encoding.of_arith rfl rfl rfl fun h => by
  simp [decodeArith, firstBad]
theorem Encoding.mulhu (d : Reg) (a : Reg) (b : Reg) : Encoding.Statement (.mulhu d a b) :=
  Encoding.of_arith rfl rfl rfl fun h => by
  simp [decodeArith, firstBad]
theorem Encoding.div (d : Reg) (a : Reg) (b : Reg) : Encoding.Statement (.div d a b) :=
  Encoding.of_arith rfl rfl rfl fun h => by
  simp [decodeArith, firstBad]
theorem Encoding.divu (d : Reg) (a : Reg) (b : Reg) : Encoding.Statement (.divu d a b) :=
  Encoding.of_arith rfl rfl rfl fun h => by
  simp [decodeArith, firstBad]
theorem Encoding.rem (d : Reg) (a : Reg) (b : Reg) : Encoding.Statement (.rem d a b) :=
  Encoding.of_arith rfl rfl rfl fun h => by
  simp [decodeArith, firstBad]
theorem Encoding.remu (d : Reg) (a : Reg) (b : Reg) : Encoding.Statement (.remu d a b) :=
  Encoding.of_arith rfl rfl rfl fun h => by
  simp [decodeArith, firstBad]
theorem Encoding.and (d : Reg) (a : Reg) (b : Reg) : Encoding.Statement (.and d a b) :=
  Encoding.of_arith rfl rfl rfl fun h => by
  simp [decodeArith, firstBad]
theorem Encoding.or (d : Reg) (a : Reg) (b : Reg) : Encoding.Statement (.or d a b) :=
  Encoding.of_arith rfl rfl rfl fun h => by
  simp [decodeArith, firstBad]
theorem Encoding.xor (d : Reg) (a : Reg) (b : Reg) : Encoding.Statement (.xor d a b) :=
  Encoding.of_arith rfl rfl rfl fun h => by
  simp [decodeArith, firstBad]
theorem Encoding.andi (d : Reg) (a : Reg) (i : BitVec 14) : Encoding.Statement (.andi d a i) :=
  Encoding.of_arith rfl rfl rfl fun h => by
  simp [decodeArith, firstBad]
theorem Encoding.ori (d : Reg) (a : Reg) (i : BitVec 14) : Encoding.Statement (.ori d a i) :=
  Encoding.of_arith rfl rfl rfl fun h => by
  simp [decodeArith, firstBad]
theorem Encoding.xori (d : Reg) (a : Reg) (i : BitVec 14) : Encoding.Statement (.xori d a i) :=
  Encoding.of_arith rfl rfl rfl fun h => by
  simp [decodeArith, firstBad]
theorem Encoding.shl (d : Reg) (a : Reg) (b : Reg) : Encoding.Statement (.shl d a b) :=
  Encoding.of_arith rfl rfl rfl fun h => by
  simp [decodeArith, firstBad]
theorem Encoding.shr (d : Reg) (a : Reg) (b : Reg) : Encoding.Statement (.shr d a b) :=
  Encoding.of_arith rfl rfl rfl fun h => by
  simp [decodeArith, firstBad]
theorem Encoding.sra (d : Reg) (a : Reg) (b : Reg) : Encoding.Statement (.sra d a b) :=
  Encoding.of_arith rfl rfl rfl fun h => by
  simp [decodeArith, firstBad]
theorem Encoding.shli (d : Reg) (a : Reg) (h : BitVec 6) : Encoding.Statement (.shli d a h) :=
  Encoding.of_arith rfl rfl rfl fun h => by
  simp [decodeArith, firstBad]
theorem Encoding.shri (d : Reg) (a : Reg) (h : BitVec 6) : Encoding.Statement (.shri d a h) :=
  Encoding.of_arith rfl rfl rfl fun h => by
  simp [decodeArith, firstBad]
theorem Encoding.srai (d : Reg) (a : Reg) (h : BitVec 6) : Encoding.Statement (.srai d a h) :=
  Encoding.of_arith rfl rfl rfl fun h => by
  simp [decodeArith, firstBad]
theorem Encoding.slt (d : Reg) (a : Reg) (b : Reg) : Encoding.Statement (.slt d a b) :=
  Encoding.of_arith rfl rfl rfl fun h => by
  simp [decodeArith, firstBad]
theorem Encoding.sltu (d : Reg) (a : Reg) (b : Reg) : Encoding.Statement (.sltu d a b) :=
  Encoding.of_arith rfl rfl rfl fun h => by
  simp [decodeArith, firstBad]
theorem Encoding.slti (d : Reg) (a : Reg) (i : BitVec 14) : Encoding.Statement (.slti d a i) :=
  Encoding.of_arith rfl rfl rfl fun h => by
  simp [decodeArith, firstBad]
theorem Encoding.seq (d : Reg) (a : Reg) (b : Reg) : Encoding.Statement (.seq d a b) :=
  Encoding.of_arith rfl rfl rfl fun h => by
  simp [decodeArith, firstBad]
theorem Encoding.min (d : Reg) (a : Reg) (b : Reg) : Encoding.Statement (.min d a b) :=
  Encoding.of_arith rfl rfl rfl fun h => by
  simp [decodeArith, firstBad]
theorem Encoding.max (d : Reg) (a : Reg) (b : Reg) : Encoding.Statement (.max d a b) :=
  Encoding.of_arith rfl rfl rfl fun h => by
  simp [decodeArith, firstBad]
theorem Encoding.minu (d : Reg) (a : Reg) (b : Reg) : Encoding.Statement (.minu d a b) :=
  Encoding.of_arith rfl rfl rfl fun h => by
  simp [decodeArith, firstBad]
theorem Encoding.maxu (d : Reg) (a : Reg) (b : Reg) : Encoding.Statement (.maxu d a b) :=
  Encoding.of_arith rfl rfl rfl fun h => by
  simp [decodeArith, firstBad]
theorem Encoding.clz (d : Reg) (a : Reg) : Encoding.Statement (.clz d a) :=
  Encoding.of_arith rfl rfl rfl fun h => by
  simp [decodeArith, firstBad]
theorem Encoding.ctz (d : Reg) (a : Reg) : Encoding.Statement (.ctz d a) :=
  Encoding.of_arith rfl rfl rfl fun h => by
  simp [decodeArith, firstBad]
theorem Encoding.popc (d : Reg) (a : Reg) : Encoding.Statement (.popc d a) :=
  Encoding.of_arith rfl rfl rfl fun h => by
  simp [decodeArith, firstBad]
theorem Encoding.bext (d : Reg) (a : Reg) (o : BitVec 7) (w : BitVec 7) : Encoding.Statement (.bext d a o w) :=
  Encoding.of_arith rfl rfl rfl fun h => by
  simp [decodeArith, firstBad]
theorem Encoding.bextu (d : Reg) (a : Reg) (o : BitVec 7) (w : BitVec 7) : Encoding.Statement (.bextu d a o w) :=
  Encoding.of_arith rfl rfl rfl fun h => by
  simp [decodeArith, firstBad]
theorem Encoding.bins (d : Reg) (a : Reg) (o : BitVec 7) (w : BitVec 7) : Encoding.Statement (.bins d a o w) :=
  Encoding.of_arith rfl rfl rfl fun h => by
  simp [decodeArith, firstBad]
theorem Encoding.bswap (d : Reg) (a : Reg) : Encoding.Statement (.bswap d a) :=
  Encoding.of_arith rfl rfl rfl fun h => by
  simp [decodeArith, firstBad]
theorem Encoding.fadd (p : Prec) (d : Reg) (a : Reg) (b : Reg) : Encoding.Statement (.fadd p d a b) :=
  Encoding.of_arith rfl rfl rfl fun h => by
  simp [decodeArith, firstBad]
theorem Encoding.fsub (p : Prec) (d : Reg) (a : Reg) (b : Reg) : Encoding.Statement (.fsub p d a b) :=
  Encoding.of_arith rfl rfl rfl fun h => by
  simp [decodeArith, firstBad]
theorem Encoding.fmul (p : Prec) (d : Reg) (a : Reg) (b : Reg) : Encoding.Statement (.fmul p d a b) :=
  Encoding.of_arith rfl rfl rfl fun h => by
  simp [decodeArith, firstBad]
theorem Encoding.fdiv (p : Prec) (d : Reg) (a : Reg) (b : Reg) : Encoding.Statement (.fdiv p d a b) :=
  Encoding.of_arith rfl rfl rfl fun h => by
  simp [decodeArith, firstBad]
theorem Encoding.fsqrt (p : Prec) (d : Reg) (a : Reg) : Encoding.Statement (.fsqrt p d a) :=
  Encoding.of_arith rfl rfl rfl fun h => by
  simp [decodeArith, firstBad]
theorem Encoding.fmin (p : Prec) (d : Reg) (a : Reg) (b : Reg) : Encoding.Statement (.fmin p d a b) :=
  Encoding.of_arith rfl rfl rfl fun h => by
  simp [decodeArith, firstBad]
theorem Encoding.fmax (p : Prec) (d : Reg) (a : Reg) (b : Reg) : Encoding.Statement (.fmax p d a b) :=
  Encoding.of_arith rfl rfl rfl fun h => by
  simp [decodeArith, firstBad]
theorem Encoding.fcmp (p : Prec) (cc : FCond) (d : Reg) (a : Reg) (b : Reg) : Encoding.Statement (.fcmp p cc d a b) :=
  Encoding.of_arith rfl rfl rfl fun h => by
  cases cc <;> cases p <;> simp [decodeArith, firstBad, FCond.code, Prec.bit, precOf, fcondOf]
theorem Encoding.fcvt (t : BitVec 4) (st : BitVec 4) (d : Reg) (a : Reg) : Encoding.Statement (.fcvt t st d a) :=
  Encoding.of_arith rfl rfl rfl fun h => by
  simp [decodeArith, firstBad]
  exact fcvt_ok t st h
theorem Encoding.fclass (p : Prec) (d : Reg) (a : Reg) : Encoding.Statement (.fclass p d a) :=
  Encoding.of_arith rfl rfl rfl fun h => by
  simp [decodeArith, firstBad]
theorem Encoding.fsgn (k : BitVec 2) (p : Prec) (d : Reg) (a : Reg) (b : Reg) : Encoding.Statement (.fsgn k p d a b) :=
  Encoding.of_arith rfl rfl rfl fun h => by
  simp [Instr.wf] at h
  simp [decodeArith, firstBad, h]
theorem Encoding.li (d : Reg) (imm : BitVec 51) : Encoding.Statement (.li d imm) :=
  Encoding.of_long rfl rfl rfl fun _ => li_back d imm
theorem Encoding.lih (d : Reg) (imm : BitVec 32) : Encoding.Statement (.lih d imm) :=
  Encoding.of_long rfl rfl rfl fun _ => lih_back d imm
theorem Encoding.sel (d : Reg) (a : Reg) (b : Reg) (c : Reg) : Encoding.Statement (.sel d a b c) :=
  Encoding.of_long rfl rfl rfl fun h => by
  simp [decodeLong, firstBad]
theorem Encoding.ffma (p : Prec) (d : Reg) (a : Reg) (b : Reg) (c : Reg) : Encoding.Statement (.ffma p d a b c) :=
  Encoding.of_long rfl rfl rfl fun h => by
  simp [decodeLong, firstBad]
theorem Encoding.tcfg (t : BitVec 4) (ty : BitVec 2) : Encoding.Statement (.tcfg t ty) :=
  Encoding.of_long rfl rfl rfl fun h => by
  simp [decodeLong, firstBad]
theorem Encoding.tzero (t : BitVec 4) : Encoding.Statement (.tzero t) :=
  Encoding.of_long rfl rfl rfl fun h => by
  simp [decodeLong, firstBad]
theorem Encoding.vld (rd : RowOp) (a : Reg) (off : BitVec 11) : Encoding.Statement (.vld rd a off) :=
  Encoding.of_long rfl rfl rfl fun h => by
  simp [Instr.wf] at h
  simp [decodeLong, firstBad, row_ok, h]
theorem Encoding.vst (a : Reg) (off : BitVec 11) (rb : RowOp) : Encoding.Statement (.vst a off rb) :=
  Encoding.of_long rfl rfl rfl fun h => by
  simp [Instr.wf] at h
  simp [decodeLong, firstBad, row_ok, h]
theorem Encoding.vbc (rd : RowOp) (a : Reg) : Encoding.Statement (.vbc rd a) :=
  Encoding.of_long rfl rfl rfl fun h => by
  simp [Instr.wf] at h
  simp [decodeLong, firstBad, row_ok, h]
theorem Encoding.vadd (rd : RowOp) (ra : RowOp) (rb : RowOp) : Encoding.Statement (.vadd rd ra rb) :=
  Encoding.of_long rfl rfl rfl fun h => by
  simp [Instr.wf] at h
  simp [decodeLong, firstBad, row_ok, h]
theorem Encoding.vsub (rd : RowOp) (ra : RowOp) (rb : RowOp) : Encoding.Statement (.vsub rd ra rb) :=
  Encoding.of_long rfl rfl rfl fun h => by
  simp [Instr.wf] at h
  simp [decodeLong, firstBad, row_ok, h]
theorem Encoding.vmul (rd : RowOp) (ra : RowOp) (rb : RowOp) : Encoding.Statement (.vmul rd ra rb) :=
  Encoding.of_long rfl rfl rfl fun h => by
  simp [Instr.wf] at h
  simp [decodeLong, firstBad, row_ok, h]
theorem Encoding.vfma (rd : RowOp) (ra : RowOp) (rb : RowOp) : Encoding.Statement (.vfma rd ra rb) :=
  Encoding.of_long rfl rfl rfl fun h => by
  simp [Instr.wf] at h
  simp [decodeLong, firstBad, row_ok, h]
theorem Encoding.vmin (rd : RowOp) (ra : RowOp) (rb : RowOp) : Encoding.Statement (.vmin rd ra rb) :=
  Encoding.of_long rfl rfl rfl fun h => by
  simp [Instr.wf] at h
  simp [decodeLong, firstBad, row_ok, h]
theorem Encoding.vmax (rd : RowOp) (ra : RowOp) (rb : RowOp) : Encoding.Statement (.vmax rd ra rb) :=
  Encoding.of_long rfl rfl rfl fun h => by
  simp [Instr.wf] at h
  simp [decodeLong, firstBad, row_ok, h]
theorem Encoding.vabs (rd : RowOp) (ra : RowOp) : Encoding.Statement (.vabs rd ra) :=
  Encoding.of_long rfl rfl rfl fun h => by
  simp [Instr.wf] at h
  simp [decodeLong, firstBad, row_ok, h]
theorem Encoding.vneg (rd : RowOp) (ra : RowOp) : Encoding.Statement (.vneg rd ra) :=
  Encoding.of_long rfl rfl rfl fun h => by
  simp [Instr.wf] at h
  simp [decodeLong, firstBad, row_ok, h]
theorem Encoding.vcvt (rd : RowOp) (ra : RowOp) : Encoding.Statement (.vcvt rd ra) :=
  Encoding.of_long rfl rfl rfl fun h => by
  simp [Instr.wf] at h
  simp [decodeLong, firstBad, row_ok, h]
theorem Encoding.vcmp (cc : BitVec 3) (rd : RowOp) (ra : RowOp) (rb : RowOp) : Encoding.Statement (.vcmp cc rd ra rb) :=
  Encoding.of_long rfl rfl rfl fun h => by
  simp [Instr.wf] at h
  simp [decodeLong, firstBad, row_ok, h]
  omega
theorem Encoding.vsel (rd : RowOp) (ra : RowOp) (rb : RowOp) : Encoding.Statement (.vsel rd ra rb) :=
  Encoding.of_long rfl rfl rfl fun h => by
  simp [Instr.wf] at h
  simp [decodeLong, firstBad, row_ok, h]
theorem Encoding.vperm (rd : RowOp) (ra : RowOp) (rb : RowOp) : Encoding.Statement (.vperm rd ra rb) :=
  Encoding.of_long rfl rfl rfl fun h => by
  simp [Instr.wf] at h
  simp [decodeLong, firstBad, row_ok, h]
theorem Encoding.vred (op : BitVec 2) (ra : RowOp) : Encoding.Statement (.vred op ra) :=
  Encoding.of_long rfl rfl rfl fun h => by
  simp [Instr.wf] at h
  simp [decodeLong, firstBad, row_ok, h]
theorem Encoding.vscale (rd : RowOp) (ra : RowOp) (b : Reg) : Encoding.Statement (.vscale rd ra b) :=
  Encoding.of_long rfl rfl rfl fun h => by
  simp [Instr.wf] at h
  simp [decodeLong, firstBad, row_ok, h]
theorem Encoding.vloop (n1 : BitVec 4) (cnt : BitVec 12) : Encoding.Statement (.vloop n1 cnt) :=
  Encoding.of_long rfl rfl rfl fun h => by
  simp [Instr.wf] at h
  simp [decodeLong, firstBad, h]
theorem Encoding.vpop (d : Reg) : Encoding.Statement (.vpop d) :=
  Encoding.of_long rfl rfl rfl fun h => by
  simp [decodeLong, firstBad]
theorem Encoding.topk (mn : Bool) (c : Reg) (rd : RowOp) (rb : RowOp) (ra : RowOp) (k1 : BitVec 7) : Encoding.Statement (.topk mn c rd rb ra k1) :=
  Encoding.of_long rfl rfl rfl fun h => by
  simp [Instr.wf] at h
  simp [decodeLong, firstBad, row_ok, h]
theorem Encoding.topkm (mn : Bool) (c : Reg) (rd : RowOp) (rb : RowOp) (ra : RowOp) (k1 : BitVec 7) : Encoding.Statement (.topkm mn c rd rb ra k1) :=
  Encoding.of_long rfl rfl rfl fun h => by
  simp [Instr.wf] at h
  simp [decodeLong, firstBad, row_ok, h]
theorem Encoding.vsort (ds : Bool) (rd : RowOp) (rb : RowOp) (ra : RowOp) : Encoding.Statement (.vsort ds rd rb ra) :=
  Encoding.of_long rfl rfl rfl fun h => by
  simp [Instr.wf] at h
  simp [decodeLong, firstBad, row_ok, h]
theorem Encoding.mdepAdd (a : Reg) (off : BitVec 11) (b : Reg) : Encoding.Statement (.mdepAdd a off b) :=
  Encoding.of_long rfl rfl rfl fun h => by
  simp [decodeLong, firstBad]
theorem Encoding.mdepMax (a : Reg) (off : BitVec 11) (b : Reg) : Encoding.Statement (.mdepMax a off b) :=
  Encoding.of_long rfl rfl rfl fun h => by
  simp [decodeLong, firstBad]
theorem Encoding.msense (d : Reg) (a : Reg) (b : Reg) (st : BitVec 3) : Encoding.Statement (.msense d a b st) :=
  Encoding.of_long rfl rfl rfl fun h => by
  simp [Instr.wf] at h
  simp [decodeLong, firstBad]
  omega
theorem Encoding.mrd (d : Reg) (a : Reg) (off : BitVec 11) : Encoding.Statement (.mrd d a off) :=
  Encoding.of_long rfl rfl rfl fun h => by
  simp [decodeLong, firstBad]
theorem Encoding.mclr (a : Reg) (off : BitVec 11) : Encoding.Statement (.mclr a off) :=
  Encoding.of_long rfl rfl rfl fun h => by
  simp [decodeLong, firstBad]
theorem Encoding.mtick (d : Reg) (rg : BitVec 3) : Encoding.Statement (.mtick d rg) :=
  Encoding.of_long rfl rfl rfl fun h => by
  simp [decodeLong, firstBad]
theorem Encoding.fldF (fd : FRegN) (a : Reg) (off : BitVec 11) : Encoding.Statement (.fldF fd a off) :=
  Encoding.of_long rfl rfl rfl fun h => by
  simp [decodeLong, firstBad]
theorem Encoding.fstF (a : Reg) (off : BitVec 11) (fb : FRegN) : Encoding.Statement (.fstF a off fb) :=
  Encoding.of_long rfl rfl rfl fun h => by
  simp [decodeLong, firstBad]
theorem Encoding.fset (fd : FRegN) (a : Reg) (j : BitVec 7) : Encoding.Statement (.fset fd a j) :=
  Encoding.of_long rfl rfl rfl fun h => by
  simp [decodeLong, firstBad]
theorem Encoding.fdom (fd : FRegN) (a : Reg) (b : Reg) : Encoding.Statement (.fdom fd a b) :=
  Encoding.of_long rfl rfl rfl fun h => by
  simp [decodeLong, firstBad]
theorem Encoding.faddF (fd : FRegN) (fa : FRegN) (fb : FRegN) : Encoding.Statement (.faddF fd fa fb) :=
  Encoding.of_long rfl rfl rfl fun h => by
  simp [decodeLong, firstBad]
theorem Encoding.fsubF (fd : FRegN) (fa : FRegN) (fb : FRegN) : Encoding.Statement (.fsubF fd fa fb) :=
  Encoding.of_long rfl rfl rfl fun h => by
  simp [decodeLong, firstBad]
theorem Encoding.fmulF (fd : FRegN) (fa : FRegN) (fb : FRegN) : Encoding.Statement (.fmulF fd fa fb) :=
  Encoding.of_long rfl rfl rfl fun h => by
  simp [decodeLong, firstBad]
theorem Encoding.fscl (fd : FRegN) (fa : FRegN) (b : Reg) : Encoding.Statement (.fscl fd fa b) :=
  Encoding.of_long rfl rfl rfl fun h => by
  simp [decodeLong, firstBad]
theorem Encoding.fcomp (fd : FRegN) (fa : FRegN) (fb : FRegN) : Encoding.Statement (.fcomp fd fa fb) :=
  Encoding.of_long rfl rfl rfl fun h => by
  simp [decodeLong, firstBad]
theorem Encoding.fint (fd : FRegN) (fa : FRegN) : Encoding.Statement (.fint fd fa) :=
  Encoding.of_long rfl rfl rfl fun h => by
  simp [decodeLong, firstBad]
theorem Encoding.fder (fd : FRegN) (fa : FRegN) : Encoding.Statement (.fder fd fa) :=
  Encoding.of_long rfl rfl rfl fun h => by
  simp [decodeLong, firstBad]
theorem Encoding.feval (d : Reg) (fa : FRegN) (b : Reg) : Encoding.Statement (.feval d fa b) :=
  Encoding.of_long rfl rfl rfl fun h => by
  simp [decodeLong, firstBad]
theorem Encoding.fevalV (rd : RowOp) (fa : FRegN) (rb : RowOp) : Encoding.Statement (.fevalV rd fa rb) :=
  Encoding.of_long rfl rfl rfl fun h => by
  simp [Instr.wf] at h
  simp [decodeLong, firstBad, row_ok, h]
theorem Encoding.fsamp (fd : FRegN) (rb : RowOp) (n : BitVec 8) : Encoding.Statement (.fsamp fd rb n) :=
  Encoding.of_long rfl rfl rfl fun h => by
  simp [Instr.wf] at h
  simp [decodeLong, firstBad, row_ok, h]
theorem Encoding.froot (d : Reg) (fa : FRegN) (b : Reg) (c : Reg) : Encoding.Statement (.froot d fa b c) :=
  Encoding.of_long rfl rfl rfl fun h => by
  simp [decodeLong, firstBad]
theorem Encoding.flen (d : Reg) (fa : FRegN) : Encoding.Statement (.flen d fa) :=
  Encoding.of_long rfl rfl rfl fun h => by
  simp [decodeLong, firstBad]
theorem Encoding.ftrunc (fd : FRegN) (fa : FRegN) (n : BitVec 8) : Encoding.Statement (.ftrunc fd fa n) :=
  Encoding.of_long rfl rfl rfl fun h => by
  simp [Instr.wf] at h
  simp [decodeLong, firstBad, h]
theorem Encoding.performAtHome (req : Nat) (k : Nat) : Encoding.Statement (.performAtHome req k) :=
  Encoding.of_none rfl rfl rfl
theorem Encoding.continuationReply (req : Nat) : Encoding.Statement (.continuationReply req) :=
  Encoding.of_none rfl rfl rfl
theorem Encoding.homeAcknowledge (req : Nat) : Encoding.Statement (.homeAcknowledge req) :=
  Encoding.of_none rfl rfl rfl
theorem Encoding.phaseComplete (who : Tid) : Encoding.Statement (.phaseComplete who) :=
  Encoding.of_none rfl rfl rfl
theorem Encoding.migrationArrive (who : Tid) : Encoding.Statement (.migrationArrive who) :=
  Encoding.of_none rfl rfl rfl
theorem Encoding.sleepWake (who : Tid) : Encoding.Statement (.sleepWake who) :=
  Encoding.of_none rfl rfl rfl
theorem Encoding.vloopReplay (who : Tid) : Encoding.Statement (.vloopReplay who) :=
  Encoding.of_none rfl rfl rfl
theorem Encoding.streamFetch (who : Tid) (r : Reg) : Encoding.Statement (.streamFetch who r) :=
  Encoding.of_none rfl rfl rfl
theorem Encoding.copyTransfer (cp : Nat) : Encoding.Statement (.copyTransfer cp) :=
  Encoding.of_none rfl rfl rfl
theorem Encoding.promiseCheck (cp : Nat) : Encoding.Statement (.promiseCheck cp) :=
  Encoding.of_none rfl rfl rfl
theorem Encoding.windowExchange (who : Tid) : Encoding.Statement (.windowExchange who) :=
  Encoding.of_none rfl rfl rfl
theorem Encoding.mma (core : Nat) : Encoding.Statement (.mma core) :=
  Encoding.of_none rfl rfl rfl
theorem Encoding.mmaS (core : Nat) : Encoding.Statement (.mmaS core) :=
  Encoding.of_none rfl rfl rfl
theorem Encoding.mmaSp (core : Nat) : Encoding.Statement (.mmaSp core) :=
  Encoding.of_none rfl rfl rfl
theorem Encoding.mrot (core : Nat) : Encoding.Statement (.mrot core) :=
  Encoding.of_none rfl rfl rfl
theorem Encoding.mrotSend (core : Nat) : Encoding.Statement (.mrotSend core) :=
  Encoding.of_none rfl rfl rfl
theorem Encoding.mrotExchange (grid : Nat) (team : Nat) (win : Nat) : Encoding.Statement (.mrotExchange grid team win) :=
  Encoding.of_none rfl rfl rfl
theorem Encoding.mfill (core : Nat) : Encoding.Statement (.mfill core) :=
  Encoding.of_none rfl rfl rfl
theorem Encoding.mdrain (core : Nat) : Encoding.Statement (.mdrain core) :=
  Encoding.of_none rfl rfl rfl
theorem Encoding.mzero (core : Nat) : Encoding.Statement (.mzero core) :=
  Encoding.of_none rfl rfl rfl
theorem Encoding.reinAdmission (cl : Nat) : Encoding.Statement (.reinAdmission cl) :=
  Encoding.of_none rfl rfl rfl
theorem Encoding.reinStepDown (cl : Nat) : Encoding.Statement (.reinStepDown cl) :=
  Encoding.of_none rfl rfl rfl
theorem Encoding.reinTableChange (cl : Nat) : Encoding.Statement (.reinTableChange cl) :=
  Encoding.of_none rfl rfl rfl
theorem Encoding.budgetChange : Encoding.Statement (.budgetChange) :=
  Encoding.of_none rfl rfl rfl
theorem Encoding.gridStart (grid : Nat) (cores : List Nat) : Encoding.Statement (.gridStart grid cores) :=
  Encoding.of_none rfl rfl rfl
theorem Encoding.nextParkEnd (grid : Nat) : Encoding.Statement (.nextParkEnd grid) :=
  Encoding.of_none rfl rfl rfl
theorem Encoding.gridComplete (grid : Nat) : Encoding.Statement (.gridComplete grid) :=
  Encoding.of_none rfl rfl rfl
theorem Encoding.preempt (grid : Nat) : Encoding.Statement (.preempt grid) :=
  Encoding.of_none rfl rfl rfl
theorem Encoding.preemptAbandon (grid : Nat) : Encoding.Statement (.preemptAbandon grid) :=
  Encoding.of_none rfl rfl rfl
theorem Encoding.resume (grid : Nat) (cores : List Nat) : Encoding.Statement (.resume grid cores) :=
  Encoding.of_none rfl rfl rfl
theorem Encoding.swapInstant : Encoding.Statement (.swapInstant) :=
  Encoding.of_none rfl rfl rfl
theorem Encoding.exchange (p : Nat) (q : Nat) : Encoding.Statement (.exchange p q) :=
  Encoding.of_none rfl rfl rfl
theorem Encoding.messageForward (req : Nat) : Encoding.Statement (.messageForward req) :=
  Encoding.of_none rfl rfl rfl
theorem Encoding.forwardingWithdraw (core : Nat) : Encoding.Statement (.forwardingWithdraw core) :=
  Encoding.of_none rfl rfl rfl
theorem Encoding.mregWriteApply (grid : Nat) : Encoding.Statement (.mregWriteApply grid) :=
  Encoding.of_none rfl rfl rfl
theorem Encoding.bankpartChangeEnd (bank : Nat) : Encoding.Statement (.bankpartChangeEnd bank) :=
  Encoding.of_none rfl rfl rfl
theorem Encoding.sweeperNormalise (grid : Nat) (rg : Nat) (w : Nat) : Encoding.Statement (.sweeperNormalise grid rg w) :=
  Encoding.of_none rfl rfl rfl
theorem Encoding.patrolScrub (key : Nat) : Encoding.Statement (.patrolScrub key) :=
  Encoding.of_none rfl rfl rfl
theorem Encoding.mramScrub (key : Nat) : Encoding.Statement (.mramScrub key) :=
  Encoding.of_none rfl rfl rfl
theorem Encoding.wearLevelling (core : Nat) : Encoding.Statement (.wearLevelling core) :=
  Encoding.of_none rfl rfl rfl
theorem Encoding.calibration : Encoding.Statement (.calibration) :=
  Encoding.of_none rfl rfl rfl
theorem Encoding.inningsCommit (grid : Nat) : Encoding.Statement (.inningsCommit grid) :=
  Encoding.of_none rfl rfl rfl
theorem Encoding.gridFaultEnd (grid : Nat) : Encoding.Statement (.gridFaultEnd grid) :=
  Encoding.of_none rfl rfl rfl
theorem Encoding.watchdogWindowEnd : Encoding.Statement (.watchdogWindowEnd) :=
  Encoding.of_none rfl rfl rfl
theorem Encoding.qtailDoorbell (q : Nat) (v : Word) : Encoding.Statement (.qtailDoorbell q v) :=
  Encoding.of_none rfl rfl rfl
theorem Encoding.queueEnable (q : Nat) (v : Word) : Encoding.Statement (.queueEnable q v) :=
  Encoding.of_none rfl rfl rfl
theorem Encoding.queueDisable (q : Nat) (v : Word) : Encoding.Statement (.queueDisable q v) :=
  Encoding.of_none rfl rfl rfl
theorem Encoding.qlatWrite (q : Nat) (v : Word) : Encoding.Statement (.qlatWrite q v) :=
  Encoding.of_none rfl rfl rfl
theorem Encoding.invalidationCommand (q : Nat) (v : Word) : Encoding.Statement (.invalidationCommand q v) :=
  Encoding.of_none rfl rfl rfl
theorem Encoding.invalidationComplete (q : Nat) : Encoding.Statement (.invalidationComplete q) :=
  Encoding.of_none rfl rfl rfl
theorem Encoding.launchEntry (q : Nat) : Encoding.Statement (.launchEntry q) :=
  Encoding.of_none rfl rfl rfl
theorem Encoding.graphEntry (q : Nat) : Encoding.Statement (.graphEntry q) :=
  Encoding.of_none rfl rfl rfl
theorem Encoding.waitValueEntry (q : Nat) : Encoding.Statement (.waitValueEntry q) :=
  Encoding.of_none rfl rfl rfl
theorem Encoding.waitValuePoll (q : Nat) : Encoding.Statement (.waitValuePoll q) :=
  Encoding.of_none rfl rfl rfl
theorem Encoding.signalEntry (q : Nat) : Encoding.Statement (.signalEntry q) :=
  Encoding.of_none rfl rfl rfl
theorem Encoding.copyEntry (q : Nat) : Encoding.Statement (.copyEntry q) :=
  Encoding.of_none rfl rfl rfl
theorem Encoding.entryComplete (q : Nat) (n : Nat) : Encoding.Statement (.entryComplete q n) :=
  Encoding.of_none rfl rfl rfl
theorem Encoding.fsreplyRetry (token : Nat) : Encoding.Statement (.fsreplyRetry token) :=
  Encoding.of_none rfl rfl rfl
theorem Encoding.fsreplyTrap (token : Nat) : Encoding.Statement (.fsreplyTrap token) :=
  Encoding.of_none rfl rfl rfl
theorem Encoding.fsreplyEnd (token : Nat) : Encoding.Statement (.fsreplyEnd token) :=
  Encoding.of_none rfl rfl rfl
theorem Encoding.cpbRelease (k : Nat) : Encoding.Statement (.cpbRelease k) :=
  Encoding.of_none rfl rfl rfl
theorem Encoding.debugHalt (cl : Nat) : Encoding.Statement (.debugHalt cl) :=
  Encoding.of_none rfl rfl rfl
theorem Encoding.debugResume (cl : Nat) : Encoding.Statement (.debugResume cl) :=
  Encoding.of_none rfl rfl rfl
theorem Encoding.ddataRead (cl : Nat) : Encoding.Statement (.ddataRead cl) :=
  Encoding.of_none rfl rfl rfl
theorem Encoding.ddataWrite (cl : Nat) (v : Word) : Encoding.Statement (.ddataWrite cl v) :=
  Encoding.of_none rfl rfl rfl
theorem Encoding.reachGo (st : Nat) : Encoding.Statement (.reachGo st) :=
  Encoding.of_none rfl rfl rfl
theorem Encoding.reachStop (st : Nat) : Encoding.Statement (.reachStop st) :=
  Encoding.of_none rfl rfl rfl
theorem Encoding.reachProgramStop (st : Nat) : Encoding.Statement (.reachProgramStop st) :=
  Encoding.of_none rfl rfl rfl
theorem Encoding.rd64 (st : Nat) (adr : Nat) (tag : Nat) : Encoding.Statement (.rd64 st adr tag) :=
  Encoding.of_none rfl rfl rfl
theorem Encoding.rd256 (st : Nat) (adr : Nat) (tag : Nat) : Encoding.Statement (.rd256 st adr tag) :=
  Encoding.of_none rfl rfl rfl
theorem Encoding.wr64 (st : Nat) (adr : Nat) (tag : Nat) (data : BitVec 512) : Encoding.Statement (.wr64 st adr tag data) :=
  Encoding.of_none rfl rfl rfl
theorem Encoding.wr256 (st : Nat) (adr : Nat) (tag : Nat) (data : BitVec 2048) : Encoding.Statement (.wr256 st adr tag data) :=
  Encoding.of_none rfl rfl rfl
theorem Encoding.feopRead (st : Nat) (adr : Nat) (tag : Nat) (sub : Nat) : Encoding.Statement (.feopRead st adr tag sub) :=
  Encoding.of_none rfl rfl rfl
theorem Encoding.feopSet (st : Nat) (adr : Nat) (tag : Nat) (sub : Nat) (v : Bool) : Encoding.Statement (.feopSet st adr tag sub v) :=
  Encoding.of_none rfl rfl rfl
theorem Encoding.metard (st : Nat) (adr : Nat) (tag : Nat) : Encoding.Statement (.metard st adr tag) :=
  Encoding.of_none rfl rfl rfl
theorem Encoding.nolendIllegalCommand (st : Nat) (tag : Nat) (cmd : Nat) : Encoding.Statement (.nolendIllegalCommand st tag cmd) :=
  Encoding.of_none rfl rfl rfl
theorem Encoding.attestationRequest : Encoding.Statement (.attestationRequest) :=
  Encoding.of_none rfl rfl rfl
theorem Encoding.attestationDone : Encoding.Statement (.attestationDone) :=
  Encoding.of_none rfl rfl rfl
theorem Encoding.telptrRead : Encoding.Statement (.telptrRead) :=
  Encoding.of_none rfl rfl rfl
theorem Encoding.deviceRegisterWrite (adr : Nat) (v : Word) : Encoding.Statement (.deviceRegisterWrite adr v) :=
  Encoding.of_none rfl rfl rfl
theorem Encoding.powerGate (core : Nat) (lvl : PowerLevel) : Encoding.Statement (.powerGate core lvl) :=
  Encoding.of_none rfl rfl rfl
theorem Encoding.wake (core : Nat) : Encoding.Statement (.wake core) :=
  Encoding.of_none rfl rfl rfl
theorem Encoding.continuousShadowCopy (core : Nat) : Encoding.Statement (.continuousShadowCopy core) :=
  Encoding.of_none rfl rfl rfl
theorem Encoding.corePowerLoss (core : Nat) : Encoding.Statement (.corePowerLoss core) :=
  Encoding.of_none rfl rfl rfl
theorem Encoding.packagePowerLoss (durable : List Nat) : Encoding.Statement (.packagePowerLoss durable) :=
  Encoding.of_none rfl rfl rfl
theorem Encoding.firmwareBoot (image : List Byte) : Encoding.Statement (.firmwareBoot image) :=
  Encoding.of_none rfl rfl rfl
theorem Encoding.temperatureSample (col : Nat) (temp : Int) : Encoding.Statement (.temperatureSample col temp) :=
  Encoding.of_none rfl rfl rfl
theorem Encoding.verticalBusFailure (bank : Nat) (quad : Nat) : Encoding.Statement (.verticalBusFailure bank quad) :=
  Encoding.of_none rfl rfl rfl
theorem Encoding.linkFlitError (link : Nat) : Encoding.Statement (.linkFlitError link) :=
  Encoding.of_none rfl rfl rfl
theorem Encoding.linkRetrain (link : Nat) : Encoding.Statement (.linkRetrain link) :=
  Encoding.of_none rfl rfl rfl
theorem Encoding.linkDown (link : Nat) : Encoding.Statement (.linkDown link) :=
  Encoding.of_none rfl rfl rfl
theorem Encoding.spanRouteTimeout (req : Nat) : Encoding.Statement (.spanRouteTimeout req) :=
  Encoding.of_none rfl rfl rfl
theorem Encoding.illegalBundle (sub : Nat) (bundle : BitVec 64) : Encoding.Statement (.illegalBundle sub bundle) :=
  Encoding.of_none rfl rfl rfl
theorem Encoding.fetchFault : Encoding.Statement (.fetchFault) :=
  Encoding.of_none rfl rfl rfl
theorem Encoding.illegalRecord (core : Nat) : Encoding.Statement (.illegalRecord core) :=
  Encoding.of_none rfl rfl rfl
theorem Encoding.illegalKindEntry (q : Nat) : Encoding.Statement (.illegalKindEntry q) :=
  Encoding.of_none rfl rfl rfl
theorem Encoding.stepDownComplete (core : Nat) : Encoding.Statement (.stepDownComplete core) :=
  Encoding.of_none rfl rfl rfl
theorem Encoding.pkgmodeWrite (v : Word) : Encoding.Statement (.pkgmodeWrite v) :=
  Encoding.of_none rfl rfl rfl
theorem Encoding.fsqptrWrite (v : Word) : Encoding.Statement (.fsqptrWrite v) :=
  Encoding.of_none rfl rfl rfl

end Sys2Proof.Laws
end

