-- ==== Sys2Proof/Tests/Slice0.lean ====
section
/-! SUPPORT. Small tests of the model against the spec's words, and a state that meets the hypotheses of each statement. -/

namespace Sys2Proof.Tests

set_option Elab.async false

open Sys2Proof.Machine Sys2Proof.Claims

/-- The machine with one thread on core 0, as it stands before its first bundle; its team has sixteen tiles, a pool and a TCM share. -/
def bench : State := { State.reset.withBench with cycle := 5000 }

/-- What an instruction leaves. -/
def run (i : Instr) (s : State) : State := match exec i s with | .next t => t | _ => s

/-- What a step leaves. -/
def stepped (s : State) : State := match step s with | .next t => t | _ => s

/-- The bench with values in scalar registers. -/
def withRegs (l : List (Reg × Word)) (s : State) : State :=
  l.foldl (fun t p => { t with cur := t.cur.setReg p.1 p.2 }) s

/-- The bench's TCM, as an address and as a key. -/
def tcm : Word := 0xF000000000000
def at_ (o : Nat) : Nat := tcmKey 1 0 o

/-- A closed phase. -/
def ph (n : BitVec 2) : ClosedPhase := ⟨n, 0, false, false⟩

/-! ### Words written out from the tables of R110–R117 -/

/-- Control/memory words (R111): opcode and fields of the opcode table, one for each instruction. -/
def ctrlWords : List (BitVec 32 × Instr) :=
  [(0x00000000, .nop), (0x02CA1A53, .addiCm 6 5 0x1a53), (0x04CA1A53, .ldB 6 5 0x1a53),
   (0x06CA1A53, .ldBU 6 5 0x1a53), (0x08CA1A53, .ldH 6 5 0x1a53), (0x0ACA1A53, .ldHU 6 5 0x1a53),
   (0x0CCA1A53, .ldW 6 5 0x1a53), (0x0ECA1A53, .ldWU 6 5 0x1a53), (0x10CA1A53, .ldD 6 5 0x1a53),
   (0x120A1A53, .ldQ 5 0x1a53), (0x140B3A53, .stB 5 0x1a53 9), (0x160B3A53, .stH 5 0x1a53 9),
   (0x180B3A53, .stW 5 0x1a53 9), (0x1A0B3A53, .stD 5 0x1a53 9), (0x1C0A1A53, .stQ 5 0x1a53),
   (0x20CA1A53, .ldf 6 5 0x1a53), (0x22CA1A53, .lde 6 5 0x1a53), (0x240B3A53, .stf 5 0x1a53 9),
   (0x260B3A53, .stw 5 0x1a53 9), (0x282A1A53, .feset 1 5 0x1a53), (0x2ACA1A53, .festat 6 5 0x1a53),
   (0x2CCB2000, .aadd 6 5 9), (0x2CCB2001, .aaddf 6 5 9), (0x2CCB2002, .aand 6 5 9),
   (0x2CCB2003, .aor 6 5 9), (0x2CCB2004, .axor 6 5 9), (0x2CCB2005, .amin 6 5 9),
   (0x2CCB2006, .amax 6 5 9), (0x2CCB2007, .aminu 6 5 9), (0x2CCB2008, .amaxu 6 5 9),
   (0x2CCB2009, .aswap 6 5 9), (0x2CCB200A, .acas 6 5 9), (0x30000004, .fenceAcq 4),
   (0x3000000C, .fenceRel 4), (0x30000014, .fenceFull 4), (0x32000000, .pfenceTile),
   (0x32000001, .pfenceKeep), (0x341A347C, .waitc 3 0x11 0x28 0x3e), (0x360B2002, .hint 2 5 9),
   (0x38CA0000, .sbind 6 5), (0x3AC00000, .sfree 6), (0x3CCE0000, .sstat 6 7),
   (0x416B2345, .bEq 5 9 0x16345), (0x436B2345, .bNe 5 9 0x16345), (0x456B2345, .bLt 5 9 0x16345),
   (0x476B2345, .bGe 5 9 0x16345), (0x496B2345, .bLtu 5 9 0x16345), (0x4B6B2345, .bGeu 5 9 0x16345),
   (0x4CDA2B3C, .jal 6 0x1a2b3c), (0x4ECA1A53, .jr 6 5 0x1a53), (0x50C00000, .cpy 6),
   (0x52C00000, .cpyg 6), (0x54C00000, .cpys 6), (0x560A0000, .publ 5),
   (0x580A0000, .sleep 5), (0x600A2B3C, .fork 0xa2b3c), (0x620A0000, .join 5),
   (0x64000000, .next), (0x66000000, .yield), (0x68000000, .exit),
   (0x6A0A0000, .launch 5), (0x6C0A0000, .migr 5), (0x6E000000, .prog),
   (0x70C000F0, .rdsr 6 0xf0), (0x720A0013, .wrsr 0x13 5), (0x74001A53, .trap 0x1a53),
   (0x76000000, .tret), (0x78001A53, .brk 0x1a53), (0x7A000000, .halt)]

/-- Arithmetic words (R114), one for each instruction. -/
def arithWords : List (BitVec 32 × Instr) :=
  [(0x00000000, .nopArithmetic), (0x05941A53, .addi 6 5 0x1a53), (0x09964000, .add 6 5 9),
   (0x0D964000, .sub 6 5 9), (0x11964000, .mul 6 5 9), (0x15964000, .mulh 6 5 9),
   (0x19964000, .mulhu 6 5 9), (0x1D964000, .div 6 5 9), (0x21964000, .divu 6 5 9),
   (0x25964000, .rem 6 5 9), (0x29964000, .remu 6 5 9), (0x2D964000, .and 6 5 9),
   (0x31964000, .or 6 5 9), (0x35964000, .xor 6 5 9), (0x39941A53, .andi 6 5 0x1a53),
   (0x3D941A53, .ori 6 5 0x1a53), (0x41941A53, .xori 6 5 0x1a53), (0x45964000, .shl 6 5 9),
   (0x49964000, .shr 6 5 9), (0x4D964000, .sra 6 5 9), (0x5194002D, .shli 6 5 0x2d),
   (0x5594002D, .shri 6 5 0x2d), (0x5994002D, .srai 6 5 0x2d), (0x5D964000, .slt 6 5 9),
   (0x61964000, .sltu 6 5 9), (0x65941A53, .slti 6 5 0x1a53), (0x69964000, .seq 6 5 9),
   (0x6D964000, .min 6 5 9), (0x71964000, .max 6 5 9), (0x75964000, .minu 6 5 9),
   (0x79964000, .maxu 6 5 9), (0x7D940000, .clz 6 5), (0x81940000, .ctz 6 5),
   (0x85940000, .popc 6 5), (0x89942AAB, .bext 6 5 0x55 0x2b), (0x8D942AAB, .bextu 6 5 0x55 0x2b),
   (0x91942AAB, .bins 6 5 0x55 0x2b), (0x95940000, .bswap 6 5), (0xA1964001, .fadd .d 6 5 9),
   (0xA5964001, .fsub .d 6 5 9), (0xA9964001, .fmul .d 6 5 9), (0xAD964001, .fdiv .d 6 5 9),
   (0xB1940001, .fsqrt .d 6 5), (0xB5964001, .fmin .d 6 5 9), (0xB9964001, .fmax .d 6 5 9),
   (0xBD964007, .fcmp .d .un 6 5 9), (0xC1940001, .fcvt 1 0 6 5), (0xC5940001, .fclass .d 6 5),
   (0xC9964005, .fsgn 2 .d 6 5 9)]

/-- Long bundles (R116, R117), one for each instruction; word0 is the low half. -/
def longWords : List (BitVec 64 × Instr) :=
  [(0xDEADBEEF80B5A5A5, .li 6 0x5A5A5DEADBEEF), (0xCAFEF00D81300000, .lih 6 0xCAFEF00D), (0x005009E081803000, .sel 6 5 9 14),
   (0x005009E082003001, .ffma .d 6 5 9 14), (0x0000000088580003, .tcfg 11 3), (0x0000000088D80000, .tzero 11),
   (0x0050000089288DA5, .vld ⟨5, false, false, 17⟩ 5 0x5A5), (0x005A7F00898005A5, .vst 5 0x5A5 ⟨10, false, true, 63⟩), (0x005000008A53F800, .vbc ⟨10, false, true, 63⟩ 5),
   (0xA7F38C008AA88800, .vadd ⟨5, false, false, 17⟩ ⟨10, false, true, 63⟩ ⟨3, true, false, 12⟩), (0xA7F38C008B288800, .vsub ⟨5, false, false, 17⟩ ⟨10, false, true, 63⟩ ⟨3, true, false, 12⟩), (0xA7F38C008BA88800, .vmul ⟨5, false, false, 17⟩ ⟨10, false, true, 63⟩ ⟨3, true, false, 12⟩),
   (0xA7F38C008C288800, .vfma ⟨5, false, false, 17⟩ ⟨10, false, true, 63⟩ ⟨3, true, false, 12⟩), (0xA7F38C008CA88800, .vmin ⟨5, false, false, 17⟩ ⟨10, false, true, 63⟩ ⟨3, true, false, 12⟩), (0xA7F38C008D288800, .vmax ⟨5, false, false, 17⟩ ⟨10, false, true, 63⟩ ⟨3, true, false, 12⟩),
   (0x511000008D9C6000, .vabs ⟨3, true, false, 12⟩ ⟨5, false, false, 17⟩), (0x511000008E1C6000, .vneg ⟨3, true, false, 12⟩ ⟨5, false, false, 17⟩), (0x511000008E9C6000, .vcvt ⟨3, true, false, 12⟩ ⟨5, false, false, 17⟩),
   (0xA7F38C008F288805, .vcmp 5 ⟨5, false, false, 17⟩ ⟨10, false, true, 63⟩ ⟨3, true, false, 12⟩), (0xA7F38C008FA88800, .vsel ⟨5, false, false, 17⟩ ⟨10, false, true, 63⟩ ⟨3, true, false, 12⟩), (0xA7F38C0090288800, .vperm ⟨5, false, false, 17⟩ ⟨10, false, true, 63⟩ ⟨3, true, false, 12⟩),
   (0xA7F0000090800002, .vred 2 ⟨10, false, true, 63⟩), (0x38C0090091288800, .vscale ⟨5, false, false, 17⟩ ⟨3, true, false, 12⟩ 9), (0x000ABC009180000D, .vloop 13 0xABC),
   (0x0000000092003000, .vpop 6), (0xA7F38CE092A888BF, .topk true 14 ⟨5, false, false, 17⟩ ⟨3, true, false, 12⟩ ⟨10, false, true, 63⟩ 63), (0xA7F38CE093288811, .topkm false 14 ⟨5, false, false, 17⟩ ⟨3, true, false, 12⟩ ⟨10, false, true, 63⟩ 17),
   (0xA7F38C0093A88801, .vsort true ⟨5, false, false, 17⟩ ⟨3, true, false, 12⟩ ⟨10, false, true, 63⟩), (0x00500900980005A5, .mdepAdd 5 0x5A5 9), (0x00500900988005A5, .mdepMax 5 0x5A5 9),
   (0x0050090099003004, .msense 6 5 9 4), (0x00500000998035A5, .mrd 6 5 0x5A5), (0x005000009A0005A5, .mclr 5 0x5A5),
   (0x000000009A803007, .mtick 6 7), (0x00500000A00035A5, .fldF 6 5 0x5A5), (0x00500700A08005A5, .fstF 5 0x5A5 7),
   (0x00500000A1003055, .fset 6 5 0x55), (0x00500900A1803000, .fdom 6 5 9), (0x00300500A2003000, .faddF 6 3 5),
   (0x00300500A2803000, .fsubF 6 3 5), (0x00300500A3003000, .fmulF 6 3 5), (0x00300900A3803000, .fscl 6 3 9),
   (0x00300500A4003000, .fcomp 6 3 5), (0x00300000A4803000, .fint 6 3), (0x00300000A5003000, .fder 6 3),
   (0x00300900A5807000, .feval 14 3 9), (0x003A7F00A6288800, .fevalV ⟨5, false, false, 17⟩ 3 ⟨10, false, true, 63⟩), (0x000A7F00A6803080, .fsamp 6 ⟨10, false, true, 63⟩ 128),
   (0x003009B0A7007000, .froot 14 3 9 11), (0x00300000A7807000, .flen 14 3), (0x00300000A8003001, .ftrunc 6 3 1)]

theorem test_decode_control_words :
    ctrlWords.all (fun p => decodeBundle (p.1.setWidth 64) == .pair p.2 .nopArithmetic) = true := by decide +kernel

theorem test_decode_arithmetic_words :
    arithWords.all (fun p => decodeBundle (p.1.setWidth 64 <<< 32) == .pair .nop p.2) = true := by decide +kernel

theorem test_decode_long_bundles : longWords.all (fun p => decodeBundle p.1 == .long p.2) = true := by decide +kernel

theorem test_encode_words :
    (longWords.all (fun p => encodeLong p.2 == some p.1) && ctrlWords.all (fun p => encodeCtrl p.2 == some p.1) &&
      arithWords.all (fun p => encodeArith p.2 == some p.1)) = true := by decide +kernel

/-- R107: no two of the words stand for one instruction, and every one of the 221 is there. -/
theorem test_words_are_all_different :
    ((ctrlWords ++ arithWords).map (·.2) ++ longWords.map (·.2)).Nodup ∧
      ctrlWords.length + arithWords.length + longWords.length = 169 := by decide +kernel

/-! ### Terms that are no instruction, and bundles that are illegal -/

/-- A row named by register 16, which there is not. -/
def noRow : RowOp := ⟨0, true, false, 16⟩

/-- A row. -/
def row0 : RowOp := ⟨0, false, false, 0⟩

/-- One term for each check of well-formedness on a bundle's instruction. -/
def illFormedBundles : List Instr :=
  [.fenceAcq 6, .fenceRel 7, .fenceFull 6, .sbind 3 1, .sbind 8 1, .sfree 8, .sstat 1 0, .rdsr 1 0x007, .rdsr 1 0x014, .wrsr 0x042 1,
   .fcvt 0 0 1 2, .fcvt 3 4 1 2, .fcvt 7 0 1 2, .fcvt 0 15 1 2, .fsgn 3 .d 1 2 3, .vld noRow 1 0, .vbc noRow 1, .vst 1 0 noRow]

def illFormedRows : List Instr :=
  [.vadd noRow row0 row0, .vsub row0 noRow row0, .vmul row0 row0 noRow, .vfma noRow row0 row0, .vmin row0 noRow row0,
   .vmax row0 row0 noRow, .vabs noRow row0, .vneg row0 noRow, .vcvt noRow noRow, .vcmp 6 row0 row0 row0, .vcmp 0 row0 noRow row0,
   .vsel noRow row0 row0, .vperm row0 row0 noRow, .vred 3 row0, .vred 0 noRow, .vscale row0 noRow 1, .vloop 0 0,
   .topk true 1 noRow row0 row0 0, .topkm true 1 row0 noRow row0 0, .vsort true row0 row0 noRow, .msense 1 2 3 5, .fevalV noRow 0 row0,
   .fsamp 0 noRow 1, .fsamp 0 row0 0, .fsamp 0 row0 129, .ftrunc 0 0 0, .ftrunc 0 0 129]

theorem test_ill_formed_terms_are_refused :
    (illFormedBundles ++ illFormedRows).all (fun i => !i.wf) = true := by decide +kernel

theorem test_ill_formed_steps_are_refused :
    (([.streamFetch ⟨1, 0, 0⟩ 3, .mma 8192, .mmaS 8192, .mmaSp 8192, .mrot 8192, .mrotSend 8192, .mfill 8192, .mdrain 8192, .mzero 8192,
      .mrotExchange 1 0 4, .reinAdmission 1024, .reinStepDown 1024, .reinTableChange 1024, .exchange 1 1, .exchange 0 8192,
      .forwardingWithdraw 8192, .wearLevelling 8192, .illegalRecord 8192, .stepDownComplete 8192, .bankpartChangeEnd 1024,
      .sweeperNormalise 1 8 0, .qtailDoorbell 2048 0, .queueEnable 2048 0, .queueDisable 2048 0, .qlatWrite 2048 0,
      .invalidationCommand 2048 0, .invalidationComplete 2048, .launchEntry 2048, .graphEntry 2048, .waitValueEntry 2048] : List Instr).all fun i => !i.wf) = true := by decide +kernel

theorem test_ill_formed_steps_of_the_host_are_refused :
    (([.waitValuePoll 2048, .signalEntry 2048, .copyEntry 2048, .illegalKindEntry 2048, .entryComplete 2048 1, .cpbRelease 4,
      .debugHalt 1024, .debugResume 1024, .ddataRead 1024, .ddataWrite 1024 0, .reachGo 8, .reachStop 8, .reachProgramStop 8,
      .rd64 8 0 0, .rd256 0 2 0, .wr64 0 0x40000000 0 0, .wr256 0 0 256 0, .metard 8 0 0, .feopRead 0 0 0 8, .feopSet 0 0 256 0 true,
      .nolendIllegalCommand 0 0 6, .powerGate 8192 .nap, .wake 8192, .continuousShadowCopy 8192, .corePowerLoss 8192,
      .temperatureSample 512 0, .verticalBusFailure 0 4, .verticalBusFailure 1024 0, .illegalBundle 0 0, .illegalBundle 8 0] : List Instr).all fun i => !i.wf) = true := by decide +kernel

theorem test_listed_words_are_well_formed :
    ctrlWords.all (·.2.wf) = true ∧ arithWords.all (·.2.wf) = true ∧ longWords.all (·.2.wf) = true := by decide +kernel

/-- Bundles with the subcode that R331 names, in the order of its table; the last one is illegal for two reasons. -/
def illegalBundles : List (BitVec 64 × Nat) :=
  List.zip [0x000000001E000000, 0x000000007E000000, 0xCC00000000000000, 0x0000000080000000, 0x00000000A8800000,
    0x0000000028400000, 0x0000000030000007, 0xC800000600000000, 0x0000000002002000, 0x0000000000000001,
    0x9800000000000000, 0x0000000038000000, 0x0000000070000007, 0x0000000070002007]
    [1, 1, 2, 3, 3, 4, 4, 4, 5, 5, 2, 6, 7, 5]

theorem test_illegal_bundles_name_their_reason :
    illegalBundles.map (fun p => decodeBundle p.1) = illegalBundles.map fun p => .illegal p.2 := by decide +kernel

/-! ### Fetching: a step runs the bundle at the PC -/

/-- The bundle of `addi s3, s0, 7` in the control slot and `add s4, s0, s0` beside it, run as the first after reset. -/
def firstStep : State := stepped (State.reset.withFetchWord 64 0x0900000002600007)

theorem test_step_runs_a_pair :
    firstStep.cur.reg 3 = 7 ∧ firstStep.cur.reg 4 = 0 ∧ firstStep.cur.pc = 0xF000000000008 ∧ (firstStep.core 0).ptr = 1 := by
  decide +kernel

/-- R9: both slots read the registers as they were. -/
theorem test_both_slots_read_before_either_writes :
    (stepped (withRegs [(3, 5)] (State.reset.withFetchWord 64 0x090CC00002660001))).cur.regs =
      (withRegs [(3, 6), (4, 10)] State.reset.withBench).cur.regs := by decide +kernel

/-- An illegal bundle faults with its subcode (R107, R331). -/
theorem test_step_of_an_illegal_bundle :
    ((stepped (State.reset.withFetchWord 64 0x0000000080000000)).gridD 1).faults.map (fun f => (f.cause, f.detail, f.fval)) =
      [(0x10, 3, 0x80000000)] := by decide +kernel

/-- The words of the table's rows decode to their instructions through the host's numbering. -/
theorem test_table_words :
    decodeTableWord 32 0x02660001 = some (.addiCm 3 3 1) ∧ decodeTableWord 64 0x11040089800100 = some (.vst 1 0x100 ⟨1, false, false, 4⟩) := by
  decide +kernel

/-! ### Scalar instructions: one step each, with results from the spec's tables and examples -/

theorem test_integer_results :
    let s := withRegs [(1, 0x8000000000000000), (2, 0xFFFFFFFFFFFFFFFF), (3, 7)] bench
    (run (.add 4 1 1) s).reg 4 = 0 ∧ (run (.sub 4 0 3) s).reg 4 = 0xFFFFFFFFFFFFFFF9 ∧ (run (.mulh 4 1 2) s).reg 4 = 0 ∧
    (run (.mulhu 4 1 3) s).reg 4 = 3 ∧ (run (.addi 4 3 0x3FFF) s).reg 4 = 6 ∧ (run (.xori 4 0 0x2000) s).reg 4 = 0xFFFFFFFFFFFFE000 ∧
    (run (.sra 4 1 2) s).reg 4 = 0xFFFFFFFFFFFFFFFF ∧ (run (.slt 4 1 3) s).reg 4 = 1 ∧ (run (.sltu 4 1 3) s).reg 4 = 0 := by decide +kernel

/-- R129: division by zero, the one overflow, truncation toward zero. -/
theorem test_division :
    let s := withRegs [(1, 0x8000000000000000), (2, 0xFFFFFFFFFFFFFFFF), (3, 7), (5, 0xFFFFFFFFFFFFFFEB)] bench
    (run (.div 4 3 0) s).reg 4 = 0xFFFFFFFFFFFFFFFF ∧ (run (.rem 4 3 0) s).reg 4 = 7 ∧ (run (.div 4 1 2) s).reg 4 = 0x8000000000000000 ∧
    (run (.rem 4 1 2) s).reg 4 = 0 ∧ (run (.rem 4 5 3) s).reg 4 = 0 ∧ (run (.div 4 5 3) s).reg 4 = 0xFFFFFFFFFFFFFFFD ∧
    (run (.divu 4 3 0) s).reg 4 = 0xFFFFFFFFFFFFFFFF := by decide +kernel

/-- R108: a write to `s0` is discarded. -/
theorem test_s0_stays_zero : (run (.addi 0 0 5) bench).reg 0 = 0 ∧ (run (.jal 0 2) bench).cur.pc = 0xF000000000010 := by decide +kernel

/-- R130: a field is clipped at bit 63. -/
theorem test_bit_fields :
    let s := withRegs [(5, 0xF123456789ABCDEF), (3, 0xFFFFFFFFFFFFFFFF)] bench
    (run (.bextu 3 5 60 8) s).reg 3 = 0xF ∧ (run (.bext 3 5 60 8) s).reg 3 = 0xFFFFFFFFFFFFFFFF ∧ (run (.bextu 3 5 64 8) s).reg 3 = 0 ∧
    (run (.bins 3 0 4 8) s).reg 3 = 0xFFFFFFFFFFFFF00F := by decide +kernel

/-- R135, R94: 1 + 2^−24 is inexact in binary32 and ties to even; a quotient by zero raises DZ. -/
theorem test_float_flags :
    let s := withRegs [(1, 0x3F800000), (2, 0x33800000)] bench
    (run (.fadd .s 3 1 2) s).reg 3 = 0x3F800000 ∧ (run (.fadd .s 3 1 2) s).cur.tstat = 0x340001 ∧
    (run (.fdiv .s 3 1 0) s).reg 3 = 0x7F800000 ∧ (run (.fdiv .s 3 1 0) s).cur.tstat = 0x340008 ∧
    (run (.fclass .s 3 1) s).reg 3 = 0x40 ∧ (run (.fsgn 1 .s 3 1 2) s).reg 3 = 0xBF800000 := by decide +kernel

/-- R141: 2^31 does not fit INT32: the greatest value, and NV. -/
theorem test_conversion_saturates :
    let s := withRegs [(1, 0x41E0000000000000)] bench
    (run (.fcvt 5 0 3 1) s).reg 3 = 0x7FFFFFFF ∧ (run (.fcvt 5 0 3 1) s).cur.tstat = 0x340010 ∧
    (run (.fcvt 6 0 3 1) s).cur.tstat = 0x340000 := by decide +kernel

/-! ### States that meet the hypotheses: scalar instructions -/

/-- `jr` to an aligned target, and to one that is 1 beyond. -/
theorem meets_branches_and_jumps :
    let s := withRegs [(2, 16)] bench
    (BitVec.ofInt 64 ((s.reg 2).toInt + (0x1FF8 : BitVec 13).toInt)).toNat % 8 = 0 ∧
    (BitVec.ofInt 64 ((s.reg 2).toInt + (0x1FF9 : BitVec 13).toInt)).toNat % 8 ≠ 0 := by decide +kernel

theorem meets_minimum_compare_classify_and_sign : (2 : BitVec 2).toNat < 3 := by decide

/-- Each group of type codes of `fcvt` at its ends. -/
theorem meets_conversion :
    ((2 : BitVec 4).toNat ≤ 2 ∧ 3 ≤ (3 : BitVec 4).toNat ∧ (6 : BitVec 4).toNat ≤ 6) ∧ ((2 : BitVec 4).toNat ≤ 2 ∧ (0 : BitVec 4) ≠ 2) := by decide

/-- A value below the range of INT32, one above it, one at its end; NaN and infinity. -/
theorem meets_conversion_of_values :
    let r := fun n => match Fmt.fp64.decode n with | .fin neg m e => some (roundInt .ne neg m e).1 | _ => none
    r 0xC1E0000000200000 = some (-2147483649) ∧ r 0x41E0000000000000 = some 2147483648 ∧ r 0x41DFFFFFFFC00000 = some 2147483647 ∧
    Fmt.fp64.decode 0x7FF8000000000000 = .nan ∧ Fmt.fp64.decode 0xFFF0000000000000 = .inf true := by decide +kernel

/-- Values at the ends of R94's cases, in BF16: beyond the range; a pattern's own value; half way between two subnormal ones; just below the
smallest normal one; and a positive operand of `fsqrt`. -/
theorem meets_rounding :
    (Fmt.bf16 ∈ [Fmt.fp64, Fmt.fp32, Fmt.bf16]) ∧ gridValue .bf16 0x7F80 ≤ 2 ^ 128 ∧
    (gridValue .bf16 0x3F80 = 1 ∧ (1 : ℚ) < gridValue .bf16 0x3F81) ∧
    (gridValue .bf16 1 = (2 : ℚ) ^ (-133 : Int) ∧ (3 : ℚ) * (2 : ℚ) ^ (-134 : Int) = (gridValue .bf16 1 + gridValue .bf16 2) / 2) ∧
    (gridValue .bf16 0x7F ≤ smallest .bf16 - stepBelow .bf16 ∧ smallest .bf16 - stepBelow .bf16 < gridValue .bf16 0x80) ∧
    Fmt.fp32.decode 0x40000000 = .fin false 0x800000 (-22) := by decide +kernel

/-- R94, R95: 1 + 2^-24 in binary32 by each mode; half way between two subnormal values of BF16; a value that overflows, toward zero. -/
theorem test_rounding_by_mode :
    [RMode.ne, .z, .down, .up].map (fun m => Fmt.fp32.round m (.fin false 0x1000001 (-24))) =
      [(0x3F800000, 1), (0x3F800000, 1), (0x3F800000, 1), (0x3F800001, 1)] ∧
    Fmt.bf16.round .ne (.fin true 3 (-134)) = (0x8002, 3) ∧ Fmt.bf16.round .z (.fin false 1 128) = (0x7F7F, 5) ∧
    Fmt.fp32.sqrtOp .up (.fin false 2 0) = (0x3FB504F4, 1) := by decide +kernel

/-- The greatest value of E4M3, and the least subnormal of binary64. -/
theorem meets_values_of_a_format :
    (Fmt.e4m3 ∈ [Fmt.fp64, Fmt.fp32, Fmt.bf16, Fmt.e4m3] ∧ 0xFE < 2 ^ (Fmt.e4m3.eb + Fmt.e4m3.fb + 1) ∧ Fmt.e4m3.decode 0xFE ≠ .nan) ∧
    Fmt.fp64 ∈ [Fmt.fp64, Fmt.fp32, Fmt.bf16, Fmt.e4m3] ∧ 1 < 2 ^ (Fmt.fp64.eb + Fmt.fp64.fb + 1) ∧ Fmt.fp64.decode 1 ≠ .nan := by decide +kernel

/-! ### Accesses to memory -/

/-- A unit of the bench's TCM is mapped and may be written, and the bench is as before. -/
theorem tcm_is_mapped : Mapped bench bench (tcm + 8) [0] true [at_ 8] ∧ Mapped bench bench (tcm + 8) [0] false [at_ 8] ∧ StaysHere bench [at_ 8] :=
  ⟨⟨[(at_ 8, true, true)], by decide +kernel, by decide, by decide, by decide⟩,
   ⟨[(at_ 8, true, true)], by decide +kernel, by decide, by decide, by decide⟩, by unfold StaysHere; decide +kernel⟩

/-- Views that fit an access, with an address aligned to it, and the same with a view. -/
theorem meets_loads_and_stores :
    (FitsView (viewOf (tcm + 8)) 8 ∧ locOf (tcm + 8) % 8 = 0 ∧ FitsView (viewOf (tcm + 8)) 1) ∧
    (FitsView (viewOf (0x5F000000000008)) 8 ∧ FitsView (viewOf 0x1F000000000008) 1 ∧ FitsView (viewOf 0x2F000000000002) 2 ∧
      FitsView (viewOf 0x3F000000000004) 4) := by unfold FitsView; decide +kernel

/-- A view that does not fit, and an address one byte short of alignment. -/
theorem meets_access_faults :
    ¬ FitsView (viewOf 0x2F000000000008) 1 ∧ ¬ FitsView (viewOf 0x6F000000000008) 8 ∧ FitsView (viewOf (tcm + 7)) 8 ∧
      locOf (tcm + 7) % 8 ≠ 0 ∧ locOf (tcm + 1) % 2 ≠ 0 := by unfold FitsView; decide +kernel

/-- The eight units of `ld.q` and `st.q`. -/
theorem meets_block_accesses :
    viewOf (tcm + 64) < 6 ∧ locOf (tcm + 64) % 64 = 0 ∧ StaysHere bench (eight.map fun o => at_ (64 + o)) ∧
    Mapped bench bench (tcm + 64) eight true (eight.map fun o => at_ (64 + o)) ∧
    Mapped bench bench (tcm + 64) eight false (eight.map fun o => at_ (64 + o)) ∧
    ∀ off, (bench.check (tcm + 64) true 6 6 true [0]).1 ≠ .queueWindow off := by
  refine ⟨by decide, by decide, by unfold StaysHere; decide +kernel, ⟨eight.map fun o => (at_ (64 + o), true, true), ?_, ?_, ?_, ?_⟩,
    ⟨eight.map fun o => (at_ (64 + o), true, true), ?_, ?_, ?_, ?_⟩, ?_⟩
  any_goals decide +kernel
  have h : (bench.check (tcm + 64) true 6 6 true [0]).1 = .ok [at_ 64] := by decide +kernel
  intro off; rw [h]; exact nofun

/-- Full/empty operations and atomics: a word under view 5, a word of 4 bytes under view 3, room for one more closed phase. -/
theorem meets_full_empty_and_atomics :
    let s : State := { bench with cur := { bench.cur with closed := [ph 0, ph 1] } }
    viewOf 0x5F000000000008 = 5 ∧ locOf 0x5F000000000008 % 8 = 0 ∧ s.aborted = false ∧ s.cur.closed.length < 3 ∧
    viewOf 0x3F000000000004 = 3 ∧ locOf 0x3F000000000004 % 4 = 0 ∧
    Mapped s s 0x5F000000000008 [0] true [at_ 8] ∧ Mapped s s 0x3F000000000004 [0] true [at_ 4] ∧ StaysHere s [at_ 8] ∧ StaysHere s [at_ 4] := by
  unfold StaysHere
  and_intros
  all_goals first | decide +kernel | exact ⟨[(at_ 8, true, true)], by decide +kernel⟩ | exact ⟨[(at_ 4, true, true)], by decide +kernel⟩

/-! ### Element conversions -/

/-- Boundaries of the formats: the least of FP32 below BF16's and E4M3's own; the largest; past 448; ∞ and a NaN; integers past a range. -/
theorem meets_conversions :
    ((Elem.fp32 ≠ .int32 ∧ Elem.fp32 ≠ .int8 ∧ Elem.fp32 ≠ .e4m3) ∧ 0x80000001 < 2 * signPart .fp32 ∧ barePart .fp32 0x80000001 < topOf .fp32) ∧
    (barePart .fp32 0xFF800000 = topOf .fp32 ∧ topOf .fp32 < barePart .fp32 0x7F800001 ∧ barePart .e4m3 0xFE = topOf .e4m3 ∧ topOf .e4m3 < barePart .e4m3 0xFF) ∧
    (integerOf .int32 0x80000000 < lowest .int8 ∧ highest .int8 < integerOf .int32 128) := by decide

/-- R58, R91: a tie between two E4M3 values goes to the even one; 449 saturates, and a NaN is the canonical one; 2.75 and -2.75 go toward zero,
and 128 saturates; the least FP32 value becomes 0 of its sign. -/
theorem test_conversions :
    Elem.convert 0x3F880000 .fp32 .e4m3 = 0x38 ∧ Elem.convert 0x3F980000 .fp32 .e4m3 = 0x3A ∧ Elem.convert 0xC3E08000 .fp32 .e4m3 = 0xFE ∧
    Elem.convert 0xFF800001 .fp32 .bf16 = 0x7FC0 ∧ Elem.convert 0x40300000 .fp32 .int8 = 2 ∧ Elem.convert 0xC0300000 .fp32 .int8 = 0xFE ∧
    Elem.convert 0x43000000 .fp32 .int8 = 0x7F ∧ Elem.convert 0x7FC00000 .fp32 .int32 = 0 ∧ Elem.convert 0x80000001 .fp32 .bf16 = 0x8000 ∧
    Elem.convert 0x80000001 .int32 .fp32 = 0xCF000000 ∧ viewEncode 4 300 = 127 := by decide +kernel

/-! ### Fences, waits, streams, copies -/

/-- A load of the bench's thread that is not performed. -/
def pendingLoad : Req :=
  { id := 3, tid := ⟨1, 0, 0⟩, core := 0, op := .read, pieces := [piece (at_ 0) 8 0], dest := .raw 5, isLoad := true, isStore := false,
    counter := .l, phase := 0, epoch := 0, ea := tcm, fpc := tcm, queue := 0, dataFrom := none, tile := none, parked := false, held := false, misrouted := false, orphan := false }

/-- The bench with that load in the fabric. -/
def loading : State := { bench with fabric := [pendingLoad], fresh := 4 }

theorem bench_performed : LoadsPerformed bench := by
  refine ⟨fun r h => absurd h (by simp [bench, State.withBench, State.reset]), fun x hx _ v hv => ?_⟩
  have h : x = bench.cur := by simpa [bench, State.withBench, State.reset] using hx
  subst h; exact absurd hv (by simp [bench, State.withBench, Grid.newThread, Thread.vacant])

theorem loading_not_performed : ¬ LoadsPerformed loading := fun h =>
  absurd (h.1 pendingLoad (by decide) (by decide) (by decide) (by decide) (piece (at_ 0) 8 0) (by decide)) (by decide)

/-- Three closed phases, and two. -/
theorem meets_fences :
    (5 : BitVec 3) ≠ 0 ∧ 3 ≤ ({ bench.cur with closed := [ph 0, ph 1, ph 2] } : Thread).closed.length ∧
    ({ bench.cur with closed := [ph 0, ph 1] } : Thread).closed.length < 3 ∧ LoadsPerformed bench ∧ ¬ LoadsPerformed loading :=
  ⟨by decide, by decide, by decide, bench_performed, loading_not_performed⟩

theorem test_fence_waits : (run (.fenceAcq 5) loading).cur.wait = .performed 4 true ∧ (run (.fenceAcq 5) bench).cur.pc = tcm + 8 := by
  decide +kernel

/-- A grid in replay mode. -/
def replaying : State :=
  { bench with grids := bench.grids.map fun g => { g with desc := { g.desc with flags := 0x370 } } }

/-- A counter that equals its immediate; a value to sleep until that equals the cycle, and the next; both modes; view 5 and view 6. -/
theorem meets_waits_hints_and_yields :
    (let c := { bench.cur with cntL := 2 }
     (c.cntL.toNat ≤ (2 : BitVec 6).toNat ∧ c.cntS.toNat ≤ (0 : BitVec 6).toNat) ∧ ¬ c.cntL.toNat ≤ (1 : BitVec 6).toNat) ∧
    (let s := withRegs [(1, 5000), (2, 5001)] bench
     (s.reg 1).toNat ≤ s.obs.toNat ∧ s.obs.toNat < (s.reg 2).toNat) ∧
    ¬ Replays bench ∧ Replays replaying ∧ viewOf (effAddr 0x5F000000000000 0) < 6 ∧ 6 ≤ viewOf (effAddr 0x6F000000000000 0) ∧
    ((3 : BitVec 2) ≠ 0 ∧ 0 < 1 ∧ 4096 ≤ 4096 ∧ 4096 < 4096 + 1) := by
  unfold Replays; decide +kernel

theorem test_waitc_parks :
    (run (.waitc 0 63 63 63) { bench with cur := { bench.cur with cntL := 1 } }).cur.wait = .waitc 0 63 63 63 ∧
    (run (.waitc 1 0 0 0) { bench with cur := { bench.cur with cntL := 1 } }).cur.pc = tcm + 8 := by decide +kernel

/-- R158: kind `none` removes the override within its range. -/
theorem test_hint_none_cuts_a_range :
    ((run (.hint 0 1 2) (withRegs [(1, 0x1100), (2, 0x100)] (run (.hint 1 1 2) (withRegs [(1, 0x1000), (2, 0x1000)] bench)))).grids.map
      fun g => g.hints.map fun h => (h.base, h.len, h.kind.toNat)) = [[(0x1000, 0x100, 1), (0x1200, 0xE00, 1)]] := by decide +kernel

/-- The bench with words in its TCM, and their address in `s1`. -/
def withWords (o : Nat) (l : List Word) (s : State) : State :=
  withRegs [(1, tcm + BitVec.ofNat 64 o)] ((l.zipIdx.foldl (fun t p => t.store (at_ (o + 8 * p.2)) 8 p.1.toNat) s))

/-- The bench with words that its bundle has read, and their address in `s1`. -/
def withGot (o : Nat) (l : List Word) (s : State) : State :=
  withRegs [(1, tcm + BitVec.ofNat 64 o)] { s with cur := { s.cur with got := [(tcm + BitVec.ofNat 64 o, l)] } }

/-- A descriptor at every limit, and one whose count is 0. -/
def streamWords (count : Word) : List Word := [0xFFFFFFFFFFFFF8, 0xFFFFFFFFFFFFFFF8, count, 15]

/-- A bound stream. -/
def boundStream : Stream :=
  { base := tcm, stride := 8, count := 4, size := 3, write := false, uns := true, idx := 1, last := 9, exh := false, fetched := [], pending := none }

/-- The bench with it bound to `s7`. -/
def streaming : State := { bench with cur := { bench.cur with streams := bench.cur.streams.set 3 (some boundStream) } }

theorem meets_streams :
    4 ≤ (7 : Reg).toNat ∧ (7 : Reg).toNat ≤ 7 ∧
    (let s := withRegs [(1, tcm + 64)] bench
     s.cur.words? (effAddr (s.reg 1) 0) 4 = none ∧ viewOf (effAddr (s.reg 1) 0) < 6 ∧ locOf (effAddr (s.reg 1) 0) % 2 ^ 3 = 0 ∧
       Mapped s s (effAddr (s.reg 1) 0) [0, 8, 16, 24] false [at_ 64, at_ 72, at_ 80, at_ 88] ∧ StaysHere s [at_ 64] ∧ s.cur.cntL ≠ 63) ∧
    (let s := withGot 64 (streamWords 0x100000000) bench
     AtHand s (effAddr (s.reg 1) 0) (streamWords 0x100000000) ∧ (0xFFFFFFFFFFFFF8 : Word).toNat < 2 ^ 56 ∧
       1 ≤ (0x100000000 : Word).toNat ∧ (0x100000000 : Word).toNat ≤ 2 ^ 32 ∧ (15 : Word).toNat < 16) ∧
    (let s := withGot 64 (streamWords 0) bench
     AtHand s (effAddr (s.reg 1) 0) (streamWords 0) ∧ ¬ 1 ≤ (0 : Word).toNat) ∧
    streaming.cur.streams[3] = some boundStream ∧ bench.cur.streams[3] = none := by
  refine ⟨by decide, by decide, ⟨by decide +kernel, by decide +kernel, by decide +kernel,
    ⟨[(at_ 64, true, true), (at_ 72, true, true), (at_ 80, true, true), (at_ 88, true, true)], ?_, ?_, ?_, ?_⟩,
    by unfold StaysHere; decide +kernel, by decide⟩, ?_⟩
  all_goals (try unfold AtHand); decide +kernel

theorem test_sbind_binds :
    (run (.sbind 7 1) (withGot 64 [tcm, 8, 4, 11] bench)).cur.streams[3] = some { boundStream with idx := 0, last := 0 } ∧
    (run (.sstat 2 7) streaming).reg 2 = 0x800000003 ∧ (run (.sfree 7) streaming).reg 7 = 9 := by decide +kernel

/-- A copy of another grid. -/
def otherCopy : Copy :=
  { id := 0, kind := 0, tid := ⟨2, 0, 0⟩, grid := 2, core := 8, cluster := 0, ops := [], next := 0, writes := [], promise := 0, missed := false
    paused := none, untilTret := false, counted := true, fpc := 0, upto := 0, entry := none }

/-- A copy at its limits, one that moves nothing, and an engine with one free slot. -/
def copying (rows : Word) : State :=
  { withRegs [(8, tcm), (9, tcm + 256), (10, 0x100000), (11, rows)] bench with copies := List.replicate 31 otherCopy }

theorem meets_copies :
    CopyAllowed 0 (copying 0x10000) ∧ (copying 0x10000).reg 10 ≠ 0 ∧ (copying 0x10000).reg 11 ≠ 0 ∧ ¬ Replays (copying 0x10000) ∧
    ((copying 0x10000).copies.filter fun c => c.cluster == clusterOf (copying 0x10000).cur.core).length < 32 ∧
    CopyAllowed 0 (copying 0) ∧ (copying 0).reg 11 = 0 ∧
    (let s := withRegs [(8, tcm), (9, tcm), (10, 4096), (11, 0x100000), (12, 0x5F000000000000)] bench
     CopyAllowed 1 s ∧ CopyAllowed 2 s ∧ s.reg 11 ≠ 0) := by
  unfold CopyAllowed Replays; decide +kernel

theorem test_copy_is_accepted : (run (.cpy 3) (copying 0x10000)).cur.cntC = 1 ∧ (run (.cpy 3) (copying 0x10000)).copies.length = 32 ∧
    (run (.cpy 3) (copying 0)).cur.cntC = 0 := by decide +kernel
/-! ### Popping and appending -/

/-- The bench with a read stream of four elements bound to `s7`, its next element at hand, on its way, or all of them popped. -/
def popping (idx : Nat) (fetched : List Ahead) (pending : Option Nat) : State :=
  { bench with cur := { bench.cur with
    streams := bench.cur.streams.set 3 (some { boundStream with idx := idx, fetched := fetched, pending := pending }) } }

/-- With a write stream of words of four bytes under view 3. -/
def appending (idx : Nat) : State :=
  withRegs [(3, 0x123456789)] { bench with cur := { bench.cur with
    streams := bench.cur.streams.set 3 (some { boundStream with base := tcm + 0x30000000000000, stride := 4, size := 2, write := true, idx := idx }) } }

/-- Does an instruction answer a next state? -/
def completes (i : Instr) (s : State) : Bool := match exec i s with | .next _ => true | _ => false

theorem exec_next (i : Instr) (s : State) (h : completes i s = true) : exec i s = .next (run i s) := by
  unfold completes at h; unfold run; split at h <;> simp_all

/-- What an arithmetic slot gives, from what it leaves. -/
theorem arithmetic_gives (a : Instr) (f : State) (d : Reg) (v x : Word) (hw : writesOf a = [d])
    (h : let g := { f with cur := { f.cur with tstat := f.cur.tstat &&& 0xFFFFFFFFFFFFFFE0 } }
      completes a g = true ∧ v = (run a g).reg d ∧ x = (run a g).cur.tstat &&& 0x1F) : ArithmeticGives a f (some (d, v, x)) :=
  .inr ⟨d, _, hw, exec_next _ _ h.1, by rw [h.2.1, h.2.2]⟩

/-- What one register's stream is; no other is bound. -/
theorem one_bound (s : State) (c : Instr) (r : Reg) (x : Stream) (h : s.cur.stream? r = some x ∧ (∀ q, q ≠ r → s.cur.stream? q = none) ∧
    c ≠ .next ∧ s.cur.awaiting = [] ∧ s.cur.half = none ∧ s.poison = [] ∧ s.soft = [] ∧ s.aborted = false) : OneBound s c r x := h

/-- Its next element at hand, none left, and one on its way: `addi s1, s7, 1` with `add s2, s7, s7` beside it. -/
theorem meets_pops :
    (let x := { boundStream with fetched := [⟨40, at_ 8, 0⟩] }
     let s := popping 1 [⟨40, at_ 8, 0⟩] none
     let f := withStream s 7 40 { x with idx := 2, last := 40, fetched := [] }
     OneBound s (.addiCm 1 7 1) 7 x ∧ x.write = false ∧ Names (.addiCm 1 7 1) (.add 2 7 7) 7 ∧ x.idx < x.count ∧ x.fetched ≠ [] ∧
     (let t := run (.addiCm 1 7 1) f
      exec (.addiCm 1 7 1) f = .next t ∧ t.aborted = false ∧ wrapped s.cur t.cur = false ∧ t.poison = [] ∧ t.soft = [] ∧
      (∀ q y, t.cur.stream? q = some y → y.write = false) ∧ ArithmeticGives (.add 2 7 7) f (some (2, 80, 0)))) ∧
    OneBound (popping 4 [] none) (.addiCm 1 7 1) 7 { boundStream with idx := 4 } ∧
    OneBound (popping 1 [] (some 3)) (.addiCm 1 7 1) 7 { boundStream with pending := some 3 } := by
  refine ⟨⟨one_bound _ _ _ _ (by decide +kernel), rfl, .inl ⟨nofun, by decide⟩, by decide, by decide, exec_next _ _ (by decide +kernel), by decide +kernel, by decide +kernel,
    by decide +kernel, by decide +kernel, fun q y h => ?_, ?_⟩, one_bound _ _ _ _ (by decide +kernel), one_bound _ _ _ _ (by decide +kernel)⟩
  · have all : ∀ q, ((run (.addiCm 1 7 1) (withStream (popping 1 [⟨40, at_ 8, 0⟩] none) 7 40
        { boundStream with idx := 2, last := 40, fetched := [] })).cur.stream? q).all (!·.write) = true := by decide +kernel
    have := all q
    rw [h] at this
    simpa using this
  · exact arithmetic_gives _ _ _ _ _ (by decide) (by decide +kernel)

/-- R125, R161: one pop for both slots; the pop behind the last element; the wait; a result that would go to a read stream is discarded. -/
theorem test_pops :
    (let t := match (popping 1 [⟨40, at_ 8, 0⟩] none).runBundle (.addiCm 1 7 1) (.add 2 7 7) with | .next t => t | _ => bench
     t.reg 1 = 41 ∧ t.reg 2 = 80 ∧ t.reg 7 = 40 ∧ t.cur.streams[3].map (fun x => (x.idx, x.fetched.length, x.exh)) = some (2, 0, false)) ∧
    (let t := match (popping 4 [] none).runBundle (.addiCm 1 7 1) (.add 7 7 3) with | .next t => t | _ => bench
     t.reg 1 = 1 ∧ t.reg 7 = 9 ∧ t.cur.streams[3].map (fun x => (x.idx, x.exh)) = some (4, true)) ∧
    (let t := match (popping 1 [] (some 3)).runBundle (.addiCm 1 7 1) (.add 2 7 7) with | .next t => t | _ => bench
     t.cur.wait = .fetching 3 ∧ t.reg 1 = 0 ∧ t.cur.pc = tcm) := by decide +kernel

/-- `add s7, s3, s0` beside a `nop`: an element left, and none. -/
theorem meets_appends :
    (let s := appending 1
     let x := { boundStream with base := tcm + 0x30000000000000, stride := 4, size := 2, write := true }
     let t := run .nop s
     OneBound s .nop 7 x ∧ x.write = true ∧ exec .nop s = .next t ∧ t.aborted = false ∧ wrapped s.cur t.cur = false ∧ t.poison = [] ∧ t.soft = [] ∧
     t.cur.stream? 7 = some x ∧ (∀ q, q ≠ 7 → t.cur.stream? q = none) ∧ ArithmeticGives (.add 7 3 0) s (some (7, 0x123456789, 0)) ∧
     7 ∈ writesOf (.add 7 3 0) ∧ x.idx < x.count ∧ FitsView (viewOf (effAddr x.base 4)) 4 ∧ locOf (effAddr x.base 4) % 4 = 0 ∧
     Mapped s s (effAddr x.base 4) [0] true [at_ 4] ∧ t.cur.cntS.toNat < 63) ∧
    OneBound (appending 4) .nop 7 { boundStream with base := tcm + 0x30000000000000, stride := 4, size := 2, write := true, idx := 4 } := by
  refine ⟨⟨one_bound _ _ _ _ (by decide +kernel), rfl, exec_next _ _ (by decide +kernel), by decide +kernel, by decide +kernel, rfl, rfl, by decide +kernel, by decide +kernel,
    arithmetic_gives _ _ _ _ _ (by decide) (by decide +kernel), by decide, by decide, by unfold FitsView; decide, by decide,
    ⟨[(at_ 4, true, true)], ?_, ?_, ?_, ?_⟩, by decide +kernel⟩, one_bound _ _ _ _ (by decide +kernel)⟩
  all_goals decide +kernel

/-- R161: the low four bytes are stored at the element's place; behind the last element the value is discarded. -/
theorem test_appends :
    (let t := match (appending 1).runBundle .nop (.add 7 3 0) with | .next t => t | _ => bench
     t.fabric.map (fun r => (r.op == .write, r.pieces.map fun p => (p.key, p.len, p.data))) = [(true, [(at_ 4, 4, 0x23456789)])] ∧
     t.reg 7 = 0x123456789 ∧ t.cur.cntS = 1 ∧ t.cur.streams[3].map (fun x => (x.idx, x.exh)) = some (2, false)) ∧
    (let t := match (appending 4).runBundle .nop (.add 7 3 0) with | .next t => t | _ => bench
     t.fabric = [] ∧ t.reg 7 = 9 ∧ t.cur.streams[3].map (fun x => (x.idx, x.exh)) = some (4, true)) := by decide +kernel

/-! ### Threads, launches, system registers -/

/-- A descriptor of one team of one thread as its words; the two are well-formed and not (the last tile count is 17). -/
def launchWords (shape mregp dwin : Word) : List Word := [tcm, 0, shape, 0, 0, mregp, dwin, 1, 2, 3, 4, 5, 6, 7, 0, 0]

/-- The bench after its launch's release, its bundle having read a descriptor, and a table of four windows, none valid, behind it. -/
def launching (shape mregp dwin : Word) : State :=
  withRegs [(1, tcm + 64)] { bench with cur := { bench.cur with
    got := [(0, []), (tcm + 64, launchWords shape mregp dwin), (tcm + 256, List.replicate 8 0)] } }

/-- The release that comes first, and the load of the descriptor. -/
theorem meets_launch_begun :
    viewOf (effAddr ((launching 0 0 0).reg 1) 0) < 6 ∧ locOf (effAddr ((launching 0 0 0).reg 1) 0) % 64 = 0 ∧
    (bench.cur.hasReleased = false ∧ bench.cur.closed.length < 3) ∧
    (let s := withRegs [(1, tcm + 64)] { bench with cur := { bench.cur with got := [(0, [])] } }
     s.cur.hasReleased = true ∧ s.cur.words? (effAddr (s.reg 1) 0) 16 = none ∧ (s.migrationFor (at_ 64)).isNone = true ∧
     (s.check (effAddr (s.reg 1) 0) true 15 6 false ((List.range 16).map (8 * ·))).1 =
       .ok ((List.range 16).map fun j => at_ (64 + 8 * j))) := by
  decide +kernel

/-- What refuses a launch, as a computation. -/
def regionsBad (l : List (Word × Word)) : Bool :=
  let on := l.filter fun p => p.2.getLsbD 47
  let size := fun p : Word × Word => (p.1.toNat / 2 ^ 44 % 2 ^ 18 + 1) * 256
  (on.any fun p => decide (p.2.toNat / 2 ^ 42 % 2 ^ 5 < 10 ∨ 30 < p.2.toNat / 2 ^ 42 % 2 ^ 5 ∨ 0xF000000000000 < p.1.toNat % 2 ^ 44 * 256 + size p)) ||
  decide (2 ^ 26 < (on.map size).sum)

def fieldsBad (d : Descriptor) : Bool :=
  let sh := d.shape.toNat
  let fl := d.flags.toNat
  decide (2 ^ 58 ≤ d.shape.toNat ∨ 2 ^ 13 ≤ d.flags.toNat) || (d.rsv.any fun w => decide (w ≠ 0)) || decide (d.entry.toNat % 8 ≠ 0 ∨
  d.done.toNat % 8 ≠ 0 ∨ d.tvec.toNat % 8 ≠ 0 ∨ 2 ^ 56 ≤ d.tvec.toNat ∨ 16 < sh / 2 ^ 16 % 2 ^ 5 ∨ 64 < sh / 2 ^ 21 % 2 ^ 7 ∨
  64 < sh / 2 ^ 28 % 2 ^ 7 ∨ 512 < sh / 2 ^ 35 % 2 ^ 10 ∨ 4096 < sh / 2 ^ 45 % 2 ^ 13 ∨ 4 < fl % 2 ^ 3 ∨ 4 < fl / 2 ^ 10 % 2 ^ 3)

def windowsBad (d : Descriptor) (l : List (Word × Word)) : Bool :=
  let ws := l.filterMap windowEntry
  let sh := d.shape.toNat
  (l.any fun p => decide (p.1.getLsbD 0 = true ∧ p.1.toNat / 2 ^ 2 % 2 ^ 10 ≠ 0)) ||
  (ws.any fun w => decide (w.2.2 = 0 ∨ w.2.2 % 4096 ≠ 0 ∨
    4096 * (if w.1 then sh / 2 ^ 35 % 2 ^ 10 else sh / 2 ^ 28 % 2 ^ 7) < w.2.1 + 2 * w.2.2)) ||
  !decide (ws.Pairwise fun x y => x.1 ≠ y.1 ∨ y.2.1 + 2 * y.2.2 ≤ x.2.1 ∨ x.2.1 + 2 * x.2.2 ≤ y.2.1)

def refused (p : Option Grid) (d : Descriptor) (r w : List (Word × Word)) : Nat → Bool
  | 1 => fieldsBad d || ((r.any fun p => decide (2 ^ 62 ≤ p.1.toNat ∨ 2 ^ 56 ≤ p.2.toNat)) || regionsBad r)
  | 2 => p.any fun p => decide ((d.flag 8 = true ∧ p.desc.flag 8 = false) ∨ (d.flag 9 = true ∧ p.desc.flag 9 = false))
  | 3 => let side := if d.flags.toNat / 2 ^ 10 % 2 ^ 3 = 0 then 0 else 2 ^ (d.flags.toNat / 2 ^ 10 % 2 ^ 3)
    decide (side ≠ 0 ∧ (d.shape.toNat % 2 ^ 13 + 1) % (side * side) ≠ 0)
  | 4 => decide (4096 * (d.shape.toNat / 2 ^ 28 % 2 ^ 7) <
      64 * (d.shape.toNat / 2 ^ 45 % 2 ^ 13) + (((w.filterMap windowEntry).filter fun w => !w.1).map fun w => 2 * w.2.2).sum)
  | 5 => p.any fun p => decide (15 ≤ p.depth)
  | 6 => windowsBad d w
  | _ => false

theorem regions_refused_iff (l : List (Word × Word)) : RegionsRefused l ↔ regionsBad l = true := by
  unfold RegionsRefused regionsBad
  simp only [Bool.or_eq_true, List.any_eq_true, decide_eq_true_eq]

theorem fields_refused_iff (d : Descriptor) : FieldRefused d ↔ fieldsBad d = true := by
  unfold FieldRefused ReservedSet fieldsBad
  simp only [Bool.or_eq_true, List.any_eq_true, decide_eq_true_eq, or_assoc]

theorem windows_refused_iff (d : Descriptor) (l : List (Word × Word)) : WindowsRefused d l ↔ windowsBad d l = true := by
  unfold WindowsRefused windowsBad
  simp only [Bool.or_eq_true, List.any_eq_true, decide_eq_true_eq, Bool.not_eq_true', decide_eq_false_iff_not, or_assoc]

theorem refused_iff (p : Option Grid) (d : Descriptor) (r w : List (Word × Word)) (k : Nat) :
    LaunchRefused p d r w k ↔ refused p d r w k = true := by
  match k with
  | 1 =>
    simp only [LaunchRefused, refused, RegionTableRefused, fields_refused_iff, regions_refused_iff, Bool.or_eq_true, List.any_eq_true,
      decide_eq_true_eq]
  | 2 | 5 => cases p <;> simp [LaunchRefused, refused]
  | 3 | 4 => simp only [LaunchRefused, refused, decide_eq_true_eq]
  | 6 => exact windows_refused_iff d w
  | 0 | _ + 7 => simp [LaunchRefused, refused]

/-- A launch that is refused for none of the six reasons is not refused. -/
theorem not_refused (p : Option Grid) (d : Descriptor) (r w : List (Word × Word)) (h : (List.range 7).all (fun k => !refused p d r w k) = true) :
    ∀ k, ¬ LaunchRefused p d r w k := by
  intro k hk
  rw [refused_iff] at hk
  rcases Nat.lt_or_ge k 7 with h7 | h7
  · have := List.all_eq_true.mp h k (List.mem_range.mpr h7)
    simp [hk] at this
  · obtain ⟨m, rfl⟩ := Nat.exists_eq_add_of_le' h7
    simp [refused] at hk

/-- The same, with a flags word, and a region table beside the one of the windows. -/
def launchFlags (shape flags : Word) : List Word := [tcm, 0, shape, flags, 0, 0, 0, 1, 2, 3, 4, 5, 6, 7, 0, 0]

/-- A parent without rights, and one fifteen levels deep. -/
def deepParent : Grid := { ownGrid bench with depth := 15 }
def poorParent : Grid := { ownGrid bench with desc := { (ownGrid bench).desc with flags := 0x60 } }

/-- A window table whose second window is empty, and one whose windows overlap by a block. -/
def emptyWindow : List (Word × Word) := [(1, 4096), (0x2001, 0)]
def twoWindows : List (Word × Word) := [(1, 4096), (0x1001, 4096)]

/-- Each reason of a refusal at the end of its range, and none that comes before it: seventeen tiles; a region that ends one block too
high; a right that the parent lacks; three teams in squares of four; a spill of one task without TCM; a sixteenth level; a window of no
bytes, and two that overlap. A descriptor at its limits, and one with a table, are not refused. -/
theorem meets_launch :
    let D := fun l => Descriptor.ofWords l
    let G := ownGrid bench
    let only := fun (p : Grid) l r w n => LaunchRefused (some p) (D l) r w n ∧ ∀ k < n, ¬ LaunchRefused (some p) (D l) r w k
    ((launchWords 0x100000 0 0).length = 16 ∧ (launching 0x100000 0 0).cur.hasReleased = true ∧
      (launching 0x100000 0 0).cur.words? (tcm + 64) 16 = some (launchWords 0x100000 0 0) ∧
      (D (launchWords 0x100000 0 0)).mregp = 0 ∧ (D (launchWords 0x100000 0 0)).dwin = 0) ∧
    only G (launchWords 0x110000 0 0) mregReset [] 1 ∧
    only G (launchWords 0x100000 0 0) ((0xF0000000000, 0x80A80000000000) :: mregReset.tail) [] 1 ∧
    only poorParent (launchFlags 0 0x100) mregReset [] 2 ∧
    only G (launchFlags 2 0x400) mregReset [] 3 ∧
    only G (launchWords 0x200000100000 0 0) mregReset [] 4 ∧
    only deepParent (launchWords 0 0 0) mregReset [] 5 ∧
    only G (launchWords 0x30000000 0 0) mregReset emptyWindow 6 ∧ only G (launchWords 0x40000000 0 0) mregReset twoWindows 6 ∧
    (let s := launching 0x100000 0 (tcm + 256)
     let d := D (launchWords 0x100000 0 (tcm + 256))
     d.dwin ≠ 0 ∧ s.tableStop d.dwin 8 = none ∧ s.cur.words? (effAddr d.dwin 0) 8 = some (List.replicate 8 0) ∧
     (∀ k, ¬ LaunchRefused (some (ownGrid s)) d mregReset (pairUp (List.replicate 8 0)) k) ∧ ¬ Replays s ∧
     s.host.breakpoints d.entry (ownGrid s).queue = [] ∧ s.grids.length < 32767) := by
  simp only [refused_iff]
  unfold Replays
  and_intros
  all_goals first
    | decide +kernel
    | exact Option.isNone_iff_eq_none.mp (by decide +kernel)
    | (refine fun k h => not_refused _ _ _ _ ?_ k ((refused_iff ..).mpr h); decide +kernel)

/-- R237: the release first; then a bad field refuses the launch, and a good descriptor queues a child. -/
theorem test_launch :
    (run (.launch 1) (withRegs [(1, tcm + 64)] bench)).cur.wait = .released 0 ∧
    ([0x110000, 0x200000100000].map fun n => (run (.launch 1) (launching n 0 0)).grids.map fun g => g.faults.map fun f => (f.cause, f.detail)) =
      [[[(0x24, 1)]], [[(0x24, 4)]]] ∧
    ((run (.launch 1) { launching 0 0 0 with grids := [deepParent] }).gridD 1).faults.map (fun f => (f.cause, f.detail)) = [(0x24, 5)] ∧
    (run (.launch 1) { launching 0x100000 0 (tcm + 256) with oracle := [0] }).grids.map (·.callix) = [0, 0x8001000000000000] := by
  decide +kernel

/-- The bench's grid with a steal domain, and its team with a deque of given tasks. -/
def tasking (steal : Word) (deque : List Task) : State :=
  { bench with
    grids := bench.grids.map fun g => { g with desc := { g.desc with flags := 0x360 + steal } }
    teams := bench.teams.map fun t => { t with deque := deque } }

/-- A task. -/
def task (n : Word) : Task := ⟨tcm + 8 * n, n, n, n, n, 0⟩

/-- A full deque of 8 (one thread, no spill), one with room for one more, both modes, both ends of the steal domain. -/
theorem meets_tasks :
    capacity (tasking 0 (List.replicate 8 (task 1))) ≤ present (tasking 0 (List.replicate 8 (task 1))) ∧
    ¬ capacity (tasking 0 (List.replicate 7 (task 1))) ≤ present (tasking 0 (List.replicate 7 (task 1))) ∧
    ¬ Replays (tasking 0 []) ∧ (ownGrid (tasking 0 [])).desc.steal = 0 ∧ Replays replaying ∧ ¬ capacity replaying ≤ present replaying ∧
    ¬ Replays (tasking 4 []) ∧ (ownGrid (tasking 4 [])).desc.steal ≠ 0 ∧ ¬ capacity (tasking 4 []) ≤ present (tasking 4 []) ∧
    (tasking 4 []).cur.closed.length < 3 := by
  unfold Replays; decide +kernel

/-- A second team, on core 1, with tasks of its own. -/
def twoTeams (deque : List Task) : State :=
  let s := tasking 1 []
  { s with
    teams := s.teams ++ (s.teams.map fun t => { t with lteam := 1, core := some 1, deque := deque })
    grids := s.grids.map fun g => { g with desc := { g.desc with shape := g.desc.shape + 1 } } }

/-- The second team is the only one to steal from. -/
theorem may_steal (l : List Task) (h : l = [] ∨ l = [task 1]) :
    MayStealFrom (twoTeams l) ((twoTeams l).teamD 1 1) ∧ ∀ v, MayStealFrom (twoTeams l) v → v.deque = l := by
  have hs : (ownGrid (twoTeams l)).desc.shape.toNat % 2 ^ 13 + 1 = 2 ∧ (twoTeams l).team? (twoTeams l).cur.id.grid 1 = some ((twoTeams l).teamD 1 1) ∧
      ((twoTeams l).teamD 1 1).lteam = 1 ∧ ((twoTeams l).teamD 1 1).core = some 1 ∧ (ownGrid (twoTeams l)).desc.flags.toNat % 8 = 1 ∧
      clusterOf 1 = clusterOf (twoTeams l).cur.core ∧ (twoTeams l).cur.id.team = 0 ∧ ((twoTeams l).teamD 1 1).deque = l := by
    rcases h with rfl | rfl <;> decide +kernel
  obtain ⟨h1, h2, h3, h4, h5, h6, h7, h8⟩ := hs
  refine ⟨⟨by omega, by omega, by rw [h3]; exact h2, 1, h4, by rw [h5]; exact h6⟩, fun v hv => ?_⟩
  obtain ⟨ha, hb, hc, -⟩ := hv
  rw [show v.lteam = 1 by omega, h2] at hc
  rw [← Option.some.inj hc, h8]

/-- Another team at the edge of each domain, and one core beyond it; on the whole package there is none beyond. -/
def stealing (domain : Word) (core : Nat) : State :=
  let s := twoTeams [task 1]
  { s with grids := s.grids.map (fun g => { g with desc := { g.desc with flags := 0x360 + domain } })
           teams := s.teams.map fun t => if t.lteam = 1 then { t with core := some core } else t }

theorem test_domains :
    let takes := fun (d : Word) (c : Nat) => (run .next { stealing d c with oracle := [0] }).cur.pc == tcm + 8
    takes 0 0 = true ∧ takes 0 1 = false ∧ takes 1 35 = true ∧ takes 1 4 = false ∧ takes 2 511 = true ∧ takes 2 512 = false ∧ takes 3 2047 = true ∧
    takes 3 2048 = false ∧ takes 4 8191 = true := by decide +kernel

theorem meets_next :
    (∀ r : Reg, bench.cur.stream? r = none) ∧ bench.poison = [] ∧ bench.soft = [] ∧ (ownTeam (tasking 0 [task 1, task 2])).deque = [task 1] ++ [task 2] ∧
    (tasking 0 [task 1, task 2]).team? 1 0 ≠ none ∧
    ((ownTeam (twoTeams [task 1])).deque = [] ∧ ∃ v, MayStealFrom (twoTeams [task 1]) v ∧ v.deque ≠ []) ∧
    (ownTeam (twoTeams [])).deque = [] ∧ ∀ v, MayStealFrom (twoTeams []) v → v.deque = [] :=
  ⟨by decide +kernel, rfl, rfl, by decide +kernel, by decide +kernel, ⟨by decide +kernel, _, (may_steal _ (.inr rfl)).1, by decide +kernel⟩,
    by decide +kernel, (may_steal _ (.inl rfl)).2⟩

/-- R34: a thread takes the newest task of its own team and the oldest of another. -/
theorem test_next_takes_both_ends :
    (run .next (tasking 0 [task 1, task 2])).cur.pc = tcm + 16 ∧ (run .next { twoTeams [task 1, task 2] with oracle := [0] }).cur.pc = tcm + 8 ∧
    (run .next { twoTeams [] with oracle := [0] }).cur.wait = .next 5000 := by decide +kernel

theorem meets_join_and_exit :
    bench.aborted = false ∧ (ownGrid bench).desc.steal = 0 ∧ viewOf (effAddr 0x5F000000000008 0) < 6 ∧
    locOf (effAddr 0x5F000000000008 0) % 8 = 0 ∧ Mapped bench bench (tcm + 8) [0] true [at_ 8] ∧ StaysHere bench [at_ 8] ∧
    ({ bench.cur with closed := [ph 0, ph 1] } : Thread).closed.length < 3 ∧ bench.cur.taskAt = none :=
  have ⟨h, _, k⟩ := tcm_is_mapped
  by and_intros; exacts [rfl, rfl, by decide, by decide, h, k, by decide, rfl]

/-- Two teams of a grid that allows migration, none with tiles. -/
def migrating : State :=
  let s := twoTeams []
  { s with
    teams := s.teams.map fun t => { t with tiles := [] }
    grids := s.grids.map fun g => { g with desc := { g.desc with flags := 0x321 } } }

/-- A team that the grid has not, by one; the own team; another one, with a free slot. -/
theorem meets_migr :
    (let n := (ownGrid migrating).desc.shape.toNat % 2 ^ 13 + 1
     n ≤ 2 ∧ ¬ n ≤ 1 ∧ migrating.cur.cntL = 0 ∧ migrating.cur.cntS = 0 ∧ (migrating.teamD 1 0).core = some migrating.cur.core) ∧
    ((migrating.teamD 1 1).core = some 1 ∧ 1 ≠ migrating.cur.core ∧ (ownGrid migrating).migrOn = true ∧ migrating.anchored migrating.cur = false ∧
      migrating.freeSlot migrating.cur 1 = some 0 ∧ migrating.cur.closed = []) ∧
    ((bench.teamD 1 0).core = some 0 ∧ (ownGrid bench).migrOn = false) := by decide +kernel

theorem test_migr : (run (.migr 1) (withRegs [(1, 1)] migrating)).cur.core = 1 ∧
    ((run (.migr 1) (withRegs [(1, 2)] migrating)).gridD 1).faults.map (fun f => (f.cause, f.detail)) = [(0x16, 0x0E)] := by decide +kernel

/-- The bench without rights. -/
def noRights : State := { bench with grids := bench.grids.map fun g => { g with desc := { g.desc with flags := 0x60 } } }

theorem meets_system_registers_read :
    (isSysReg 0x0F0 = true ∧ (ownGrid noRights).desc.flag 9 = false) ∧ (ownGrid bench).desc.flag 9 = true ∧ isSysReg 0x040 = true ∧
    (isSysReg 0x000 = true ∧ isSysReg 0x006 = true ∧ isSysReg 0x03F = true ∧ isSysReg 0x041 = true ∧ (0x041 : BitVec 12) ≠ 0x0F0) := by decide +kernel

/-- The ends of each range of register numbers; a region descriptor that may be written, and one that would be refused: NEXP 9. -/
theorem meets_system_registers_written :
    ((0x006 : BitVec 12).toNat ≤ 6 ∧ isSysReg 0x006 = true) ∧
    ((ownGrid noRights).desc.flag 8 = false ∧ (ownGrid bench).desc.flag 8 = true ∧ ¬ Replays bench) ∧
    (0x030 ≤ (0x03F : BitVec 12).toNat ∧ (0x03F : BitVec 12).toNat ≤ 0x03F) ∧
    (¬ RegionsRefused (halfWritten (regionsToCome (ownGrid bench)) 0xF 0x00FFA80000000000) ∧
      RegionsRefused (halfWritten (regionsToCome (ownGrid bench)) 0xF 0x0000A40000000000)) ∧
    (Replays replaying ∧ ¬ RegionsRefused (halfWritten (regionsToCome (ownGrid replaying)) 0 0)) := by
  simp only [regions_refused_iff]; unfold Replays; decide +kernel

/-- R205: an enabled region with NEXP 9 and 31; one whose last byte lies just below the windows, and one that reaches into them; 64 MiB
enabled, and a block more. -/
theorem test_regions_refused :
    let one := fun lo hi : Word => (lo, hi) :: List.replicate 7 ((0 : Word), (0 : Word))
    [one 0 0x0000A40000000000, one 0 0x0000FC0000000000, one 0 0x0000F80000000000, one 0xEFFFFFFFFFF 0x0000A80000000000, one 0x10EFFFFFFFFFF 0x0000A80000000000,
      one 0x3FFFF00000000000 0x0000A80000000000, (0, 0x0000A80000000000) :: one 0x3FFFF00000000000 0x0000A80000000000].map regionsBad =
      [true, true, false, false, true, false, true] ∧
    [one 0 0x0000A40000000000, one 0 0x0000FC0000000000, one 0 0x0000F80000000000, one 0xEFFFFFFFFFF 0x0000A80000000000, one 0x10EFFFFFFFFFF 0x0000A80000000000,
      one 0x3FFFF00000000000 0x0000A80000000000, (0, 0x0000A80000000000) :: one 0x3FFFF00000000000 0x0000A80000000000].map mregBad =
      [true, true, false, false, true, false, true] := by decide +kernel

/-- R242: reserved bits of `TSTAT` and HM stay as they are. -/
theorem test_wrsr_keeps_reserved_bits :
    (run (.wrsr 0x008 1) (withRegs [(1, 0xFFFFFFFFFFFFFFFF)] bench)).cur.tstat = 0x7F01FF ∧
    (run (.rdsr 2 0x002) bench).reg 2 = 0 ∧ (run (.rdsr 2 0x0F0) bench).reg 2 = 0 ∧ (run (.rdsr 2 0x000) bench).reg 2 = 5000 := by
  decide +kernel

/-- A matrix queue whose head, a `mzero` of tile 15 that has come to row 5, is this team's or another's, or does not run yet. -/
def queueing (id : Tid) (on : Bool) : State :=
  { bench with cores := [{ Core.reset 0 with unit := .active 3, mq := [
    { id := 5, words := [0xF07, 0, 0, 0, 0, 0, 0, 0], tid := id, fpc := tcm, upto := 5, rows := 5, running := on, multiplied := false, scalesA := []
      scalesB := [], writes := [], sends := [], paused := none, untilTret := false }] }] }

theorem meets_mqwin_and_rowprog :
    (∃ r rest, ((queueing ⟨1, 0, 3⟩ true).core 0).mq = r :: rest ∧ r.running = true ∧ r.tid.grid = 1 ∧ r.tid.team = 0) ∧
    (∃ r rest, ((queueing ⟨2, 0, 0⟩ true).core 0).mq = r :: rest ∧ r.running = true ∧ ¬ (r.tid.grid = 1 ∧ r.tid.team = 0)) ∧
    (∃ r rest, ((queueing ⟨1, 0, 0⟩ false).core 0).mq = r :: rest ∧ r.running = false) ∧ (bench.core 0).mq = [] :=
  ⟨⟨_, _, rfl, rfl, rfl, rfl⟩, ⟨_, _, rfl, rfl, by decide⟩, ⟨_, _, rfl, rfl⟩, rfl⟩

/-- R245: MQWIN and ROWPROG. -/
theorem test_mqwin_and_rowprog :
    (run (.rdsr 2 0x020) (queueing ⟨1, 0, 3⟩ true)).reg 2 = 0x70111 ∧ (run (.rdsr 2 0x020) (queueing ⟨2, 0, 0⟩ false)).reg 2 = 0x101 ∧
    (run (.rdsr 2 0x020) bench).reg 2 = 0 ∧ (run (.rdsr 2 0x021) (queueing ⟨1, 0, 3⟩ true)).reg 2 = 0xF0785 ∧
    (run (.rdsr 2 0x021) (queueing ⟨2, 0, 0⟩ true)).reg 2 = 0 := by decide +kernel

/-- A cluster with breakpoints armed on its first core, and one without; a thread in its handler, with both kinds of return address. -/
def armed : State := { bench with clusters := [{ Cluster.reset 0 with arm := 1 }] }
def handling (tpc : Word) : State := { bench with cur := { bench.cur with tstat := 0x340200, tpc := tpc, tvec := tcm + 64 } }
def handled (s : State) : State := { s with cur := { s.cur with tvec := tcm + 64 } }

/-- `trap` and `brk` with a handler, without one, and in it; `brk` armed, and with a handler not armed; `tret` in each state of HM and
TPC. -/
theorem meets_traps :
    (armed.cluster (clusterOf armed.cur.core)).arm.getLsbD (coreInCluster armed.cur.core) = true ∧
    (bench.cluster (clusterOf bench.cur.core)).arm.getLsbD (coreInCluster bench.cur.core) = false ∧
    (armed.cluster 0).arm ≠ 0 ∧ (bench.cluster 0).arm = 0 ∧
    ((handled bench).cur.tstat.getLsbD 9 = false ∧ (handled bench).cur.tvec.toNat / 8 % 2 ^ 53 ≠ 0 ∧
      ((handled bench).cluster (clusterOf (handled bench).cur.core)).arm.getLsbD (coreInCluster (handled bench).cur.core) = false) ∧
    (bench.cur.tstat.getLsbD 9 = false ∧ bench.cur.tvec.toNat / 8 % 2 ^ 53 = 0) ∧ (handling 8).cur.tstat.getLsbD 9 = true ∧
    (bench.cur.tstat.getLsbD 9 = false ∧ bench.cur.tpc.toNat % 8 = 0) ∧ (handling 4).cur.tpc.toNat % 8 ≠ 0 ∧
    ({ bench with cur := { bench.cur with tpc := 7 } } : State).cur.tpc.toNat % 8 ≠ 0 ∧ (handling 8).cur.tpc.toNat % 8 = 0 := by decide +kernel

/-- R248: the handler's registers, and the nested trap. -/
theorem test_trap :
    (let t := run (.trap 9) { bench with cur := { bench.cur with tvec := tcm + 64 } }
     (t.cur.tpc, t.cur.tcause, t.cur.pc, t.cur.tstat) = (tcm + 8, 0x905, tcm + 64, 0x340200)) ∧
    ((run (.trap 9) (handling 8)).gridD 1).faults.map (fun f => (f.cause, f.detail)) = [(0x20, 5)] ∧
    ((run (.trap 9) bench).gridD 1).faults.map (fun f => (f.cause, f.detail)) = [(0x21, 5)] ∧
    (run .tret (handling 8)).cur.pc = 8 := by decide +kernel

/-- R250, R329: HM and TPC both unfit, and each alone; log entry 65: what was left of a parked bundle comes back with the return. -/
theorem test_tret :
    ((run .tret { bench with cur := { bench.cur with tpc := 7 } }).gridD 1).faults.map (fun f => (f.cause, f.detail, f.fval)) = [(0x12, 0x30, 7)] ∧
    ((run .tret (handling 4)).gridD 1).faults.map (fun f => (f.cause, f.detail, f.fval)) = [(0x12, 0x30, 4)] ∧
    ((run .tret bench).gridD 1).faults.map (fun f => (f.cause, f.detail)) = [(0x22, 0)] ∧
    (let s := handled { bench with cur := { bench.cur with half := some ⟨tcm + 8, false, bench.cur.regs⟩ } }
     let t := run (.trap 9) s
     t.cur.half = none ∧ t.cur.outer = s.cur.half ∧ (run .tret t).cur.half = s.cur.half ∧ (run .tret t).cur.outer = none) := by decide +kernel

/-! ### Tiles, vectors, the loop sequencer -/

/-- Nothing is in flight, no unit runs: the tiles are idle. -/
theorem tiles_idle (s : State) (l : List (BitVec 4)) (ha : s.aborted = false) (hv : s.cur.vreplay = none) (hf : s.fabric = [])
    (hc : s.cores = []) (hd : (ownGrid s).replay.deferred = []) : TilesIdle s l := by
  refine ⟨ha, hv, fun n _ => ⟨fun r hr => ?_, fun c _ r hr => ?_, fun _ _ _ hr => ?_⟩⟩
  · rw [hf] at hr; cases hr
  · simp [State.core, hc, Core.reset] at hr
  · rw [hd] at hr; cases hr

/-- No error stands anywhere. -/
theorem rows_sound (s : State) (l : List RowOp) (hp : s.poison = []) (hs : s.soft = []) : RowsSound s l := by
  intro r _; rw [hp, hs]; exact ⟨List.not_mem_nil, List.not_mem_nil⟩

/-- The bench with a row (as elements) and a TYPE in tile `n`. -/
def withRow' (n row : Nat) (ty : BitVec 2) (l : List Nat) (s : State) : State :=
  let z := 8 * (match ty.toNat with | 1 => 2 | 3 => 8 | _ => 4)
  let v : Row := BitVec.ofNat 2048 ((l.zipIdx.map fun p => p.1 * 2 ^ (z * p.2)).sum)
  s.modTeam 1 0 fun t => { t with tiles := t.tiles.modify n fun x => { x with type := ty, rows := x.rows.set (row % 64) v (Nat.mod_lt _ (by decide)) } }

/-- Row 63 of tiles 13–15 of a TYPE; `s9` holds 127, so that row names it too. -/
def rows (ty : BitVec 2) (a b : List Nat) : State :=
  withRegs [(9, 127), (2, 0x40000000)] (withRow' 15 63 ty [] (withRow' 14 63 ty b (withRow' 13 63 ty a bench)))

/-- The row operands that name them: by number, and by register. -/
def rA : RowOp := ⟨13, true, false, 9⟩
def rB : RowOp := ⟨14, false, true, 63⟩
def rD : RowOp := ⟨15, false, false, 63⟩

theorem rows_free (ty : BitVec 2) (l : List (BitVec 4)) (h : ∀ n ∈ l, n.toNat < (ownTeam (rows ty [] [])).tiles.length) :
    TilesFree (rows ty [] []) l := ⟨tiles_idle _ _ rfl rfl rfl rfl rfl, h⟩

/-- Every TYPE, the last tiles of the team, rows by number and by register, and the greatest code of `vcmp`. -/
theorem meets_vector_instructions :
    (∀ ty : BitVec 2, TilesFree (rows ty [] []) [rD.tile, rA.tile, rB.tile]) ∧
    (∀ ty : BitVec 2, RowsSound (rows ty [] []) [rD, rA, rB] ∧ (tileAt (rows ty [] []) rA.tile).type = (tileAt (rows ty [] []) rD.tile).type ∧
      (tileAt (rows ty [] []) rB.tile).type = (tileAt (rows ty [] []) rD.tile).type) ∧ (5 : BitVec 3).toNat ≤ 5 := by
  refine ⟨fun ty => rows_free ty _ ?_, fun ty => ⟨?_, ?_, ?_⟩, by decide⟩
  · have h : (ownTeam (rows ty [] [])).tiles.length = 16 := rfl
    rw [h]; decide
  · exact rows_sound _ _ rfl rfl
  · rfl
  · rfl

/-- R178, R180: FP32 sums, an INT32 wrap, a comparison's mask. -/
theorem test_vector_results :
    (let s := rows 0 [0x3F800000, 0x40000000] [0x3F800000, 0xC0000000]
     element 0 (rowAt (run (.vadd rD rA rB) s) rD) 0 = 0x40000000 ∧ element 0 (rowAt (run (.vadd rD rA rB) s) rD) 1 = 0 ∧
     element 0 (rowAt (run (.vcmp 0 rD rA rB) s) rD) 0 = 0xFFFFFFFF ∧ element 0 (rowAt (run (.vcmp 4 rD rA rB) s) rD) 1 = 0xFFFFFFFF ∧
     element 0 (rowAt (run (.vscale rD rA 2) s) rD) 1 = 0x40800000 ∧ (tileAt (run (.vadd rD rA rB) s) 15).valid = false) ∧
    (let s := rows 2 [0xFFFFFFFF, 5] [2, 7]
     element 2 (rowAt (run (.vadd rD rA rB) s) rD) 0 = 1 ∧ element 2 (rowAt (run (.vmin rD rA rB) s) rD) 0 = 0xFFFFFFFF ∧
     element 2 (rowAt (run (.vperm rD rA rB) s) rD) 1 = 0 ∧ element 2 (rowAt (run (.vabs rD rA) s) rD) 0 = 1) := by decide +kernel

/-- A team of fifteen tiles has no `t15`. -/
def fifteen : State := bench.modTeam 1 0 fun t => { t with tiles := t.tiles.take 15 }

theorem meets_tiles :
    TilesFree bench [15] ∧ TilesIdle fifteen [15] ∧ (ownTeam fifteen).tiles.length ≤ (15 : BitVec 4).toNat :=
  ⟨⟨tiles_idle _ _ rfl rfl rfl rfl rfl, by decide⟩, tiles_idle _ _ rfl rfl rfl rfl rfl, by decide⟩

theorem test_tile_number_is_checked :
    ((run (.tzero 15) fifteen).gridD 1).faults.map (fun f => (f.cause, f.detail, f.fval)) = [(0x16, 1, 15)] := by decide +kernel

/-- A row access under view 0, and under the view of FP32 (one byte beyond its alignment it faults). -/
theorem meets_row_accesses :
    TilesFree bench [15] ∧ RowsSound bench [rD] ∧ viewOf (effAddr tcm 256) < 6 ∧ locOf (effAddr tcm 256) % 8 = 0 ∧
    Mapped bench bench (effAddr tcm 256) ((units8 (locOf (effAddr tcm 256)) 256).map (·.1)) true ((List.range 32).map fun i => at_ (256 + 8 * i)) ∧
    Mapped bench bench (effAddr tcm 256) ((units8 (locOf (effAddr tcm 256)) 256).map (·.1)) false ((List.range 32).map fun i => at_ (256 + 8 * i)) ∧
    viewOf (effAddr 0x3F000000000000 4) < 6 ∧ locOf (effAddr 0x3F000000000000 4) % (Elem.ofView 3).size = 0 ∧
    Mapped bench bench (effAddr 0x3F000000000000 4) ((units8 (locOf (effAddr 0x3F000000000000 4)) 256).map (·.1)) true
      ((units8 4 256).map fun u => at_ (4 + u.1)) := by
  refine ⟨⟨tiles_idle _ _ rfl rfl rfl rfl rfl, by decide⟩, rows_sound _ _ rfl rfl, by decide, by decide,
    ⟨(List.range 32).map fun i => (at_ (256 + 8 * i), true, true), ?_, ?_, ?_, ?_⟩,
    ⟨(List.range 32).map fun i => (at_ (256 + 8 * i), true, true), ?_, ?_, ?_, ?_⟩, by decide, by decide,
    ⟨(units8 4 256).map fun u => (at_ (4 + u.1), true, true), ?_, ?_, ?_, ?_⟩⟩
  all_goals decide +kernel

/-- The bench with a result queue and a log. -/
def looping (q : Nat) (log : Nat) : State :=
  { bench with cur := { bench.cur with resq := List.replicate q 7, log := List.replicate log ⟨.vneg rD rB, [63, 63], []⟩ } }

/-- The last operation of `vred` with one free place in the queue; a log one entry short, and just long enough; a head and none. -/
theorem meets_reductions_loop_and_pop :
    ((2 : BitVec 2).toNat < 3 ∧ TilesFree (looping 7 0) [13] ∧ RowsSound (looping 7 0) [rA] ∧ (looping 7 0).cur.resq.length ≤ 7) ∧
    ((looping 0 15).cur.vreplay = none ∧ (looping 0 15).cur.log.length < (15 : BitVec 4).toNat + 1) ∧
    (15 : BitVec 4).toNat + 1 ≤ (looping 0 16).cur.log.length ∧
    ((looping 1 0).cur.resq = 7 :: [] ∧ regErr (looping 1 0).cur.id 33 ∉ (looping 1 0).poison) ∧ (looping 0 0).cur.resq = [] := by
  refine ⟨⟨by decide, ⟨tiles_idle _ _ rfl rfl rfl rfl rfl, by decide⟩, rows_sound _ _ rfl rfl,
    by decide⟩, ⟨by decide, by decide⟩, by decide, ⟨rfl, fun h => absurd h (by simp [looping, bench, State.withBench, State.reset])⟩, rfl⟩

/-- R183: the sum of a row of FP32, rounded once: 2^24 + 1 + 1 is exact where two roundings would lose both. -/
theorem test_vred : (run (.vred 0 rA) (rows 0 [0x4B800000, 0x3F800000, 0x3F800000] [])).cur.resq = [0x4B800001] ∧
    (run (.vpop 3) (looping 1 0)).reg 3 = 7 ∧ (run (.vpop 3) (looping 0 0)).cur.wait = .vpop 3 := by decide +kernel

/-- Rows for a selection: values in tile 13, positions in tile 14, which is INT32. -/
def selecting : State := withRow' 14 63 2 [9, 9, 4] (rows 0 [0x40000000, 0x7FC00000, 0x3F800000] [])

/-- The greatest k of a row of FP32, and two free places in the queue. -/
theorem meets_selections_and_sorts :
    63 + 1 ≤ min (elemCount (tileAt selecting 13).type) 64 ∧
    SelectionReady { selecting with cur := { selecting.cur with resq := List.replicate 6 0 } } rD ⟨14, false, false, 63⟩ rA [rA, ⟨14, false, false, 63⟩] ∧
    TilesFree selecting [15, 14, 13] ∧ RowsSound selecting [rA] ∧ (tileAt selecting 15).type = (tileAt selecting 13).type ∧
    (tileAt selecting 14).type = 2 := by
  refine ⟨by decide +kernel, ⟨⟨tiles_idle _ _ rfl rfl rfl rfl rfl, by decide⟩,
    rows_sound _ _ rfl rfl, by decide, by decide +kernel, by decide +kernel⟩,
    ⟨tiles_idle _ _ rfl rfl rfl rfl rfl, by decide⟩,
    rows_sound _ _ rfl rfl, by decide +kernel, by decide +kernel⟩

/-- R189, R190: of 2, NaN and 1 (the rest zeros) the greatest is at position 0, one NaN is counted. -/
theorem test_topk :
    let t := run (.topk false 5 rD ⟨14, false, false, 63⟩ rA 0) selecting
    t.reg 5 = 0x10001 ∧ element 0 (rowAt t rD) 0 = 0x40000000 ∧ element 2 (rowAt t ⟨14, false, false, 63⟩) 0 = 0 ∧
    t.cur.resq = [0x40000000, 0x3F800000] := by decide +kernel

/-! ### Marks -/

/-- The bench with one page mapped: locations 0x20000–0x2FFFF are bytes 0x50000–0x5FFFF of DRAM, with every permission. -/
def paged : State :=
  let s : State := { bench with queues := [{ Queue.reset 0 with pt := 0x10000 }] }
  ((((s.store 0x10000 8 0x20001).store 0x20000 8 0x30001).store 0x30000 8 0x40001).store 0x40010 8 0x5000F)

/-- Region 0 covers 0x20000–0x27FFF, with NEXP 10 and K 128. -/
def region0 : Word × Word := (0x7F00000000200, 0x80A80000000000)
def theRegion : Region := ⟨0, 0x20000, 0x8000, 0, 10, 128⟩
def marking : State := { paged with grids := paged.grids.map fun g => { g with mreg := region0 :: List.replicate 7 (0, 0) } }

/-- The machine after the translation of a location. -/
def looked (s : State) (ea : Word) : State := (s.places 1 [ea]).2

/-- A grid of which region 0 alone is enabled, as above. -/
theorem in_region_iff (g : Grid) (h : g.mreg = region0 :: List.replicate 7 (0, 0)) (loc : Nat) (rg : Region) :
    InRegion g loc rg ↔ 0x20000 ≤ loc ∧ loc < 0x28000 ∧ rg = theRegion := by
  have hc : ∀ m, Covers region0.1 region0.2 m ↔ 0x20000 ≤ m ∧ m < 0x28000 := by
    intro m; unfold Covers; rw [show region0.2.getLsbD 47 = true by decide, show region0.1.toNat % 2 ^ 44 * 256 = 0x20000 by decide,
      show (region0.1.toNat / 2 ^ 44 % 2 ^ 18 + 1) * 256 = 0x8000 by decide]; simp
  constructor
  · rintro ⟨n, lo, hi, hn, -, hcov, hrg⟩
    rw [h] at hn
    cases n with
    | zero =>
      obtain ⟨rfl, rfl⟩ : region0.1 = lo ∧ region0.2 = hi := by simpa [Prod.ext_iff] using hn
      exact ⟨((hc loc).mp hcov).1, ((hc loc).mp hcov).2, by rw [hrg]; decide⟩
    | succ n =>
      have : (0, 0) = (lo, hi) := by
        have := List.mem_of_getElem? (l := List.replicate 7 ((0 : Word), (0 : Word))) (by simpa only [List.getElem?_cons_succ] using hn)
        exact (List.eq_of_mem_replicate this).symm
      obtain ⟨rfl, rfl⟩ := Prod.ext_iff.mp this
      exact absurd hcov.1 (by decide)
  · rintro ⟨h1, h2, rfl⟩
    exact ⟨0, region0.1, region0.2, by rw [h]; rfl, fun m hm => absurd hm (by omega), (hc loc).mpr ⟨h1, h2⟩, by decide⟩

theorem marking_mreg (ea : Word) (h : (ownGrid (looked marking ea)).mreg = region0 :: List.replicate 7 (0, 0)) (loc : Nat) (rg : Region) :
    InRegion (ownGrid (looked marking ea)) loc rg ↔ 0x20000 ≤ loc ∧ loc < 0x28000 ∧ rg = theRegion := in_region_iff _ h loc rg

/-- The last word of a region, and the first one behind it. -/
theorem meets_mark_operations :
    (Mapped marking (looked marking 0x27FFC) 0x27FFC [0] true [0x57FFC] ∧ viewOf 0x27FFC < 6 ∧ locOf 0x27FFC % 4 = 0 ∧
      InRegion (ownGrid (looked marking 0x27FFC)) (locOf 0x27FFC) theRegion) ∧
    (Mapped marking (looked marking 0x28000) 0x28000 [0] true [0x58000] ∧ locOf 0x28000 % 4 = 0 ∧
      ¬ ∃ rg, InRegion (ownGrid (looked marking 0x28000)) (locOf 0x28000) rg) := by
  refine ⟨⟨⟨[(0x57FFC, true, true)], ?_, ?_, ?_, ?_⟩, ?_, ?_, ?_⟩, ⟨[(0x58000, true, true)], ?_, ?_, ?_, ?_⟩, ?_, ?_⟩
  case refine_7 => exact (marking_mreg _ (by decide +kernel) _ _).mpr ⟨by decide +kernel, by decide +kernel, rfl⟩
  case refine_13 =>
    rintro ⟨rg, h⟩
    have h := ((marking_mreg _ (by decide +kernel) _ _).mp h).2.1
    exact absurd h (by decide +kernel)
  all_goals decide +kernel

/-- R209: the operation carries its region; outside every region it faults. -/
theorem test_marks :
    ((run (.mdepAdd 1 0 2) (withRegs [(1, 0x27FFC), (2, 0x20000)] marking)).fabric.map fun r => decide (r.op = .mark .depAdd 65535 theRegion)) = [true] ∧
    ((run (.mclr 1 4) (withRegs [(1, 0x27FFC)] marking)).gridD 1).faults.map (fun f => (f.cause, f.detail, f.fval)) = [(0x18, 0x34, 0x28000)] := by
  decide +kernel

/-- The cells of a sense around the last word of the region's first row that lie in it. -/
def sensed : List (Nat × Word × Region) :=
  [(1, 0x27FF8, theRegion), (2, 0x27FFC, theRegion), (0, 0, theRegion)].take 2

theorem cross_cells (g : Grid) (h : g.mreg = region0 :: List.replicate 7 (0, 0)) :
    SensedCells g 0x27FFC 0x8000 (stencilCells 2) sensed := by
  refine ⟨by decide, fun i ea rg => ?_⟩
  constructor
  · intro hm
    simp only [sensed, List.take, List.mem_cons, Prod.mk.injEq, List.not_mem_nil, or_false] at hm
    obtain ⟨rfl, rfl, rfl⟩ | ⟨rfl, rfl, rfl⟩ := hm
    · exact ⟨-1, 0, by decide, by decide +kernel, (in_region_iff g h _ _).mpr ⟨by decide +kernel, by decide +kernel, rfl⟩⟩
    · exact ⟨0, 0, by decide, by decide +kernel, (in_region_iff g h _ _).mpr ⟨by decide +kernel, by decide +kernel, rfl⟩⟩
  · rintro ⟨dx, dy, hi, rfl, hr⟩
    obtain ⟨h1, h2, rfl⟩ := (in_region_iff g h _ _).mp hr
    have hi5 : i < 5 := by
      have := (List.getElem?_eq_some_iff.mp hi).1
      simpa [stencilCells] using this
    interval_cases i <;> simp only [stencilCells, List.getElem?_cons_succ, List.getElem?_cons_zero, Option.some.injEq, Prod.mk.injEq] at hi <;>
      obtain ⟨rfl, rfl⟩ := hi
    · exact absurd h1 (by decide +kernel)
    · exact .head _
    · exact .tail _ (.head _)
    · exact absurd h2 (by decide +kernel)
    · exact absurd h2 (by decide +kernel)

/-- The machine after the translation of those cells. -/
def sensedAfter : State := (marking.places 1 (sensed.map (·.2.1))).2

theorem no_cells (g : Grid) (h : g.mreg = mregReset) (centre : Word) (pitch : Nat) (cells : List (Int × Int)) :
    SensedCells g centre pitch cells [] := by
  refine ⟨.nil, fun i ea rg => ⟨fun h => absurd h List.not_mem_nil, ?_⟩⟩
  rintro ⟨_, _, _, _, n, lo, hi, hn, _, hc, _⟩
  rw [h] at hn
  have := List.eq_of_mem_replicate (List.mem_of_getElem? hn)
  obtain ⟨rfl, rfl⟩ := Prod.ext_iff.mp this
  exact absurd hc.1 (by decide)

/-- A sense with two of its five cells in the region, and one with none; a pitch that is legal and one that is not. -/
theorem meets_senses :
    viewOf (effAddr 0x27FFC 0) < 6 ∧ locOf (effAddr 0x27FFC 0) % 4 = 0 ∧ (2 : BitVec 3).toNat < 4 ∧ 0x8000 % 4 = 0 ∧ 0x8002 % 4 ≠ 0 ∧
    (SensedCells (ownGrid marking) 0x27FFC 0x8000 (stencilCells 2) sensed ∧ sensed ≠ [] ∧
      marking.places marking.cur.id.grid (sensed.map (·.2.1)) =
        ((sensed.map (·.2.1)).zip ([(0x57FF8, true, true), (0x57FFC, true, true)].map fun p => Place.mem p.1 p.2.1 p.2.2), sensedAfter)) ∧
    (SensedCells (ownGrid bench) 0x27FFC 4 (stencilCells 3) [] ∧ bench.places bench.cur.id.grid [] = ([], bench)) := by
  have hc := cross_cells (ownGrid marking) (by decide +kernel)
  have hn := no_cells (ownGrid bench) (by decide +kernel) 0x27FFC 4 (stencilCells 3)
  refine ⟨?_, ?_, ?_, ?_, ?_, ⟨hc, ?_⟩, hn, ?_⟩
  all_goals decide +kernel

/-- A pair list of 16 cells, and one of none. -/
def pairWords (header : Word) : List Word := [header, 0, 0, 0, 0xFF00000100010000, 0, 0, 0]

theorem meets_pair_lists :
    ((4 : BitVec 3).toNat = 4 ∧ viewOf (effAddr (tcm + 64) 0) < 6 ∧ locOf (effAddr (tcm + 64) 0) % 64 = 0 ∧
      bench.cur.words? (effAddr (tcm + 64) 0) 8 = none ∧ StaysHere bench [at_ 64] ∧
      Mapped bench bench (effAddr (tcm + 64) 0) ((List.range 8).map (8 * ·)) false ((List.range 8).map fun j => at_ (64 + 8 * j))) ∧
    (let s := withGot 64 (pairWords 0x01000010) bench
     (pairWords 0x01000010).length = 8 ∧ AtHand s (effAddr (tcm + 64) 0) (pairWords 0x01000010) ∧
     ∃ cells, PairList (pairWords 0x01000010) 0x100 cells) ∧
    (let s := withGot 64 (pairWords 0x01000000) bench
     AtHand s (effAddr (tcm + 64) 0) (pairWords 0x01000000) ∧ ¬ ∃ pitch cells, PairList (pairWords 0x01000000) pitch cells) := by
  refine ⟨⟨by decide, by decide, by decide, by decide +kernel, by unfold StaysHere; decide +kernel,
      ⟨(List.range 8).map fun j => (at_ (64 + 8 * j), true, true), ?_, ?_, ?_, ?_⟩⟩,
    ⟨by decide, by unfold AtHand; decide +kernel, _, by and_intros <;> first | decide | rfl⟩, by unfold AtHand; decide +kernel, ?_⟩
  rotate_left 4
  · rintro ⟨p, c, h, _⟩
    exact absurd h (by decide)
  all_goals decide +kernel

/-- R213: the next tick of a region with NEXP 10 after cycle 5000 begins at 5120. -/
theorem test_mtick : (run (.mtick 3 0) marking).reg 3 = 5120 := by decide +kernel

/-! ### Functions -/

/-- FP64 patterns. -/
def one : Word := 0x3FF0000000000000
def minusOne : Word := 0xBFF0000000000000
def half : Word := 0x3FE0000000000000

/-- The function x on [−1, 1], the constant 1, the constant 1 on [0, 1], and the function 2 x. -/
def fX : FReg := ⟨minusOne, one, false, false, [0, one]⟩
def fOne : FReg := ⟨minusOne, one, false, false, [one]⟩
def fUnit : FReg := ⟨0, one, false, false, [one]⟩
def fTwoX : FReg := ⟨minusOne, one, false, false, [0, 0x4000000000000000]⟩

/-- The bench with functions in `f0` and `f7`, with 0, −1, 1 in `s1`–`s3`. -/
def functions (x y : FReg) : State :=
  withRegs [(1, 0), (2, minusOne), (3, one)] { bench with cur := { bench.cur with fregs := (bench.cur.fregs.set 0 x).set 7 y } }

theorem functions_hold (x y : FReg) (hx : x.coef ≠ []) (hy : y.coef ≠ []) :
    Holds (functions x y) 0 x ∧ Holds (functions x y) 7 y ∧ ∀ d, MayProduce (functions x y) d := by
  refine ⟨⟨rfl, hx, ?_⟩, ⟨rfl, hy, ?_⟩, fun d v hv => ?_⟩
  · simp [functions, withRegs, bench, State.withBench, State.reset]
  · simp [functions, withRegs, bench, State.withBench, State.reset]
  · exact absurd hv (by simp [functions, withRegs, bench, State.withBench, Grid.newThread, Thread.vacant, Thread.setReg])

theorem an_interval : IsInterval minusOne one ∧ IsInterval 0 one ∧ ¬ IsInterval one one ∧ ¬ IsInterval 0 0x7FF0000000000000 := by
  have h0 : (⟨11, 52, true⟩ : Fmt).decode (0 : Word).toNat = .fin false 0 (-1074) := by decide +kernel
  have h1 : (⟨11, 52, true⟩ : Fmt).decode one.toNat = .fin false (2 ^ 52) (-52) := by decide +kernel
  have h2 : (⟨11, 52, true⟩ : Fmt).decode minusOne.toNat = .fin true (2 ^ 52) (-52) := by decide +kernel
  have h3 : (⟨11, 52, true⟩ : Fmt).decode (0x7FF0000000000000 : Word).toNat = .inf false := by decide +kernel
  refine ⟨⟨_, _, _, _, _, _, h2, h1, by norm_num [rational]⟩, ⟨_, _, _, _, _, _, h0, h1, by norm_num [rational]⟩, ?_, ?_⟩
  · rintro ⟨n, m, e, n', m', e', a, b, h⟩
    rw [h1] at a b; cases a; cases b; exact lt_irrefl _ h
  · rintro ⟨n, m, e, n', m', e', a, b, h⟩
    rw [h3] at b; cases b

theorem functions_regs : (functions fX fOne).reg 1 = 0 ∧ (functions fX fOne).reg 2 = minusOne ∧ (functions fX fOne).reg 3 = one := by
  decide +kernel

theorem functions_tiles : TilesFree (functions fX fOne) [15, 13] ∧ RowsSound (functions fX fOne) [rA] :=
  ⟨⟨tiles_idle _ _ rfl rfl rfl rfl rfl, by decide +kernel⟩, rows_sound _ _ rfl rfl⟩

/-- As many samples as a row of FP32 has, and one more. -/
theorem meets_sampling :
    MayProduce (functions fX fOne) 0 ∧ 1 ≤ (64 : BitVec 8).toNat ∧
    (64 : BitVec 8).toNat ≤ elemCount (tileAt (functions fX fOne) 13).type ∧ elemCount (tileAt (functions fX fOne) 13).type < (65 : BitVec 8).toNat :=
  ⟨(functions_hold fX fOne (by decide) (by decide)).2.2 0, by decide, by decide +kernel, by decide +kernel⟩

/-- A function with a root, one that is zero at the left end, one without. -/
theorem meets_evaluation :
    Holds (functions fX fOne) 0 fX ∧ Holds (functions fX fOne) 7 fOne ∧ ((functions fX fOne).reg 1 = 0 ∧ (functions fX fOne).reg 3 = one) ∧
    ¬ IsInterval one one ∧ IsInterval 0 one ∧ (⟨11, 52, true⟩ : Fmt).decode (clenshaw fX 0).toNat = .fin false 0 (-1074) ∧
    fX.root minusOne one = some 0 ∧ fOne.root minusOne one = none := by
  obtain ⟨h1, h2, -⟩ := functions_hold fX fOne (by decide) (by decide)
  exact ⟨h1, h2, ⟨functions_regs.1, functions_regs.2.2⟩, an_interval.2.2.1, an_interval.2.1, by decide +kernel, by decide +kernel, by decide +kernel⟩

/-- R225, R226, R228: x at 1/2; the root of x; no root of 1, which sets NR. -/
theorem test_evaluation :
    let s := withRegs [(4, half)] (functions fX fOne)
    (run (.feval 5 0 4) s).reg 5 = half ∧ (run (.froot 5 0 2 3) s).reg 5 = 0 ∧ (run (.froot 5 7 2 3) s).reg 5 = 0x7FF8000000000000 ∧
    (run (.froot 5 7 2 3) s).cur.tstat = 0x340100 := by decide +kernel

/-- The words of an image (R103): the greatest count of coefficients, none, one too many, an interval of no breadth. -/
def imageWords (n : Nat) (b : Word) : List Word := [0, b, BitVec.ofNat 64 n, 0] ++ List.replicate (n % 256) 0

/-- The bench whose bundle has read the first `k` words of an image at 64 in its TCM. -/
def imaged (n : Nat) (b : Word) (k : Nat) : State :=
  { bench with cur := { bench.cur with got := [(tcm + 64, (imageWords n b).take k)] } }

/-- The image at hand: what came last for its address. -/
def ImageAt (s : State) (words : List Word) : Prop :=
  4 ≤ words.length ∧ (s.cur.got.filter fun g => g.1 == effAddr tcm 64).getLast? = some (effAddr tcm 64, words)

/-- The places of an image. -/
theorem image_is_mapped (n : Nat) (b : Word) (k m : Nat)
    (h : (imaged n b k).places 1 (((List.range m).map (8 * ·)).map (eaPlus (effAddr tcm 64))) =
      ((((List.range m).map (8 * ·)).map (eaPlus (effAddr tcm 64))).zip
        (((List.range m).map fun j => (at_ (64 + 8 * j), true, true)).map fun p => Place.mem p.1 p.2.1 p.2.2), imaged n b k)) :
    Mapped (imaged n b k) (imaged n b k) (effAddr tcm 64) ((List.range m).map (8 * ·)) false ((List.range m).map fun j => at_ (64 + 8 * j)) :=
  ⟨(List.range m).map fun j => (at_ (64 + 8 * j), true, true), h, by simp, fun h => absurd h (by decide), by simp⟩

theorem meets_loading_an_image :
    viewOf (effAddr tcm 64) < 6 ∧ locOf (effAddr tcm 64) % 8 = 0 ∧ (∀ g ∈ bench.cur.got, g.1 ≠ effAddr tcm 64) ∧
    bench.cur.words? (effAddr tcm 64) 4 = none ∧ bench.cur.cntL ≠ 63 ∧
    StaysHere bench [at_ 64] ∧ Mapped bench bench (effAddr tcm 64) ((List.range 4).map (8 * ·)) false [at_ 64, at_ 72, at_ 80, at_ 88] := by
  refine ⟨by decide, by decide, by decide +kernel, by decide +kernel, by decide, by unfold StaysHere; decide +kernel,
    ⟨[(at_ 64, true, true), (at_ 72, true, true), (at_ 80, true, true), (at_ 88, true, true)], ?_, ?_, ?_, ?_⟩⟩
  all_goals decide +kernel

theorem meets_loading_too_many :
    ImageAt (imaged 129 one 4) [0, one, 129, 0] ∧ 128 < (129 : Word).toNat % 256 ∧
    Mapped (imaged 129 one 4) (imaged 129 one 4) (effAddr tcm 64) ((List.range 133).map (8 * ·)) false ((List.range 133).map fun j => at_ (64 + 8 * j)) :=
  ⟨by unfold ImageAt; decide +kernel, by decide, image_is_mapped _ _ _ _ (by decide +kernel)⟩

theorem meets_loading_no_interval :
    ImageAt (imaged 1 0 5) (imageWords 1 0) ∧ ¬ IsInterval 0 0 ∧
    Mapped (imaged 1 0 5) (imaged 1 0 5) (effAddr tcm 64) ((List.range 5).map (8 * ·)) false ((List.range 5).map fun j => at_ (64 + 8 * j)) := by
  refine ⟨by unfold ImageAt; decide +kernel, ?_, image_is_mapped _ _ _ _ (by decide +kernel)⟩
  rintro ⟨n, m, e, n', m', e', a, b, h⟩
  have h0 : (⟨11, 52, true⟩ : Fmt).decode (0 : Word).toNat = .fin false 0 (-1074) := by decide +kernel
  rw [h0] at a b; cases a; cases b; exact lt_irrefl _ h

/-- The greatest image, at hand and not yet. -/
theorem meets_loading_the_most :
    ImageAt (imaged 128 one 132) (imageWords 128 one) ∧ 4 + 128 ≤ (imageWords 128 one).length ∧ IsInterval 0 one ∧
    ImageAt (imaged 128 one 4) [0, one, 128, 0] ∧ (imaged 128 one 4).cur.words? (effAddr tcm 64) 132 = none ∧
    Mapped (imaged 128 one 132) (imaged 128 one 132) (effAddr tcm 64) ((List.range 132).map (8 * ·)) false
      ((List.range 132).map fun j => at_ (64 + 8 * j)) :=
  ⟨by unfold ImageAt; decide +kernel, by decide +kernel, an_interval.2.1, by unfold ImageAt; decide +kernel, by decide +kernel,
    image_is_mapped _ _ _ _ (by decide +kernel)⟩

theorem meets_loading_an_empty_one :
    ImageAt (imaged 0 0 4) [0, 0, 0, 0] ∧
    Mapped (imaged 0 0 4) (imaged 0 0 4) (effAddr tcm 64) ((List.range 4).map (8 * ·)) false ((List.range 4).map fun j => at_ (64 + 8 * j)) :=
  ⟨by unfold ImageAt; decide +kernel, image_is_mapped _ _ _ _ (by decide +kernel)⟩

/-- The words that a first load has read say that there are three more, which a second one has read. -/
def imagedInParts : State :=
  { bench with cur := { bench.cur with got := [(tcm + 64, [0, one, 3, 0]), (tcm + 96, [one, half, one])] } }

theorem meets_loading_the_rest :
    ImageAt imagedInParts [0, one, 3, 0] ∧ [0, one, 3, 0].length + [one, half, one].length = 4 + 3 ∧
    AtHand imagedInParts (eaPlus (effAddr tcm 64) (8 * 4)) [one, half, one] ∧ MayProduce imagedInParts 2 ∧
    (∃ m, ImageAt (imaged 3 one 4) [0, one, m, 0]) ∧ (imaged 3 one 4).cur.words? (eaPlus (effAddr tcm 64) (8 * 4)) 3 = none := by
  refine ⟨by unfold ImageAt; decide +kernel, by decide, by unfold AtHand; decide +kernel, fun v hv => ?_, ⟨3, by unfold ImageAt; decide +kernel⟩, by decide +kernel⟩
  exact absurd hv (by simp [imagedInParts, bench, State.withBench, Grid.newThread, Thread.vacant])

/-- Log entry 39: what the image needs beyond the words read is asked for alone, and then put behind them. -/
theorem test_fld_f_in_parts :
    ((run (.fldF 2 1 64) (withRegs [(1, tcm)] (imaged 3 one 4))).fabric.map fun r => r.pieces.map (·.key)) = [[at_ 96, at_ 104, at_ 112]] ∧
    ((run (.fldF 2 1 64) (withRegs [(1, tcm)] imagedInParts)).cur.freg 2) = ⟨0, one, false, false, [one, half, one]⟩ := by decide +kernel

/-- R217: one load of the image, then the register. -/
theorem test_fld_f :
    (run (.fldF 2 1 64) (withRegs [(1, tcm)] bench)).cur.wait = .fetching 0 ∧
    ((run (.fldF 2 1 64) (withRegs [(1, tcm)] (imaged 3 one 7))).cur.freg 2) = ⟨0, one, false, false, [0, 0, 0]⟩ := by decide +kernel

/-- The image of a register, stored to the TCM. -/
theorem meets_storing_functions :
    let s := functions fX fOne
    regErr s.cur.id (16 + (7 : FRegN).toNat) ∉ s.poison ∧ viewOf (effAddr tcm 64) < 6 ∧ locOf (effAddr tcm 64) % 8 = 0 ∧
    Mapped s s (effAddr tcm 64) ((List.range (imageOf (s.cur.freg 7)).length).map (· * 8)) true [at_ 64, at_ 72, at_ 80, at_ 88, at_ 96] ∧
    StaysHere s [at_ 64, at_ 72, at_ 80, at_ 88, at_ 96] := by
  refine ⟨by decide +kernel, by decide, by decide, ⟨[64, 72, 80, 88, 96].map fun o => (at_ o, true, true), ?_, ?_, ?_, ?_⟩, by unfold StaysHere; decide +kernel⟩
  all_goals decide +kernel

/-- A pool that is full but for one coefficient: a function of 2 coefficients fits where one of 3 does not. -/
def poolOf (n : Nat) : State :=
  let s := functions fX fOne
  { s with grids := s.grids.map fun g => { g with desc := { g.desc with shape := 16 * 2 ^ 16 + n * 2 ^ 21 + 64 * 2 ^ 28 } } }

theorem meets_building_functions :
    (Holds (functions fX fOne) 0 fX ∧ MayProduce (functions fX fOne) 0) ∧
    ((functions fX fOne).cur.freg 3).coef = [] ∧ regErr (functions fX fOne).cur.id (16 + (3 : FRegN).toNat) ∉ (functions fX fOne).poison ∧
    IsInterval ((functions fX fOne).reg 2) ((functions fX fOne).reg 3) ∧ ¬ IsInterval ((functions fX fOne).reg 3) ((functions fX fOne).reg 3) ∧
    poolHeld (functions fX fOne) + 8 * fX.coef.length ≤ poolShare (functions fX fOne) ∧
    poolShare (poolOf 0) < poolHeld (poolOf 0) + 8 * fX.coef.length := by
  obtain ⟨h1, h2, h3⟩ := functions_hold fX fOne (by decide) (by decide)
  obtain ⟨-, r2, r3⟩ := functions_regs
  rw [r2, r3]
  exact ⟨⟨h1, h3 0⟩, by decide +kernel, by decide +kernel, an_interval.1, an_interval.2.2.1, by decide +kernel, by decide +kernel⟩

/-- R218, R219: a coefficient beyond the end, and what `flen` tells. -/
theorem test_fset :
    let t := run (.fset 0 3 3) (functions fX fOne)
    (t.cur.freg 0).coef = [0, one, 0, one] ∧ (run (.flen 5 0) t).reg 5 = 4 ∧
    ((run (.fset 0 3 127) (poolOf 0)).gridD 1).faults.map (fun f => (f.cause, f.detail, f.fval)) = [(0x21, 3, 1024)] := by decide +kernel

/-- The constant 1 on [-1, 2], and x + 1 on [-1, 1]. -/
def fWide : FReg := ⟨minusOne, 0x4000000000000000, false, false, [one]⟩
def fXPlusOne : FReg := ⟨minusOne, one, false, false, [one, one]⟩

/-- Two functions on one interval, and on two that differ in one bound, or in the other. -/
theorem meets_function_arithmetic :
    (Holds (functions fX fOne) 0 fX ∧ Holds (functions fX fOne) 7 fOne ∧ MayProduce (functions fX fOne) 0 ∧ fX.a = fOne.a ∧ fX.b = fOne.b) ∧
    (Holds (functions fX fUnit) 7 fUnit ∧ fX.a ≠ fUnit.a) ∧ (Holds (functions fX fWide) 7 fWide ∧ fX.a = fWide.a ∧ fX.b ≠ fWide.b) := by
  obtain ⟨h1, h2, h3⟩ := functions_hold fX fOne (by decide) (by decide)
  exact ⟨⟨h1, h2, h3 0, rfl, rfl⟩, ⟨(functions_hold fX fUnit (by decide) (by decide)).2.1, by decide⟩,
    (functions_hold fX fWide (by decide) (by decide)).2.1, by decide, by decide⟩

/-- R220, R221, R224: x + 1; x · x = 1/2 + 1/2 T2; the derivative of x. -/
theorem test_function_arithmetic :
    let s := functions fX fX
    ((run (.faddF 3 0 7) (functions fX fOne)).cur.freg 3).coef = [one, one] ∧
    ((run (.fmulF 3 0 7) s).cur.freg 3).coef = [half, 0, half] ∧ ((run (.fder 3 0) s).cur.freg 3).coef = [one] ∧
    ((run (.faddF 3 0 7) (functions fX fUnit)).gridD 1).faults.map (fun f => (f.cause, f.detail, f.fval)) = [(0x17, 0x44, minusOne)] ∧
    ((run (.faddF 3 0 7) (functions fX fWide)).gridD 1).faults.map (fun f => (f.cause, f.detail, f.fval)) = [(0x17, 0x44, one)] := by decide +kernel

/-- The value of a pattern. -/
def value (w : Word) : FV := (⟨11, 52, true⟩ : Fmt).decode w.toNat

/-- The range of x, [-1, 1], lies in the domain of x; that of 2 x, [-2, 2], begins below it; that of x + 1, [0, 2], only ends beyond it. -/
theorem meets_composition :
    fX.a = minusOne ∧ fX.b = one ∧ value minusOne ≠ .nan ∧ value one ≠ .nan ∧
    (place (value minusOne) ≤ place (value minusOne) ∧ place (value one) ≤ place (value one)) ∧
    place (value 0xC000000000000000) < place (value minusOne) ∧
    (¬ place (value 0x4000000000000000) ≤ place (value one) ∧ ¬ place (value 0) < place (value minusOne)) ∧
    Holds (functions fX fXPlusOne) 7 fXPlusOne ∧ Holds (functions fX fTwoX) 7 fTwoX := by
  have h1 : value one = .fin false (2 ^ 52) (-52) := by decide +kernel
  have h2 : value 0x4000000000000000 = .fin false (2 ^ 52) (-51) := by decide +kernel
  have h3 : value 0xC000000000000000 = .fin true (2 ^ 52) (-51) := by decide +kernel
  have h4 : value 0 = .fin false 0 (-1074) := by decide +kernel
  have h5 : value minusOne = .fin true (2 ^ 52) (-52) := by decide +kernel
  rw [h1, h2, h3, h4, h5]
  refine ⟨rfl, rfl, nofun, nofun, ⟨le_refl _, le_refl _⟩, ?_, ⟨?_, ?_⟩, (functions_hold fX fXPlusOne (by decide) (by decide)).2.1,
    (functions_hold fX fTwoX (by decide) (by decide)).2.1⟩
  all_goals simp only [place, WithBot.coe_lt_coe, WithTop.coe_lt_coe, WithBot.coe_le_coe, WithTop.coe_le_coe, rational]; norm_num

theorem test_fcomp :
    ((run (.fcomp 3 0 7) (functions fX fX)).cur.freg 3).coef = [0, one] ∧
    ((run (.fcomp 3 0 7) (functions fX fTwoX)).gridD 1).faults.map (fun f => (f.cause, f.detail, f.fval)) = [(0x17, 0x48, 0xC000000000000000)] ∧
    ((run (.fcomp 3 0 7) (functions fX fXPlusOne)).gridD 1).faults.map (fun f => (f.cause, f.detail, f.fval)) = [(0x17, 0x48, 0x4000000000000000)] := by
  decide +kernel

/-! ### Homes, replies, engines -/

/-- The bench's thread. -/
def me : Tid := ⟨1, 0, 0⟩

/-- A request of the bench's thread with one piece or more. -/
def request (op : ReqOp) (ps : List Piece) (dest : Dest) : Req :=
  { id := 7, tid := me, core := 0, op := op, pieces := ps, dest := dest, isLoad := dest != .none, isStore := dest == .none
    counter := if dest = .none then .s else .l, phase := 0, epoch := 0, ea := tcm, fpc := tcm, queue := 0, dataFrom := none
    tile := none, parked := false, held := false, misrouted := false, orphan := false }

/-- It alone in the fabric; the word at 64 holds a value, and is full or empty. -/
def homing (op : ReqOp) (len : Nat) (full : Bool) : State :=
  ({ bench.store (at_ 64) 8 0x1122334455667788 with fabric := [request op [piece (at_ 64) len 0x80] (.raw 3)], fresh := 9 } : State).setFull
    (at_ 64) full

/-- A machine without errors has none in its data caches. -/
theorem clean (s : State) (h : s.poison = []) (hs : s.soft = []) : CachesClean s := fun _ _ => by simp [h, hs]

/-- Nor has it anything to correct. -/
theorem correct_already (s : State) (a n : Nat) (h : s.poison = []) (hs : s.soft = []) : NothingToCorrect s a n := by
  intro w hw; simp [h, hs] at hw

/-- Where no core's registers are listed, none is shadowed-off. -/
theorem unshadowed (s : State) (k : Nat) (h : s.cores = []) : NotShadowed s k := by
  intro g l c _ _; simp [State.core, h, Core.reset]

theorem arrives (op : ReqOp) (len : Nat) (full : Bool)
    (h : (homing op len full).mayPerform (request op [piece (at_ 64) len 0x80] (.raw 3)) (piece (at_ 64) len 0x80) = true)
    (he : (homing op len full).meetsError (request op [piece (at_ 64) len 0x80] (.raw 3)) 0 (piece (at_ 64) len 0x80)
      ((homing op len full).mapKey (at_ 64)) = false)
    (hc : (homing op len full).carveState (at_ 64) = .ok) :
    Arrives (homing op len full) (request op [piece (at_ 64) len 0x80] (.raw 3)) 0 (piece (at_ 64) len 0x80) := by
  have hf : (homing op len full).fabric = [request op [piece (at_ 64) len 0x80] (.raw 3)] := by
    cases full <;> rfl
  have hp : (homing op len full).poison = [] := by cases full <;> rfl
  have hs : (homing op len full).soft = [] := by cases full <;> rfl
  refine ⟨by rw [hf]; rfl, rfl, h, hc, he, correct_already _ _ _ hp hs, clean _ hp hs, by cases full <;> rfl, ?_⟩
  · rw [hf]; intro q hq hp; obtain rfl : q = request op [piece (at_ 64) len 0x80] (.raw 3) := by simpa using hq
    exact absurd hp (by simp [request])

/-- Each operation arrives: with a full word, the last byte of a load; the widest sense. -/
theorem meets_homes_perform :
    Arrives (homing .read 1 true) (request .read [piece (at_ 64) 1 0x80] (.raw 3)) 0 (piece (at_ 64) 1 0x80) ∧
    Arrives (homing .write 8 true) (request .write [piece (at_ 64) 8 0x80] (.raw 3)) 0 (piece (at_ 64) 8 0x80) ∧
    (Arrives (homing (.atomic .cas 5) 8 true) (request (.atomic .cas 5) [piece (at_ 64) 8 0x80] (.raw 3)) 0 (piece (at_ 64) 8 0x80)) ∧
    (Arrives (homing .ldf 8 true) (request .ldf [piece (at_ 64) 8 0x80] (.raw 3)) 0 (piece (at_ 64) 8 0x80) ∧
      (homing .ldf 8 true).isFull ((homing .ldf 8 true).mapKey (at_ 64)) = true) ∧
    (Arrives (homing .stw 8 false) (request .stw [piece (at_ 64) 8 0x80] (.raw 3)) 0 (piece (at_ 64) 8 0x80) ∧
      (homing .stw 8 false).isFull ((homing .stw 8 false).mapKey (at_ 64)) = false) ∧
    (Arrives (homing (.mark .depAdd 65535 theRegion) 4 true) (request (.mark .depAdd 65535 theRegion) [piece (at_ 64) 4 0x80] (.raw 3)) 0
      (piece (at_ 64) 4 0x80) ∧ ((homing (.mark .depAdd 65535 theRegion) 4 true).gridD me.grid).desc.flag 4 = false) := by
  refine ⟨arrives _ _ _ ?_ ?_ ?_, arrives _ _ _ ?_ ?_ ?_, arrives _ _ _ ?_ ?_ ?_, ⟨arrives _ _ _ ?_ ?_ ?_, ?_⟩, ⟨arrives _ _ _ ?_ ?_ ?_, ?_⟩,
    arrives _ _ _ ?_ ?_ ?_, ?_⟩
  all_goals decide +kernel

/-- A write of `BANKPART` of bank 5 at that bank: while a change is in progress, to the value in force, and to more and less. -/
def bankWriting (b : Bank) (v : Word) : State :=
  { bench with banks := [b], fresh := 9, fabric := [request (.bankWrite v) [piece (bankKey 0 5) 8 v] .none] }
def bank5 (cur : Nat) (busy : Option Nat) : Bank := { Bank.reset 5 with w := cur, cur := cur, busy := busy }

theorem bank_arrives (b : Bank) (v : Word)
    (h : let s := bankWriting b v
      let p := piece (bankKey 0 5) 8 v
      s.mayPerform (request (.bankWrite v) [p] .none) p = true ∧ s.meetsError (request (.bankWrite v) [p] .none) 0 p (s.mapKey p.key) = false ∧
        s.carveState p.key = .ok) :
    Arrives (bankWriting b v) (request (.bankWrite v) [piece (bankKey 0 5) 8 v] .none) 0 (piece (bankKey 0 5) 8 v) := by
  refine ⟨rfl, rfl, h.1, h.2.2, h.2.1, correct_already _ _ _ rfl rfl, clean _ rfl rfl, rfl, ?_⟩
  intro q hq hp
  obtain rfl : q = request (.bankWrite v) [piece (bankKey 0 5) 8 v] .none := by simpa [bankWriting] using hq
  exact absurd hp (by simp [request])

theorem meets_bank_writes :
    (Arrives (bankWriting (bank5 2 (some 4)) 1) (request (.bankWrite 1) [piece (bankKey 0 5) 8 1] .none) 0 (piece (bankKey 0 5) 8 1) ∧
      (bank5 2 (some 4)).busy ≠ none) ∧
    ((bank5 2 none).busy = none ∧ (bank5 2 none).retired = [] ∧ (bank5 2 none).cur = 2 ∧ (bankKey 0 5 - 2 ^ 56) / 2 ^ 24 % 1024 = 5) ∧
    (∀ v : Word, v = 2 ∨ v = 15 ∨ v = 1 →
      Arrives (bankWriting (bank5 2 none) v) (request (.bankWrite v) [piece (bankKey 0 5) 8 v] .none) 0 (piece (bankKey 0 5) 8 v)) ∧
    ∀ k, NotShadowed (bankWriting (bank5 2 none) 1) k := by
  refine ⟨⟨bank_arrives _ _ (by decide +kernel), by decide⟩, by decide, fun v hv => bank_arrives _ _ ?_, unshadowed _ |> fun h k => h k rfl⟩
  rcases hv with rfl | rfl | rfl <;> decide +kernel

/-- R64, R65, R356: a waiting value; no change; a growth, cut to 14 megabytes; a shrink, whose megabyte is withdrawn at once. -/
theorem test_bank_writes :
    ([(some 4, 1), (none, 2), (none, 15), (none, 1)].map fun p : Option Nat × Word =>
      let b := (run (.performAtHome 7 0) (bankWriting (bank5 2 p.1) p.2)).bank 5
      (b.w, b.cur, b.busy, b.waiting, b.withdrawn.map (·.1))) =
    [(1, 2, some 4, some 1, []), (2, 2, none, none, []), (14, 2, some 14, none, []), (1, 2, some 1, none, [1])] := by decide +kernel

/-- R150, R152: the word after each operation, and its full/empty bit. -/
theorem test_homes :
    (run (.performAtHome 7 0) (homing .write 4 true)).load (at_ 64) 8 = 0x1122334400000080 ∧
    (run (.performAtHome 7 0) (homing (.atomic .minu 0) 8 true)).load (at_ 64) 8 = 0x80 ∧
    (run (.performAtHome 7 0) (homing .lde 8 true)).isFull (at_ 64) = false ∧
    (run (.performAtHome 7 0) (homing .stw 8 false)).isFull (at_ 64) = true ∧
    (run (.performAtHome 7 0) (homing .join 8 true)).load (at_ 64) 8 = 0x1122334455667787 := by decide +kernel

/-- R206–R208: a word of value 40000 and tick 4 at cycle 5000 (tick 4 of NEXP 10) has not faded; 30000 more saturate it. -/
theorem test_mark_at_home :
    let s := (homing (.mark .depAdd 30000 theRegion) 4 true).store (at_ 64) 4 (40000 * 2 ^ 16 + 4 * 2 ^ 4)
    (run (.performAtHome 7 0) s).load (at_ 64) 4 = 0xFFFF0040 := by decide +kernel

/-- A store of the bench's thread, and a load of its bytes that was issued before. -/
def behind : State :=
  { bench with fresh := 9
               fabric := [{ pendingLoad with pieces := [piece (at_ 71) 1 0] }, request .write [piece (at_ 64) 8 5] .none] }

/-- A load of the bench's thread, and one of another thread of its core to other bytes of that home, issued before. -/
def beside : State :=
  { bench with fresh := 9
               fabric := [{ request .read [piece (at_ 256) 8 0] (.raw 4) with id := 3, tid := ⟨1, 0, 1⟩ }, request .read [piece (at_ 64) 8 0] (.raw 3)] }

/-- A store of a phase that is not yet its turn. -/
def early : State :=
  { bench with fresh := 9, fabric := [{ request .write [piece (at_ 64) 8 5] .none with phase := 3 }], cur := { bench.cur with closed := [⟨2, 7, false, false⟩] } }

/-- A store of the bench's thread behind an older one of it: to the partition of another team in the same scratchpad, and from a bank's
carve-out to the memory of that bank. -/
def sharing (k j : Nat) : State :=
  { (twoTeams [] : State) with
    fresh := 9, fabric := [{ request .write [piece k 8 5] .none with id := 3 }, request .write [piece j 8 5] .none] }

/-- A load of another thread of the same core, issued before, to the share of the other team, which stands on that core too. -/
def sameCore : State :=
  { (stealing 1 0 : State) with
    fresh := 9
    fabric := [{ request .read [piece (tcmKey 1 1 0) 8 0] (.raw 4) with id := 3, tid := ⟨1, 0, 1⟩ }, request .read [piece (at_ 64) 8 0] (.raw 3)] }

/-- A fill of the thread's queued before its store. -/
def filling : State :=
  { bench with
    fresh := 9, fabric := [request .write [piece (at_ 64) 8 5] .none]
    cores := [{ Core.reset 0 with unit := .active 3, mq := [
      { id := 5, words := [0x3F0F05, tcm, 0, 256, 0, 0, 0, 0], tid := me, fpc := tcm, upto := 5, rows := 63, running := true, multiplied := false
        scalesA := [], scalesB := [], writes := [], sends := [], paused := none, untilTret := false }] }] }

/-- A load of a byte of the carve-out that bank 0 grows by. -/
def growing : State :=
  { bench with
    banks := [{ Bank.reset 0 with w := 2, cur := 1, busy := some 2 }], fresh := 9
    fabric := [request .read [piece (carveKey 0 0x100000) 8 0] (.raw 3)] }

theorem one_homes :
    OneHome (sharing (spadKey 1 0 0) (spadKey 1 1 64)) (spadKey 1 1 64) (spadKey 1 0 0) ∧
    OneHome (sharing (carveKey 0 0) 0) 0 (carveKey 0 0) := by
  refine ⟨.inr (.inl ⟨1, 1, 1, 1, 0, 0, ?_, ?_, ?_, ?_, ?_⟩), .inr (.inr (.inr ⟨0, ?_, ?_⟩))⟩
  all_goals decide +kernel

theorem meets_homes_of_two_names :
    (∃ e ∈ (sharing (spadKey 1 0 0) (spadKey 1 1 64)).fabric, e.id < 7 ∧ e.tid = me ∧ ∃ q ∈ e.pieces, q.done = false ∧
      OneHome (sharing (spadKey 1 0 0) (spadKey 1 1 64)) (spadKey 1 1 64) q.key) ∧
    (∃ e ∈ sameCore.fabric, e.id < 7 ∧ e.core = 0 ∧ e.parked = false ∧ e.dataFrom = none ∧ sameCore.ownWait e = false ∧
      sameCore.replayWait e = false ∧ ∃ q ∈ e.pieces, q.done = false ∧ sameCore.destOf q.key = sameCore.destOf (at_ 64) ∧ sameCore.heldThere e q = false) ∧
    (∃ c ∈ filling.cores, ∃ f ∈ c.mq, f.tid = me ∧ (f.words.getD 0 0).toNat % 256 = 5 ∧ f.id < 7 ∧ f.rows < f.m ∧
      (request .write [piece (at_ 64) 8 5] .none).isStore = true) ∧
    (let x := request .read [piece (carveKey 0 0x100000) 8 0] (.raw 3)
     let p := piece (carveKey 0 0x100000) 8 0
     growing.fabric.find? (·.id == x.id) = some x ∧ growing.mayReach x p = true ∧ growing.homeKeeps x p = false ∧ growing.carveState p.key = .hold) :=
  ⟨⟨_, .head _, by decide, rfl, _, .head _, rfl, one_homes.1⟩, ⟨_, .head _, by decide, rfl, rfl, rfl, by decide +kernel, by decide +kernel, _, .head _, rfl,
    by decide +kernel, by decide +kernel⟩, ⟨_, .head _, _, .head _, rfl, by decide, by decide, by decide, rfl⟩, by decide +kernel⟩

/-- R16, R57, R73, R200, R65: none of them is performed; the load of a carve-out that grows is noted as arrived. -/
theorem test_homes_of_two_names :
    (∀ s ∈ [sharing (spadKey 1 0 0) (spadKey 1 1 64), sharing (carveKey 0 0) 0, sameCore, filling],
      (run (.performAtHome 7 0) s).fabric.map (fun x => x.pieces.map (·.done)) = s.fabric.map fun x => x.pieces.map fun _ => false) ∧
    (run (.performAtHome 7 0) growing).fabric.map (fun x => (x.held, x.pieces.map (·.done))) = [(true, [false])] := by decide +kernel

theorem meets_homes_keep_their_order :
    (Arrives (homing .ldf 8 false) (request .ldf [piece (at_ 64) 8 0x80] (.raw 3)) 0 (piece (at_ 64) 8 0x80) ∧
      (homing .ldf 8 false).isFull ((homing .ldf 8 false).mapKey (at_ 64)) = false) ∧
    (Arrives (homing .stw 8 true) (request .stw [piece (at_ 64) 8 0x80] (.raw 3)) 0 (piece (at_ 64) 8 0x80) ∧
      (homing .stw 8 true).isFull ((homing .stw 8 true).mapKey (at_ 64)) = true) ∧
    (behind.fabric.find? (·.id == 7) = some (request .write [piece (at_ 64) 8 5] .none) ∧
      ∃ e ∈ behind.fabric, e.id < 7 ∧ e.tid = me ∧ ∃ q ∈ e.pieces, q.done = false ∧ at_ 64 < q.key + q.len ∧ q.key < at_ 64 + 8) ∧
    (beside.fabric.find? (·.id == 7) = some (request .read [piece (at_ 64) 8 0] (.raw 3)) ∧
      ∃ e ∈ beside.fabric, e.id < 7 ∧ e.tid ≠ me ∧ e.core = 0 ∧ e.parked = false ∧ e.dataFrom = none ∧ beside.ownWait e = false ∧
        beside.replayWait e = false ∧ ∃ q ∈ e.pieces, q.done = false ∧ homeOf q.key = homeOf (at_ 64) ∧ beside.heldThere e q = false) ∧
    (early.fabric.find? (·.id == 7) = some { request .write [piece (at_ 64) 8 5] .none with phase := 3 } ∧
      ∃ x, early.thread? me = some x ∧ ∃ c ∈ x.closed, c.upto ≤ 7) ∧
    (Arrives (homing (.sense [⟨0, 0, at_ 64, theRegion⟩] 4) 8 true) (request (.sense [⟨0, 0, at_ 64, theRegion⟩] 4) [piece (at_ 64) 8 0x80] (.raw 3)) 0
      (piece (at_ 64) 8 0x80)) := by
  refine ⟨⟨arrives _ _ _ ?_ ?_ ?_, ?_⟩, ⟨arrives _ _ _ ?_ ?_ ?_, ?_⟩, ⟨?_, ?_⟩, ⟨?_, _, .head _, ?_⟩, ⟨?_, early.cur, ?_, ?_⟩, arrives _ _ _ ?_ ?_ ?_⟩
  all_goals decide +kernel

theorem test_order_is_kept :
    run (.performAtHome 7 0) behind = behind ∧ run (.performAtHome 7 0) beside = beside ∧ run (.performAtHome 7 0) early = early ∧
    (run (.performAtHome 7 0) (homing .ldf 8 false)).fabric.map (·.parked) = [true] := by decide +kernel

/-- The bench's thread waiting for registers of request 7. -/
def waiting (w : Wait) : Thread :=
  { bench.cur with awaiting := (3, 7) :: eightRegs.map fun d => (d, 7), cntL := 1, cntS := 1, wait := w }

/-- A performed request whose reply is due. -/
def replying (op : ReqOp) (ps : List Piece) (dest : Dest) (w : Wait) : State :=
  { bench with fabric := [request op (ps.map fun p => { p with done := true, val := 0x81 }) dest], fresh := 9, cur := waiting w }

theorem ready (op : ReqOp) (ps : List Piece) (dest : Dest) (w : Wait) :
    Ready (replying op ps dest w) (request op (ps.map fun p => { p with done := true, val := 0x81 }) dest) (waiting w) := by
  refine ⟨rfl, fun p hp => ?_, rfl, rfl, ⟨rfl, rfl⟩, by simp [replying, State.replyBehind], List.not_mem_nil, List.not_mem_nil, rfl, Nat.one_ne_zero⟩
  obtain ⟨q, -, rfl⟩ := List.mem_map.mp hp
  rfl

/-- An append that waits for the value of load 8. -/
def anAppend : Req := { request .write [piece (at_ 128) 4 0] .none with id := 9, dataFrom := some 8, ea := tcm + 128 }

/-- Replies are due to an element of the read stream at `s7`, and to a load into `s6`, to which a write stream is bound. -/
def bothWays : State :=
  { bench with
    fabric := [{ request .read [{ piece (at_ 64) 8 0 with done := true, val := 0x81 }] (.stream 7) with counter := .none },
      { request .read [{ piece (at_ 72) 4 0 with done := true, val := 0x82 }] (.scalar 6 0 4 true) with id := 8 }, anAppend]
    fresh := 10
    cur := { waiting (.fetching 7) with
      awaiting := [(6, 8)], streams := (bench.cur.streams.set 3 (some { boundStream with pending := some 7 })).set 2 (some { boundStream with write := true }) } }

/-- R69, R160, R161: replies of one home come in the order of its events; a fetched element stands behind the others, an append takes the value of its load, and words are at hand for their bundle. -/
theorem test_replies_to_streams :
    (run (.continuationReply 7) bothWays).cur.stream? 7 = some { boundStream with fetched := [⟨0x81, at_ 64, 0⟩] } ∧
    (run (.continuationReply 7) bothWays).cur.wait = .running ∧
    run (.continuationReply 8) bothWays = bothWays ∧
    (run (.continuationReply 8) (run (.continuationReply 7) bothWays)).reg 6 = 0x82 ∧
    (run (.continuationReply 8) (run (.continuationReply 7) bothWays)).fabric.map (fun r => (r.id, r.dataFrom, r.pieces.map (·.data))) = [(9, none, [0x82])] ∧
    (run (.continuationReply 7) (replying .read [piece (at_ 0) 8 0, piece (at_ 8) 8 0] .sync (.fetching 7))).cur.got = [(tcm, [0x81, 0x81])] := by
  decide +kernel

/-- A reply of each kind of destination, and acknowledgements of a store and of a `join`. -/
theorem meets_replies :
    (Ready (replying .read [piece (at_ 64) 1 0] (.scalar 3 0 1 false) .running) (request .read [{ piece (at_ 64) 1 0 with done := true, val := 0x81 }] (.scalar 3 0 1 false))
      (waiting .running) ∧ (3, 7) ∈ (waiting .running).awaiting ∧ (waiting .running).stream? 3 = none) ∧
    (Ready (replying .read (eight.map fun o => piece (at_ o) 8 0) .quad .running)
      (request .read ((eight.map fun o => piece (at_ o) 8 0).map fun p => { p with done := true, val := 0x81 }) .quad) (waiting .running) ∧
      eight.length = 8 ∧ ∀ d ∈ eightRegs, (d, 7) ∈ (waiting .running).awaiting) ∧
    (Ready (replying .read [piece (at_ 0) 8 0] (.row 15 63 0) .running) (request .read [{ piece (at_ 0) 8 0 with done := true, val := 0x81 }] (.row 15 63 0))
      (waiting .running) ∧ ((replying .read [piece (at_ 0) 8 0] (.row 15 63 0) .running).teamD 1 0).tiles[15]? = some Tile.zero) ∧
    (Ready (replying (.sense [⟨0, 0, at_ 0, theRegion⟩] 4) [piece (at_ 0) 256 0] (.sense 3) .running)
      (request (.sense [⟨0, 0, at_ 0, theRegion⟩] 4) [{ piece (at_ 0) 256 0 with done := true, val := 0x81 }] (.sense 3)) (waiting .running)) ∧
    (Ready (replying .write [piece (at_ 0) 8 0] .none .running) (request .write [{ piece (at_ 0) 8 0 with done := true, val := 0x81 }] .none)
      (waiting .running) ∧ ∀ n since, (waiting .running).wait ≠ .joining n since) ∧
    (Ready (replying .join [piece (at_ 0) 8 0] .none (.joining 7 44)) (request .join [{ piece (at_ 0) 8 0 with done := true, val := 0x81 }] .none)
      (waiting (.joining 7 44)) ∧ (waiting (.joining 7 44)).taskAt = none) ∧
    Ready (replying .read [piece (at_ 0) 8 0, piece (at_ 8) 8 0] .sync (.fetching 7))
      (request .read [{ piece (at_ 0) 8 0 with done := true, val := 0x81 }, { piece (at_ 8) 8 0 with done := true, val := 0x81 }] .sync) (waiting (.fetching 7)) ∧
    (Ready (replying .read [piece (at_ 0) 8 0] (.stream 7) (.fetching 7)) (request .read [{ piece (at_ 0) 8 0 with done := true, val := 0x81 }] (.stream 7))
      (waiting (.fetching 7)) ∧ bothWays.cur.stream? 7 = some { boundStream with pending := some 7 }) ∧
    (bothWays.cur.stream? 6 = some { boundStream with write := true } ∧ (6, 8) ∈ bothWays.cur.awaiting ∧
      bothWays.fabric.find? (fun e => e.tid == me && e.dataFrom == some 8) = some anAppend ∧ anAppend.id ≠ 8) :=
  ⟨⟨ready .read [piece (at_ 64) 1 0] _ _, by decide, by decide⟩, ⟨ready _ _ _ _, by decide, by decide⟩,
    ⟨ready .read [piece (at_ 0) 8 0] _ _, by decide +kernel⟩, ready (.sense [⟨0, 0, at_ 0, theRegion⟩] 4) [piece (at_ 0) 256 0] _ _,
    ⟨ready .write [piece (at_ 0) 8 0] _ _, fun n since => nofun⟩, ⟨ready .join [piece (at_ 0) 8 0] _ _, rfl⟩,
    ready .read [piece (at_ 0) 8 0, piece (at_ 8) 8 0] _ _, ⟨ready .read [piece (at_ 0) 8 0] _ _, by decide⟩, by decide, by decide, by decide +kernel, by decide⟩

/-- R147: a byte is sign-extended under view 0; R231: a `join` whose count is not 0 looks for a task. -/
theorem test_replies :
    (run (.continuationReply 7) (replying .read [piece (at_ 64) 1 0] (.scalar 3 0 1 false) .running)).reg 3 = 0xFFFFFFFFFFFFFF81 ∧
    (run (.continuationReply 7) (replying .read [piece (at_ 64) 1 0] (.scalar 3 0 1 true) .running)).reg 3 = 0x81 ∧
    (run (.continuationReply 7) (replying .read [piece (at_ 64) 1 0] (.scalar 3 0 1 true) .running)).cur.cntL = 0 ∧
    (run (.homeAcknowledge 7) (replying .join [piece (at_ 0) 8 0] .none (.joining 7 44))).cur.wait = .next 44 := by decide +kernel

/-- The bench with its thread in a wait, and changed by hand. -/
def inWait (w : Wait) : State := { bench with cur := { bench.cur with wait := w } }

/-- A copy of two rows of 20 bytes. -/
def aCopy : Copy :=
  { id := 5, kind := 0, tid := me, grid := 1, core := 0, cluster := 0, ops := [tcm + 64, tcm + 4099, 20, 2, 256, 24], next := 0, writes := [], promise := 50
    missed := false, paused := none, untilTret := false, counted := true, fpc := 0, upto := 3, entry := none }

/-- The bench with it. -/
def engaged (c : Copy) : State := { bench.store (at_ 64) 8 0x1122334455667788 with copies := [c], fresh := 4, cur := { bench.cur with cntC := 2 } }

/-- A sleeper whose value is the cycle, and the next one; a thread under way, alone and with its access; a closed phase whose accesses are
done, and one with a load outstanding; a promise of the next cycle, of this one, with its copy and without. -/
theorem meets_threads_are_woken :
    (bench.thread? me = some bench.cur ∧ Awake bench bench.cur.core) ∧
    ((5000 : Word).toNat ≤ (observed bench bench.cur).toNat ∧ (observed bench bench.cur).toNat < (5001 : Word).toNat) ∧
    ((inWait (.migrating none)).cur.wait = .migrating none ∧ (inWait (.migrating (some pendingLoad))).cur.wait = .migrating (some pendingLoad)) ∧
    (loading.fabric.find? (·.id == 3) = some pendingLoad ∧ pendingLoad.tid = me) ∧
    (AllPerformed bench me 9 ∧ ¬ AllPerformed loading me 4) ∧
    (let x := { bench.cur with promises := [(4, (5001 : Word)), (5, 5000)] }
     (4, 5001) ∈ x.promises ∧ (5, 5000) ∈ x.promises ∧ (bench.gridD me.grid).desc.flag 4 = false ∧ (∀ c ∈ bench.copies, c.id ≠ 5) ∧
     ∃ c ∈ (engaged aCopy).copies, c.id = 5 ∧ (c.writes ≠ [] ∨ c.next < (c.ops.getD 3 0).toNat)) ∧
    ((⟨1, 9, true, true⟩ : ClosedPhase).far = true ∧ ∀ l ∈ bench.linksDown, l % 256 ≠ 2) := by
  refine ⟨⟨rfl, rfl, rfl⟩, by decide +kernel, ⟨rfl, rfl⟩, ⟨rfl, rfl⟩, ⟨⟨fun r hr => ?_, fun x hx _ v hv => ?_⟩, fun h => ?_⟩, ⟨by decide, by decide, by decide +kernel, ?_, aCopy, .head _, rfl, .inr (by decide)⟩, rfl, nofun⟩
  · exact absurd hr (by simp [bench, State.withBench, State.reset])
  · have h : x = bench.cur := by simpa [bench, State.withBench] using hx
    subst h; exact absurd hv (by simp [bench, State.withBench, Grid.newThread, Thread.vacant])
  · exact absurd (h.1 pendingLoad (by decide) rfl (by decide) (piece (at_ 0) 8 0) (by decide)) (by decide)
  · intro c hc; exact absurd hc (by simp [bench, State.withBench, State.reset])

/-- Every wait is some thread's. -/
theorem meets_waits (w : Wait) : (inWait w).thread? me = some (inWait w).cur ∧ (inWait w).cur.wait = w := ⟨rfl, rfl⟩

/-- The conditions of the waits: counters at their immediates and above; nothing left to perform and a load left; with three closed phases
and with two; a place in a double window and one outside; a spare pair. -/
theorem meets_ends_of_waits :
    ((0 : BitVec 6).toNat ≤ (0 : BitVec 6).toNat ∧ ¬ (1 : BitVec 6).toNat ≤ (0 : BitVec 6).toNat) ∧
    (LoadsPerformedOf bench me bench.fresh ∧ ¬ LoadsPerformedOf loading me loading.fresh) ∧
    (AllPerformed bench me 9 ∧ bench.cur.closed = [] ∧ ¬ AllPerformed loading me 4) ∧
    ((∀ r ∈ bench.fabric, r.id ≠ 3) ∧ ¬ ∀ r ∈ loading.fabric, r.id ≠ 3) ∧
    (bench.cur.cntC = 0 ∧ bench.cur.cntM = 0 ∧ [ph 0, ph 1].length < 3 ∧ ¬ [ph 0, ph 1, ph 2].length < 3) ∧
    (bench.mramBad = [] ∧ (bench.teamD 1 0).core = some 0) ∧
    ((bench.place 1 (windowBase + 64)).1 = .mem (at_ 64) true true ∧ bench.areaOf (at_ 64) = none) := by
  refine ⟨by decide, ⟨bench_performed, loading_not_performed⟩, ⟨meets_threads_are_woken.2.2.2.2.1.1, rfl, meets_threads_are_woken.2.2.2.2.1.2⟩,
    ⟨fun r h => absurd h (by simp [bench, State.withBench, State.reset]), fun h => absurd (h pendingLoad (by decide)) (by decide)⟩, by decide, ⟨rfl, rfl⟩, ?_⟩
  decide +kernel

/-- R155–R157, R75, R83–R85: a wait that ends lets its thread go on at the next bundle, and one that does not leaves it. -/
theorem test_ends_of_waits :
    ([.waitc 0 0 0 0, .performed 9 true, .performed 9 false, .word 3, .fence 2 false, .publ .done 9 0].map fun w : Wait =>
      let t := (inWait w).wakeThread me
      decide (t.cur.wait = .running) && t.cur.pc == tcm + 8) = List.replicate 6 true ∧
    ([.performed 4 true, .performed 4 false, .word 3, .acquire 4].map fun w : Wait =>
      let s := { loading with cur := { loading.cur with wait := w } }
      decide (s.wakeThread me = s)) = List.replicate 4 true ∧
    ((inWait (.acquire 9)).wakeThread me).cur.pc = tcm ∧
    ((inWait (.pfenceKeep 9 true)).wakeThread me).cur.epoch = 1 ∧
    ((inWait .pfenceTile).wakeThread me).core 0 ≠ bench.core 0 := by decide +kernel

theorem test_waking :
    (run (.sleepWake me) (inWait (.sleep 5000 false))).cur.wait = .running ∧ run (.sleepWake me) (inWait (.sleep 5001 false)) = inWait (.sleep 5001 false) := by
  decide +kernel

/-- A `vloop` that stands at its last replay, over one entry whose row steps. -/
def lastReplay : VReplay := ⟨[⟨.vneg rB rB, [60, 60], []⟩], 5, 5, 0, tcm, 100, 0, 0, none, false⟩
def looped : State := { bench with fresh := 1000, cur := { bench.cur with vreplay := some lastReplay } }

theorem meets_replays :
    looped.thread? me = some looped.cur ∧ looped.cur.vreplay = some lastReplay ∧ lastReplay.entries[lastReplay.k]? = some ⟨.vneg rB rB, [60, 60], []⟩ ∧
    looped.replayReady looped.cur lastReplay ⟨.vneg rB rB, [60, 60], []⟩ = true ∧
    (let f := looped.focus me
     let moved := f.replayed me 5 ⟨.vneg rB rB, [60, 60], []⟩
     let start : State := { f with fresh := 104 + 252, cur := { f.cur with pc := tcm } }
     let plan := start.replayAppends moved
     let done := (entryBody moved me ((start.drawnAs plan.after).correctRows me (entryReads moved.instr moved.rows))).replaySelect plan lastReplay moved start.cur
     start.entryStop moved = none ∧ plan.stops = [] ∧ done.cur.wait = .running ∧ done.aborted = false) ∧
    (0 < (rowsOf (.vneg rB rB)).length ∧ (rowsOf (.vneg rB rB)).length = [60, 60].length) := by decide +kernel

/-- R187: replay 5 of a row that stood at 60 goes to row 1. -/
theorem test_replay_steps :
    element 0 (rowAt (run (.vloopReplay me) looped) ⟨14, false, false, 1⟩) 0 = 0x80000000 ∧ (run (.vloopReplay me) looped).cur.vreplay = none := by
  decide +kernel

/-- A stream with one element to fetch, which lies at 64. -/
def fetching : State :=
  { bench with cur := { bench.cur with streams := bench.cur.streams.set 3 (some { boundStream with base := tcm + 40, fetched := [⟨5, 0, 0⟩, ⟨6, 0, 1⟩] }) } }

theorem meets_stream_fetch :
    fetching.cur.stream? 7 = some { boundStream with base := tcm + 40, fetched := [⟨5, 0, 0⟩, ⟨6, 0, 1⟩] } ∧ 1 + 2 < boundStream.count ∧
    boundStream.pending = none ∧ fetching.orphansLeft fetching.cur.core = false ∧ (fetching.cluster (clusterOf fetching.cur.core)).halted = false ∧
    (∃ g, fetching.grid? me.grid = some g ∧ g.state = .placed ∧ g.faults = [] ∧ g.desc.flag 4 = false) ∧
    fetching.cur.wait ≠ .faulted ∧ fetching.cur.wait ≠ .ended ∧ Awake fetching fetching.cur.core ∧
    (let f := fetching.focus me
     let ea := effAddr (tcm + 40) 24
     FitsView (viewOf ea) 8 ∧ locOf ea % 8 = 0 ∧ Mapped f f ea [0] false [at_ 64]) := by
  refine ⟨by decide +kernel, by decide, rfl, by decide +kernel, by decide +kernel, ⟨bench.gridD 1, by decide +kernel⟩, by decide +kernel, by decide +kernel, ⟨rfl, rfl⟩, ?_,
    by decide +kernel, ⟨[(at_ 64, true, true)], ?_, ?_, ?_, ?_⟩⟩
  case refine_1 => unfold FitsView; decide +kernel
  all_goals decide +kernel

/-- R160: the next element is asked for. -/
theorem test_stream_fetch :
    (run (.streamFetch me 7) fetching).fabric.map (fun r => (r.dest, r.pieces.map (·.key))) = [(.stream 7, [at_ 64])] := by decide +kernel

/-- A team with a double window from offset 0 of its share. -/
def windowed : State := (inWait (.publ .exchange 0 (windowBase + 64))).modTeam 1 0 fun t => { t with windows := [⟨false, 0, 128, false, 0, []⟩] }

theorem meets_window_exchange :
    windowed.cur.wait = .publ .exchange 0 (windowBase + 64) ∧ (windowed.place me.grid (windowBase + 64)).1 = .mem (at_ 64) true true ∧
    windowed.areaOf (at_ 64) = some (1, 0, false, 0) ∧ windowed.halfRead (fun q => windowed.areaOf q == some (1, 0, false, 0)) = false := by
  decide +kernel

theorem test_window_exchange : ((run (.windowExchange me) windowed).teamD 1 0).windows.map (·.flipped) = [true] := by decide +kernel

theorem meets_copies_go_on :
    ((engaged aCopy).copies.find? (·.id == 5) = some aCopy ∧ (engaged aCopy).powered = true ∧ ((engaged aCopy).cluster 0).halted = false ∧
      (aCopy.ops.getD 3 0).toNat ≤ ({ aCopy with next := 2 } : Copy).next) ∧
    (∃ v keys, (engaged aCopy).engineRead (.grid 1) me 3 (tcm + 64) 20 = (.bytes v, engaged aCopy) ∧
      (engaged aCopy).engineCheck (.grid 1) (tcm + 4099) 20 true = (.ok keys, engaged aCopy) ∧ (engaged aCopy).straddlesArea keys = false) ∧
    (let s := engaged { aCopy with next := 2, writes := [piece (at_ 67) 5 0x1122334455] }
     1 ≤ 5 ∧ s.carveState (at_ 67) = .ok ∧ s.reachHeld (at_ 67) = false ∧ s.homeless (s.copyKey (at_ 67)) = false ∧
     s.poisoned (s.copyKey (at_ 67)) 5 = false ∧ isKeep (s.copyKey (at_ 67)) = false ∧ s.chunkWrites = none) ∧
    (let s := engaged { aCopy with next := 2, writes := [piece (at_ 67) 5 0x1122334455] }
     CachesClean s ∧ NothingToCorrect s (s.copyKey (at_ 67)) 5 ∧ NotShadowed s (s.copyKey (at_ 67))) := by
  refine ⟨by decide +kernel, ⟨0x1122334455667788, [at_ 4099, at_ 4104, at_ 4112], ?_, ?_, ?_⟩, by decide +kernel, clean _ rfl rfl, correct_already _ _ _ rfl rfl,
    unshadowed _ _ rfl⟩
  all_goals decide +kernel

/-- A gather and a scatter of two rows of 20 bytes, whose second index is 3, at a scale of 24. -/
def indexed (kind : Nat) : Copy :=
  { aCopy with kind := kind, ops := [tcm + 64, tcm + 4099, 20, 2, tcm + 1024, 24], next := 1 }
def gathering (kind : Nat) : State :=
  let s := engaged (indexed kind)
  (s.store (at_ 1028) 4 3).store (at_ (64 + 72)) 8 0x1122334455667788

theorem meets_indexed_copies :
    (let s := gathering 1
     (indexed 1).writes = [] ∧ (indexed 1).next < 2 ∧
     s.engineRead (.grid 1) me 3 (effAddr (tcm + 1024) 4) 4 = (.bytes 3, s) ∧
     s.engineRead (.grid 1) me 3 (effAddr (tcm + 64) 72) 20 = (.bytes 0x1122334455667788, s) ∧
     (∃ keys, s.engineCheck (.grid 1) (effAddr (tcm + 4099) 20) 20 true = (.ok keys, s) ∧ s.straddlesArea keys = false)) ∧
    (let s := gathering 2
     s.engineRead (.grid 1) me 3 (effAddr (tcm + 64) 20) 20 = (.bytes 0, s) ∧
     (∃ keys, s.engineCheck (.grid 1) (effAddr (tcm + 4099) 72) 20 true = (.ok keys, s) ∧ s.straddlesArea keys = false)) := by
  refine ⟨⟨rfl, by decide, ?_, ?_, [at_ 4119, at_ 4120, at_ 4128, at_ 4136], ?_, ?_⟩, ?_, [at_ 4171, at_ 4176, at_ 4184], ?_, ?_⟩
  all_goals decide +kernel

/-- R164: a gather reads the row that its index names and writes it in turn; a scatter the other way round. -/
theorem test_indexed_copies :
    ((run (.copyTransfer 5) (gathering 1)).copies.map fun c => (c.next, c.writes.map fun p => (p.key, p.len, p.data))) =
      [(2, [(at_ 4119, 1, 0x88), (at_ 4120, 8, 0x11223344556677), (at_ 4128, 8, 0), (at_ 4136, 3, 0)])] ∧
    ((run (.copyTransfer 5) (gathering 2)).copies.map fun c => (c.next, c.writes.map fun p => (p.key, p.len))) =
      [(2, [(at_ 4171, 5), (at_ 4176, 8), (at_ 4184, 7)])] := by decide +kernel

/-- An engine's read of five bytes that lie in two units, and one of the matrix queue window. -/
theorem meets_engine_reads :
    (bench.engineCheck (.grid 1) (tcm + 69) 5 false = (.ok [at_ 69, at_ 72], bench) ∧
      ∀ p ∈ [at_ 69, at_ 72].zip (units8 (locOf (tcm + 69)) 5), bench.storePending me 3 p.1 p.2.2 = false ∧ bench.engineHeld p.1 = false ∧
        bench.poisoned (bench.mapKey p.1) p.2.2 = false) ∧
    (engaged aCopy).engineRead (.grid 1) me 3 (tcm + 69) 3 = (.bytes 0x112233, engaged aCopy) ∧
    (∃ o, bench.engineCheck (.grid 1) 0xF100000000000 8 false = (.queueWindow o, bench)) ∧
    bench.engineReads me 3 [(tcm + 64, 8), (tcm + 72, 8)] = (.ok [0, 0], bench) := by
  refine ⟨?_, ?_, ⟨0, ?_⟩, ?_⟩
  all_goals decide +kernel

theorem test_copy_writes :
    (run (.copyTransfer 5) { engaged { aCopy with next := 2, writes := [piece (at_ 67) 5 0xAABBCCDDEE] } with oracle := [0] }).load (at_ 64) 8 =
      0xAABBCCDDEE667788 ∧
    (run (.copyTransfer 5) (engaged { aCopy with next := 2 })).cur.cntC = 1 := by decide +kernel

/-! ### The matrix unit -/

/-- The header of a record with M = m, N = n, K = k (R119). -/
def header (kind tc flags m n k : Nat) : Word := BitVec.ofNat 64 (kind + tc * 256 + flags + (m - 1) * 2 ^ 16 + (n - 1) * 2 ^ 24 + (k - 1) * 2 ^ 32)

/-- An address in the bench's TCM under a view. -/
def inTcm (view off : Nat) : Word := BitVec.ofNat 64 (view * 2 ^ 52 + windowBase + off)

/-- A record of the bench's thread. -/
def record (words : List Word) (rows : Nat) : MRec :=
  { id := 5, words := words, tid := me, fpc := tcm, upto := 5, rows := rows, running := rows != 0, multiplied := false, scalesA := [], scalesB := []
    writes := [], sends := [], paused := none, untilTret := false }

/-- A core whose unit is active, with the record at the head of its queue and another behind it. -/
def unitOf' (r : MRec) : Core := { Core.reset 0 with mq := [r, { r with id := 6 }], unit := .active 3 }

/-- The bench with it; A is 2.0 in BF16 or 1.0 in E4M3 or 2 in INT8, and B is 3.0 or 1.0 or 3. -/
def multiplying (ty : BitVec 2) (a b : Nat) (r : MRec) : State :=
  let s := ((bench.store (at_ 0) 2 a).store (at_ 4096) 2 b).modTeam 1 0 fun t => { t with tiles := t.tiles.set 15 { Tile.zero with type := ty } }
  { s with cores := [unitOf' r], cur := { s.cur with cntM := 2 } }

/-- Its one core is on. -/
theorem awake (s : State) (r : MRec) (h : s.cores = [unitOf' r]) (k : Nat) : NotShadowed s k := by
  intro g l c _ _; simp only [State.core, h, List.find?]; split <;> simp [unitOf', Core.reset]

/-- `mma` of BF16, its last of 64 rows; `mma.s` of E4M3; `mma.sp` with a mask of sixteen. -/
def mmaRec : MRec := record [header 1 15 0x1000 64 1 1, inTcm 2 0, inTcm 2 4096, 64 * 65536, 0, 0, 0, 0] 63
def mmaInt : MRec := record [header 1 15 0 1 1 1, inTcm 4 0, inTcm 4 4096, 64 * 65536, 0, 0, 0, 0] 0
def mmaSRec : MRec := record [header 2 15 0 1 1 1, inTcm 1 0, inTcm 1 4096, 64 * 65536 + 1 + 16 * 2 ^ 32 + 4 * 2 ^ 48, inTcm 0 8192, inTcm 0 12288, 0, 0] 0
def mmaSpRec : MRec := record [header 3 15 0 1 1 32, inTcm 1 0, inTcm 1 4096, 64 * 65536 + 32 + 16 * 2 ^ 32 + 4 * 2 ^ 48, inTcm 0 8192, inTcm 0 12288, inTcm 0 16384, 0] 0

def spState : State := (multiplying 0 0x38 0x38 mmaSpRec).store (at_ 16384) 4 0x0F0FF0F0

/-- A row that may be multiplied, and what its reads give. -/
def MultiplyReady (s : State) (kind : Nat) (scaled : Bool) (r : MRec) (l : List Nat) : Prop :=
  HeadRuns s 0 kind r ∧ r.rows < rowsOfRec r ∧ s.recBad r = none ∧ s.tcError r = false ∧ r.readMisaligned r.rows = none ∧
  s.engineReads r.tid r.upto (readsOfRow r kind scaled r.rows) = (.ok l, s) ∧
  (s.teamD 1 0).tiles[15]? = some (tileAt s 15) ∧ tileOfRec r = 15 ∧ s.soft = []

theorem meets_mma : MultiplyReady (multiplying 0 0x4000 0x4040 mmaRec) 1 false mmaRec [0x4000, 0x4040] := by
  unfold MultiplyReady HeadRuns; decide +kernel

theorem meets_mma_s : MultiplyReady (multiplying 0 0x38 0x38 mmaSRec) 2 true mmaSRec [0x38, 0, 0, 0x38] := by
  unfold MultiplyReady HeadRuns; decide +kernel

theorem meets_mma_sp :
    MultiplyReady spState 3 true mmaSpRec ([0x38, 0x0F0FF0F0, 0, 0, 0x38] ++ List.replicate 31 0) ∧
    ((List.range 32).filter fun p => (piecewise 4 0x0F0FF0F0 0).testBit p).length = presentOfRec mmaSpRec := by
  unfold MultiplyReady HeadRuns; decide +kernel

/-- R195, R196: 2 · 3 in BF16 accumulates in FP32 from zero, row 63 is the last; in INT8 it is 6. -/
theorem test_mma :
    (let s := (multiplying 0 0x4000 0x4040 { mmaRec with rows := 0, running := false })
     element 0 (rowAt (run (.mma 0) s) ⟨15, false, false, 0⟩) 0 = 0x40C00000 ∧ ((run (.mma 0) s).core 0).mq.map (·.rows) = [1, 0]) ∧
    ((run (.mma 0) (multiplying 0 0x4000 0x4040 mmaRec)).core 0).mq.map (·.id) = [6] ∧
    element 2 (rowAt (run (.mma 0) (multiplying 2 2 3 mmaInt)) ⟨15, false, false, 0⟩) 0 = 6 := by decide +kernel

/-- A court of four teams, each with two double windows and a matrix record that rotates. -/
def rotWords' : List Word :=
  [header 4 15 0x1000 1 1 1, inTcm 2 0, inTcm 2 4096, 64 * 65536 + 64, 0, 0, inTcm 0 8192, inTcm 0 16384]
def rotRec (rows : Nat) : MRec := record rotWords' rows

def court (steps : Nat) (r : MRec) : State :=
  let s := multiplying 0 0x4000 0x4040 r
  { s with
    grids := s.grids.map fun g => { g with desc := { g.desc with flags := 0x764, shape := g.desc.shape + 3 } }
    teams := [(0, 0), (1, 1), (2, 32), (3, 33)].flatMap fun (p : Nat × Nat) => s.teams.map fun t => { t with
      lteam := p.1, core := some p.2, windows := [⟨false, 8192, 64, false, steps, []⟩, ⟨false, 16384, 64, false, steps, []⟩] } }

theorem meets_mrot_row :
    HeadRuns (court 0 (rotRec 0)) 0 4 (rotRec 0) ∧ (rotRec 0).rows < rowsOfRec (rotRec 0) ∧ (court 0 (rotRec 0)).recBad (rotRec 0) = none ∧
    (court 0 (rotRec 0)).tcError (rotRec 0) = false ∧ ((rotRec 0).words.getD 0 0).getLsbD 14 = false ∧
    (court 0 (rotRec 0)).engineReads me 5 (readsOfRow (rotRec 0) 4 false 0) = (.ok [0x4000, 0x4040], court 0 (rotRec 0)) := by
  unfold HeadRuns; decide +kernel

/-- The blocks of the step, sent to the neighbours in the court. -/
def blocks : List (Nat × List Piece) := match ((court 0 (rotRec 1)).rotSends (rotRec 1) [0, 1]).1 with | .ok l => l | _ => []

theorem meets_mrot_sends :
    HeadRuns (court 0 (rotRec 1)) 0 4 (rotRec 1) ∧ rowsOfRec (rotRec 1) ≤ (rotRec 1).rows ∧
    (court 0 (rotRec 1)).rotSends (rotRec 1) [0, 1] = (.ok blocks, court 0 (rotRec 1)) ∧ ((court 0 (rotRec 1)).core 0).num = 0 ∧
    blocks.map (·.1) = [0, 1] := by
  unfold HeadRuns; decide +kernel

/-- With scales, of which the multiply has read one for the row and one for the block: they are sent as they were read. -/
def scaledRec : MRec :=
  { record [header 4 15 0x5000 1 1 1, inTcm 1 0, inTcm 1 4096, 64 * 65536 + 64 + 4 * 2 ^ 32 + 4 * 2 ^ 48, inTcm 0 24576, inTcm 0 28672, inTcm 0 8192, inTcm 0 16384] 1 with
    scalesA := [0x40000000], scalesB := [0x3F800000] }

theorem meets_mrot_scales :
    (∀ tag ∈ [2, 3], tag < 4) ∧ ∃ l, (court 0 scaledRec).rotSends scaledRec [2, 3] = (.ok l, court 0 scaledRec) := by
  refine ⟨by decide, match ((court 0 scaledRec).rotSends scaledRec [2, 3]).1 with | .ok l => l | _ => [], ?_⟩
  decide +kernel

/-- R99, R199: a scale in memory that was changed after the multiply is not what is sent. -/
theorem test_mrot_scales :
    (match (((court 0 scaledRec).store (tcmKey 1 0 24576) 4 0x11111111).rotSends scaledRec [2, 3]).1 with
      | .ok l => l.map fun p => (p.1, p.2.map fun x => (x.len, x.data)) | _ => []) =
      [(2, [(4, 0x40000000)]), (3, [(4, 0x3F800000)])] := by decide +kernel

theorem meets_mrot_end :
    let r := { rotRec 1 with multiplied := true }
    HeadRuns (court 1 r) 0 4 r ∧ r.sends = [] ∧ (court 1 r).rotExchanged r = true ∧ (court 1 r).rotWindows r = [(0, 0), (1, 1)] := by
  unfold HeadRuns; decide +kernel

/-- Two units left of one block. -/
def sending : MRec := { rotRec 1 with multiplied := true, sends := [(0, [piece (tcmKey 1 1 8192) 8 1, piece (tcmKey 1 1 8200) 8 2])] }

theorem meets_mrot_send :
    let s := { court 0 sending with oracle := [0] }
    HeadRuns s 0 4 sending ∧ s.rotMaySend sending 0 = some true ∧ s.draw.2 = { s with oracle := [] } ∧
    ([piece (tcmKey 1 1 8192) 8 1, piece (tcmKey 1 1 8200) 8 2].all fun x => decide (x.key < 2 ^ 55) && !s.homeless (s.copyKey x.key) &&
      !isKeep (s.copyKey x.key) && !s.reachHeld x.key && x.len == 8) = true ∧ s.chunkWrites = none ∧ CachesClean s ∧ ∀ k, NotShadowed s k := by
  refine ⟨by unfold HeadRuns; decide +kernel, by decide +kernel, by decide +kernel, by decide +kernel, rfl, clean _ rfl rfl, awake _ sending rfl⟩

theorem meets_mrot_exchange :
    let r := { rotRec 1 with multiplied := true }
    let s := (court 0 r).modTeam 1 0 fun t => { t with windows := t.windows.map fun w => { w with recv := [0, 1] } }
    s.rotRecord 1 0 = some r ∧ (s.teamD 1 0).windows[1]? = some ⟨false, 16384, 64, false, 0, [0, 1]⟩ ∧ s.rotWindows r = [(0, 0), (1, 1)] ∧
    0 ≤ (s.teamD 1 0).mrotStep ∧ s.halfRead (fun k => s.areaOf k == some (1, 0, false, 16384)) = false := by decide +kernel

/-- `st.q` into the matrix queue window with seven records queued, and with eight. -/
def queued (n : Nat) : State :=
  withRegs [(2, 0xF100000000000), (8, header 7 0 0 1 1 1)]
    { bench with cores := [{ Core.reset 0 with mq := List.replicate n mmaRec, unit := .active 3 }], fresh := 9 }

theorem meets_queueing :
    viewOf (effAddr ((queued 7).reg 2) 448) < 6 ∧ locOf (effAddr ((queued 7).reg 2) 448) % 64 = 0 ∧
    0xF100000000000 ≤ locOf (effAddr ((queued 7).reg 2) 448) ∧ locOf (effAddr ((queued 7).reg 2) 448) < 0xF100000000000 + 512 ∧
    ¬ Replays (queued 7) ∧ ((queued 7).core 0).mq.length < 8 ∧ 8 ≤ ((queued 8).core 0).mq.length := by
  unfold Replays; decide +kernel

theorem test_queueing :
    ((run (.stQ 2 448) (queued 7)).core 0).mq.length = 8 ∧ (run (.stQ 2 448) (queued 7)).cur.cntM = 1 ∧
    run (.stQ 2 448) (queued 8) = { queued 8 with aborted := true } := by decide +kernel

/-- A record with a reserved bit set. -/
def badRec : MRec := record [header 7 15 0x8000 1 1 1, 0, 0, 0, 0, 0, 0, 0] 0

/-- A fill is queued while no other thread has the number of its own. -/
theorem meets_queueing_a_fill :
    (let s := withRegs [(8, header 5 15 0 64 1 1)] (queued 7)
     (s.reg 8).toNat % 256 = 5 ∧ (∀ y ∈ s.rest, y.id ≠ s.cur.id) ∧ (s.core 0).mq.length < 8) := by decide +kernel

theorem meets_illegal_record :
    ((multiplying 0 0 0 badRec).core 0).mq.head? = some badRec ∧ badRec.illegal = true ∧ (multiplying 0 0 0 badRec).recRuns 0 badRec = true := by
  decide +kernel

/-- The last row of a fill; a drain's first row, its last unit, its end; a tile to clear. -/
def fillRec : MRec := record [header 5 15 0 64 1 1, inTcm 0 0, 0, 256, 0, 0, 0, 0] 63
def drainRec (rows : Nat) : MRec := record [header 6 15 0 1 1 1, inTcm 0 0, 0, 256, inTcm 0 32768, 0, 0, 0] rows
def zeroRec : MRec := record [header 7 15 0 1 1 1, 0, 0, 0, 0, 0, 0, 0] 0

theorem meets_fill :
    let s := multiplying 0 0x4000 0x4040 fillRec
    HeadRuns s 0 5 fillRec ∧ s.recBad fillRec = none ∧ fillRec.rows + 1 = rowsOfRec fillRec ∧ s.fillBehind fillRec (effAddr (inTcm 0 0) (256 * 63)) 256 = false ∧
    locOf (effAddr (inTcm 0 0) (256 * 63)) % 8 = 0 ∧ s.engineRead (.grid 1) me 5 (effAddr (inTcm 0 0) (256 * 63)) 256 = (.bytes 0, s) := by
  unfold HeadRuns; decide +kernel

/-- A load of a byte of the row, issued before the fill and not yet performed. -/
def loadingFilled : State := { multiplying 0 0x4000 0x4040 fillRec with fabric := [{ pendingLoad with pieces := [piece (at_ (256 * 63 + 255)) 1 0] }] }

theorem meets_fill_behind :
    HeadRuns loadingFilled 0 5 fillRec ∧ loadingFilled.recBad fillRec = none ∧ locOf (effAddr (inTcm 0 0) (256 * 63)) % 8 = 0 ∧
    (loadingFilled.teamD 1 0).tiles[tileOfRec fillRec]? = some (tileAt loadingFilled 15) ∧
    ∃ q ∈ loadingFilled.fabric, q.tid = fillRec.tid ∧ q.id < fillRec.id ∧ q.isLoad = true ∧ ∃ p ∈ q.pieces, p.done = false ∧
      ∃ u ∈ loadingFilled.unitsNow 1 (effAddr (inTcm 0 0) (256 * 63)) 256, p.key < u.1 + u.2 ∧ u.1 < p.key + p.len := by
  refine ⟨by unfold HeadRuns; decide +kernel, ?_, ?_, ?_, _, .head _, rfl, ?_, rfl, _, .head _, rfl, (at_ (256 * 63 + 248), 8), ?_, ?_⟩
  all_goals decide +kernel

/-- R73, R200: the fill waits for it. -/
theorem test_fill_waits : run (.mfill 0) loadingFilled = loadingFilled := by decide +kernel

theorem meets_drain :
    (let s := multiplying 0 0 0 (drainRec 0)
     HeadRuns s 0 6 (drainRec 0) ∧ s.recBad (drainRec 0) = none ∧ (drainRec 0).rows < rowsOfRec (drainRec 0) ∧ tileErr me 15 0 ∉ s.poison ∧ tileErr me 15 0 ∉ s.soft ∧
     s.engineCheck (.grid 1) (effAddr (inTcm 0 0) 0) 256 true = (.ok ((List.range 32).map fun i => at_ (8 * i)), s)) ∧
    (let p := piece (at_ 3) 5 0xAABBCCDDEE
     let s := multiplying 0 0 0 { drainRec 0 with running := true, writes := [p] }
     HeadRuns s 0 6 { drainRec 0 with running := true, writes := [p] } ∧ s.carveState p.key = .ok ∧ s.reachHeld p.key = false ∧
     s.homeless (s.mapKey p.key) = false ∧ s.poisoned (s.mapKey p.key) p.len = false ∧ isKeep (s.mapKey p.key) = false ∧
     NotShadowed s (s.mapKey p.key) ∧ NothingToCorrect s (s.mapKey p.key) p.len ∧ CachesClean s ∧ s.chunkWrites = none) ∧
    (let s := multiplying 0 0 0 (drainRec 1)
     HeadRuns s 0 6 (drainRec 1) ∧ rowsOfRec (drainRec 1) ≤ (drainRec 1).rows ∧
     s.engineCheck (.grid 1) (effAddr (inTcm 0 32768) 0) 8 true = (.ok [at_ 32768], s) ∧ s.carveState (at_ 32768) = .ok ∧
     s.reachHeld (at_ 32768) = false ∧ NotShadowed s (s.mapKey (at_ 32768)) ∧ s.homeless (s.mapKey (at_ 32768)) = false ∧
     isKeep (s.mapKey (at_ 32768)) = false ∧ CachesClean s ∧ s.chunkWrites = none ∧ (tileAt s 15).sumBad = false) := by
  refine ⟨by unfold HeadRuns; decide +kernel, ⟨by unfold HeadRuns; decide +kernel, by decide +kernel, by decide +kernel, by decide +kernel, by decide +kernel,
    by decide +kernel, awake _ _ rfl _, correct_already _ _ _ rfl rfl, clean _ rfl rfl, rfl⟩, by unfold HeadRuns; decide +kernel, by decide +kernel, by decide +kernel,
    by decide +kernel, by decide +kernel, awake _ _ rfl _, by decide +kernel, by decide +kernel, clean _ rfl rfl, rfl, by decide +kernel⟩

theorem meets_zero :
    HeadRuns (multiplying 0 0 0 zeroRec) 0 7 zeroRec ∧ (multiplying 0 0 0 zeroRec).recBad zeroRec = none := by
  unfold HeadRuns; decide +kernel

/-- R200, R201: the status word of a drain of one row of a valid tile; a fill of the last row. -/
theorem test_drain_and_fill :
    (run (.mdrain 0) (multiplying 0 0 0 (drainRec 1))).load (at_ 32768) 8 = 0x103 ∧
    (tileAt (run (.mfill 0) (multiplying 0 0 0 fillRec)) 15).valid = true ∧
    ((run (.mzero 0) (multiplying 0 0 0 zeroRec)).core 0).mq.length = 1 := by decide +kernel

/-- R199: the multiply over, the step ends; a block's unit is sent; the windows are exchanged. -/
theorem test_mrot :
    (let r := { rotRec 1 with multiplied := true }
     let t := run (.mrot 0) (court 1 r)
     (t.core 0).mq.map (·.id) = [6] ∧ (t.teamD 1 0).mrotStep = 1 ∧ (t.teamD 1 0).mrotWins = [(0, 0), (1, 0)] ∧ t.cur.cntM = 1) ∧
    (let s := { court 0 sending with oracle := [0] }
     let t := run (.mrotSend 0) s
     t.load (tcmKey 1 1 8256) 8 = 1 ∧ (t.core 0).mq.map (·.sends.map fun p => p.2.length) = [[1], [2]]) ∧
    (let r := { rotRec 1 with multiplied := true }
     let s := (court 0 r).modTeam 1 0 fun t => { t with windows := t.windows.map fun w => { w with recv := [0, 1] } }
     (run (.mrotExchange 1 0 1) s).teams.map (fun q => q.windows.map fun w => (w.flipped, w.step, w.recv.length)) =
       [[(false, 0, 2), (true, 1, 0)], [(false, 0, 0), (false, 0, 0)], [(false, 0, 0), (false, 0, 0)], [(false, 0, 0), (false, 0, 0)]]) := by
  decide +kernel

/-! ### The rein, the modes, background work -/

/-- Cores 0 and 1 of cluster 0, both asking for their units, at cycle 5000; and both active with empty queues. -/
def asking : State :=
  { bench with cores := [{ Core.reset 0 with unit := .requesting 9, mq := [mmaRec] }, { Core.reset 1 with unit := .requesting 9, mq := [mmaRec] }] }
def idling : State :=
  { bench with cores := [{ Core.reset 0 with unit := .active 3, emptied := 41 }, { Core.reset 1 with unit := .active 3, emptied := 43 }] }
def descending (c : Word) : State := { bench with cycle := 5000 + c, cores := [{ Core.reset 0 with unit := .steppingDown 5000 }] }

theorem meets_rein :
    (0 ∈ clusterCores 0 ∧ asking.cycle.toNat % 4 = 0 ∧ (∀ d ∈ clusterCores 0, (asking.core d).unit ≠ .active asking.cycle) ∧
      (asking.core 0).unit = .requesting 9 ∧ (asking.core 1).unit = .requesting 9 ∧ clusterCores 0 = [0, 1, 2, 3, 32, 33, 34, 35] ∧
      (asking.core 32).unit = .inactive) ∧
    ({ asking with cycle := 5003 } : State).cycle.toNat % 4 ≠ 0 ∧
    ((run (.reinAdmission 0) asking).core 0).unit = .active asking.cycle ∧
    ((∀ d ∈ clusterCores 0, (idling.core d).unit ≠ .steppingDown (idling.cycle - 4)) ∧ (idling.core 0).unit = .active 3 ∧ (idling.core 0).mq = [] ∧
      idling.cycle.toNat % 4 = 0 ∧ (idling.core 0).emptied.toNat < idling.cycle.toNat ∧
      (idling.core 0).emptied.toNat / 4 = (idling.core 1).emptied.toNat / 4) ∧
    ((run (.reinStepDown 0) idling).core 0).unit = .steppingDown (idling.cycle - 4) ∧ ({ idling with cycle := 5003 } : State).cycle.toNat % 4 ≠ 0 ∧
    ((descending 64).core 0).unit = .steppingDown 5000 ∧ 5000 + 4 * 16 ≤ (descending 64).cycle.toNat ∧ (descending 63).cycle.toNat < 5000 + 4 * 16 ∧
    (bench.cycle.toNat % 4 = 0 ∧ ∀ d ∈ clusterCores 0, (bench.core d).unit = .inactive) ∧
    (0 ∈ clusterCores 0 ∧ ((descending 63).core 0).unit = .steppingDown 5000) ∧
    ({ bench with cycle := 0x300000 } : State).cycle.toNat % 2 ^ 20 = 0 ∧ bench.cycle.toNat % 2 ^ 20 ≠ 0 := by decide +kernel

/-- R203, R270: one of two is admitted, and only one steps down; 16 steps later it is inactive. -/
theorem test_rein :
    ((run (.reinAdmission 0) asking).core 1).unit = .requesting 9 ∧ run (.reinAdmission 0) (run (.reinAdmission 0) asking) = run (.reinAdmission 0) asking ∧
    ((run (.reinStepDown 0) idling).core 1).unit = .active 3 ∧
    ((run (.stepDownComplete 0) (descending 64)).core 0).unit = .inactive ∧ run (.stepDownComplete 0) (descending 63) = descending 63 := by decide +kernel

/-- R20, R290, R291: the modes written wait for their instants. -/
theorem test_modes :
    let s := run (.pkgmodeWrite 6) bench
    s.host.budget = 2 ∧ s.host.budgetInForce = 1 ∧ s.host.fast = true ∧ (s.cluster 0).fast = false ∧
    ((run (.reinTableChange 0) s).cluster 0).fast = true ∧ (run .budgetChange { s with cycle := 0x300000 }).host.budgetInForce = 2 := by decide +kernel

/-- A bank whose carve-out shrinks from three megabytes to one, with a word in the second and another in the first. -/
def shrinking : State :=
  let s := (bench.store (carveKey 5 0x100000) 8 77).store (carveKey 5 0xFFFF8) 8 78
  { s with banks := [{ Bank.reset 5 with w := 1, cur := 3, busy := some 1 }], empty := [carveKey 5 0x100000 / 8] }

theorem meets_bank_change :
    shrinking.fabric = [] ∧ (shrinking.bank 5).busy = some 1 ∧ (shrinking.bank 5).waiting = none ∧
    (run (.bankpartChangeEnd 5) shrinking).load (carveKey 5 0x100000) 8 = 0 ∧ (run (.bankpartChangeEnd 5) shrinking).load (carveKey 5 0xFFFF8) 8 = 78 ∧
    (run (.bankpartChangeEnd 5) shrinking).isFull (carveKey 5 0x100000) = true ∧ (run (.bankpartChangeEnd 5) shrinking).bank 5 = { Bank.reset 5 with w := 1, cur := 1, withdrawn := ((run (.bankpartChangeEnd 5) shrinking).bank 5).withdrawn } := by
  decide +kernel

/-- A ring of eight telemetry records at 0x8000, and the interrupt address 0x9000. -/
def ringed (s : State) : State := { s with host := { s.host with telbase := 0x8000, telSize := 8, telTail := 7, telHead := 1, irqaddr := 0x9000 } }

/-- A bank of 14 megabytes. -/
def wide : State := ringed ({ bench with banks := [{ Bank.reset 5 with w := 14, cur := 14 }] }.store (carveKey 5 0xA00000) 8 77)

/-- R347, R343: quadrant 2 fails: ten megabytes are left, and four ways; the record is written at TAIL and interrupts. -/
theorem meets_bus_failure :
    2 ∉ (wide.bank 5).retired ∧
    (let t := run (.verticalBusFailure 5 2) wide
     (t.bank 5).cur = 10 ∧ t.load (carveKey 5 0xA00000) 8 = 0 ∧ t.load (0x8000 + 32 * 7) 8 = 5000 ∧
     t.load (0x8000 + 32 * 7 + 8) 8 = BitVec.ofNat 64 (3 + 3 * 256 + 5 * 65536) ∧ t.load (0x8000 + 32 * 7 + 24) 8 = BitVec.ofNat 64 (2 + 10 * 256 + 2 * 65536) ∧
     t.load 0x9000 4 = 4 ∧ t.host.telTail = 0) := by decide +kernel

/-- The second mark word of the region, value 0x8000 and stamp 4, at a tick (2^10 cycles each). -/
def sweeping (tick : Nat) : State := { marking with cycle := BitVec.ofNat 64 (1024 * tick) }.store 0x50004 4 0x80000040

theorem meets_sweep :
    ((sweeping 2053).gridD 1).sweeps 0 = true ∧ 4 * 1 < (((sweeping 2053).gridD 1).regionNo 0).size ∧ ((sweeping 2053).gridD 1).replay.apart = none ∧
    (sweeping 2053).keyNow 1 ((((sweeping 2053).gridD 1).regionNo 0).base + 4 * 1) = some 0x50004 ∧
    (∃ x, ((sweeping 2053).gridD 1).region ((((sweeping 2053).gridD 1).regionNo 0).base + 4 * 1) = some x ∧ x.num = (((sweeping 2053).gridD 1).regionNo 0).num) ∧
    (sweeping 2053).poisoned ((sweeping 2053).mapKey 0x50004) 4 = false ∧
    tickOf (((sweeping 2053).gridD 1).regionNo 0) ((sweeping 2053).markCycle 1) = 2053 ∧ bytesAt (sweeping 2053) ((sweeping 2053).mapKey 0x50004) 4 = 0x80000040 ∧
    tickOf (((sweeping 2052).gridD 1).regionNo 0) ((sweeping 2052).markCycle 1) = 2052 := by
  refine ⟨?_, ?_, ?_, ?_, ⟨⟨0, 0x20000, 0x8000, 0, 10, 128⟩, ?_, ?_⟩, ?_⟩
  all_goals decide +kernel

/-- R208: more than 2,048 ticks old, the word takes the stamp of now; what is left of its value is nothing. -/
theorem test_sweep :
    (run (.sweeperNormalise 1 0 1) (sweeping 2053)).load 0x50004 4 = BitVec.ofNat 64 (2053 * 16) ∧
    run (.sweeperNormalise 1 0 1) (sweeping 2052) = sweeping 2052 := by decide +kernel

/-- BANKPART of bank 5 has grown to two megabytes while a smaller value waits; with an access that was held for the growth, and without. -/
def grown (l : List Req) : State :=
  { bench with banks := [{ Bank.reset 5 with w := 1, cur := 0, busy := some 2, waiting := some 1 }], fabric := l }
def heldAccess : Req := { request .read [piece (carveKey 5 0x100040) 8 0] (.raw 3) with held := true }

theorem meets_bank_change_waiting :
    ((grown [heldAccess]).bank 5).busy = some 2 ∧ ((grown [heldAccess]).bank 5).waiting = some 1 ∧
    (∀ q ∈ (grown [heldAccess]).fabric, q.parked = false) ∧ carveKey 5 0 ≤ carveKey 5 0x100040 ∧ carveKey 5 0x100040 < carveKey 5 (2 * 2 ^ 20) ∧
    1 ≤ 14 - 4 * ((grown []).bank 5).retired.length := by decide

/-- R65, R357: the waiting value begins its change only when what was held has been performed. -/
theorem test_bank_change_waiting :
    (let b := (run (.bankpartChangeEnd 5) (grown [heldAccess])).bank 5
     (b.cur, b.busy, b.waiting) = (2, some 2, some 1)) ∧
    (let b := (run (.bankpartChangeEnd 5) (grown [])).bank 5
     (b.cur, b.busy, b.waiting) = (2, some 1, none)) := by decide +kernel

/-- A place of the carve-out of bank 5, one of DRAM and a unit of the keep region; a place first corrected, again in the interval, and
after it. -/
def inCarve : Nat := carveKey 5 64 / 8
def inKeep : Nat := 0x1000000000
def softAt (n : Nat) (c : List Corrected) : State := ringed { bench with soft := [n], corrected := c, cycle := 0x1000000 }
def badAt (n : Nat) : State := ringed { bench with poison := [n] }

theorem meets_scrub :
    Sound bench inCarve ∧ (∀ w ∈ codeWords inKeep, Sound bench w ∧ ∀ c, Sound bench (lineErr c w)) ∧
    (inCarve < 2 ^ 60 ∧ inCarve ∉ (softAt inCarve []).poison ∧ inCarve ∈ (softAt inCarve []).soft ∧ isKeep (8 * inCarve) = false ∧
      storageKind (8 * inCarve) = 3 ∧ isKeep (8 * inKeep) = true ∧ storageKind (8 * inKeep) = 8 ∧ storageKind (8 * 0x1000) = 9 ∧ inKeep < 2 ^ 60) ∧
    (softAt inCarve [⟨inCarve, 3, 1⟩]).corrected.find? (·.key == inCarve) = some ⟨inCarve, 3, 1⟩ ∧
    (softAt inCarve []).cycle.toNat < (1 : Word).toNat + 2 ^ 24 ∧ (0 : Word).toNat + 2 ^ 24 ≤ (softAt inCarve []).cycle.toNat ∧
    (inCarve ∈ (badAt inCarve).poison ∧ bankClean 0x1000 ∈ (badAt (bankClean 0x1000)).poison) ∧
    (inKeep + 2 ∈ codeWords inKeep ∧ inKeep + 2 ∈ (badAt (inKeep + 2)).poison ∧ ∀ v ∈ codeWords inKeep, v < inKeep + 2 → v ∉ (badAt (inKeep + 2)).poison) := by
  refine ⟨?_, fun w _ => ⟨⟨List.not_mem_nil, List.not_mem_nil⟩, fun c => ⟨List.not_mem_nil, List.not_mem_nil⟩⟩, ?_⟩
  all_goals (try unfold Sound); decide +kernel

/-- R343–R345: the first correction of a place is reported at once, a later one only after the interval; an uncorrectable one with
KIND 2; one of DRAM is left to the base die. -/
theorem test_scrub :
    (let t := run (.patrolScrub inCarve) (softAt inCarve [])
     t.soft = [] ∧ t.corrected = [⟨inCarve, 0, 0x1000000⟩] ∧ t.load (0x8000 + 32 * 7 + 8) 8 = BitVec.ofNat 64 (1 + 3 * 256 + 5 * 65536) ∧
     t.load (0x8000 + 32 * 7 + 16) 8 = 64 ∧ t.load (0x8000 + 32 * 7 + 24) 8 = 1 ∧ t.load 0x9000 4 = 0) ∧
    (run (.patrolScrub inCarve) (softAt inCarve [⟨inCarve, 3, 1⟩])).corrected = [⟨inCarve, 4, 1⟩] ∧
    (let t := run (.patrolScrub inCarve) (softAt inCarve [⟨inCarve, 3, 0⟩])
     t.corrected = [⟨inCarve, 0, 0x1000000⟩] ∧ t.load (0x8000 + 32 * 7 + 24) 8 = 4) ∧
    (let t := run (.patrolScrub inCarve) (badAt inCarve)
     t.load (0x8000 + 32 * 7 + 8) 8 = BitVec.ofNat 64 (2 + 3 * 256 + 5 * 65536) ∧ t.load 0x9000 4 = 4) ∧
    run (.patrolScrub 0x1000) (softAt 0x1000 []) = softAt 0x1000 [] := by decide +kernel

/-- R345: scrub drops a clean bank line and reports it as uncorrectable; it finds the word of a keep-region block that is bad. -/
theorem test_scrub_of_blocks :
    (let t := run (.patrolScrub (bankClean 0x1000)) (badAt (bankClean 0x1000))
     t.poison = [] ∧ t.load (0x8000 + 32 * 7 + 8) 8 = BitVec.ofNat 64 (2 + 3 * 256 + 128 * 65536) ∧ t.load (0x8000 + 32 * 7 + 24) 8 = 0) ∧
    (let t := run (.mramScrub inKeep) (badAt (inKeep + 2))
     t.poison = [inKeep + 2] ∧ (t.load (0x8000 + 32 * 7 + 8) 8).toNat % 2 ^ 16 = 2 + 8 * 256) := by decide +kernel

/-- R272: a background access stands until the cycle's other accesses are made. -/
theorem test_background :
    (Instr.patrolScrub inCarve).wf = true ∧
    (match (softAt inCarve []).act (.event (.patrolScrub inCarve)) with | .next t => (t.soft, t.background) | _ => ([], [])) =
      ([inCarve], [.patrolScrub inCarve]) ∧
    ({ softAt inCarve [] with background := [.patrolScrub inCarve] } : State).runBackground.soft = [] := by decide +kernel

/-- Core 5 whose slot pair failed, with 64 spares. -/
def worn : State := ringed { bench with mramBad := [5], spares := [64, 256, 256, 256] }

theorem meets_wear : 4 ∉ worn.mramBad ∧ 5 ∈ worn.mramBad ∧ worn.spares.getD (towerOf 5) 0 ≠ 0 ∧ worn.spares.getD (towerOf 5) 0 - 1 < 64 := by
  decide +kernel

/-- R352: a pair retired, KIND 5; fewer than 64 left, KIND 6. -/
theorem test_wear :
    let t := run (.wearLevelling 5) worn
    t.spares = [63, 256, 256, 256] ∧ t.mramBad = [] ∧ t.load (0x8000 + 32 * 7 + 8) 8 = BitVec.ofNat 64 (5 + 5 * 65536) ∧
    t.load 0x8008 8 = 0 ∧ t.host.telDrop = 1 ∧ t.host.telTail = 0 := by decide +kernel

/-! ### The life of a grid -/

/-- A queued grid of four teams with two threads each, one scratchpad page and one window. -/
def fourTeams : Grid :=
  { Grid.vacant with
    num := 9, queue := 3, state := .queued, prio := 1, regions := [(5, 0x280000000007), (6, 0)], windows := [⟨false, 0, 2048, false, 0, []⟩]
    desc := { (bench.gridD 1).desc with shape := 3 + 1 * 2 ^ 13 + 4 * 2 ^ 16 + 8 * 2 ^ 21 + 2 * 2 ^ 28 + 1 * 2 ^ 35, args := [11, 12, 13, 14, 15, 16, 17], tvec := 0x1230 } }
def starting : State := { bench with grids := bench.grids ++ [fourTeams], cores := [{ Core.reset 4 with icache := [⟨3, 8, 0, 1⟩, ⟨0, 8, 0, 2⟩] }] }

theorem meets_grid_start :
    starting.grid? 9 = some fourTeams ∧ fourTeams.held = [] ∧ starting.launchBefore fourTeams = false ∧ starting.siblingFirst fourTeams = false ∧ FirstInLine starting fourTeams ∧ RoomFor starting fourTeams [4, 8, 700, 8191] ∧
    (∀ x ∈ starting.cur :: starting.rest, x.id.grid ≠ 9) ∧ (∀ x ∈ starting.teams, x.grid ≠ 9) := by
  unfold FirstInLine RoomFor; decide +kernel

/-- The four teams placed. -/
def started : State := run (.gridStart 9 [4, 8, 700, 8191]) starting

/-- R26, R27, R62: s1–s7 are the arguments, the threads stand at ENTRY, and the lines of the queue are dropped. -/
theorem test_grid_start :
    (started.rest.map fun t => (t.id.team, t.id.thread, t.core)) =
      [(0, 4), (1, 8), (2, 700), (3, 8191)].flatMap (fun p => [(p.1, 0, p.2), (p.1, 1, p.2)]) ∧
    (started.rest.map fun t => (t.reg 7, t.reg 8, t.tvec)) = List.replicate 8 (17, 0, 0x1230) ∧ (started.core 4).icache = [⟨0, 8, 0, 2⟩] ∧
    (started.teamD 9 3).spad = 4096 := by decide +kernel

/-- The thread of the bench's grid in `next` without work; and ended. -/
def parkedAt (w : Wait) : State := { bench with cur := { bench.cur with wait := w } }

theorem meets_park_and_complete :
    (parkedAt (.next 3)).grid? 1 = some (bench.gridD 1) ∧ (bench.gridD 1).state = .placed ∧ (bench.gridD 1).faults = [] ∧ (bench.gridD 1).pushes = [] ∧
    (bench.gridD 1).replay.apart = none ∧ (bench.gridD 1).replay.committing = false ∧ (∀ q ∈ (parkedAt (.next 3)).teams, q.grid = 1 → q.deque = []) ∧
    (parkedAt (.next 3)).rest = [] ∧ (parkedAt (.next 3)).cur.wait = .next 3 ∧ (parkedAt .ended).cur.wait = .ended ∧ (parkedAt .ended).copies = [] ∧
    (parkedAt .ended).cores = [] ∧ (∀ x ∈ (parkedAt .ended).grids, x.parent ≠ some 1) ∧ (parkedAt .ended).fabric = [] := by decide +kernel

/-- The bench's grid launched by an entry of queue 3, or with a DONE word at 0x20008 that is empty; and with three faults. -/
def ending (entry : Bool) (faults : List FaultRec) : State :=
  let e : QEntry := { id := 44, num := 7, old := false, addr := 0x1000, kind := 1, grid := 0, done := false, status := 0, cause := 0, written := false, stops := false }
  let s := (paged.setFull 0x50008 false).store (at_ 8) 8 5
  { s with
    cur := { bench.cur with wait := .ended }
    queues := { Queue.reset 3 with entries := [e] } :: s.queues
    grids := s.grids.map fun g => { g with
      entry := if entry then some (3, 44) else none, desc := { g.desc with done := if entry then 0 else 0x20008 }
      consumed := 77, tasks := 3, qwait := 4, search := 5, run := 6, steals := 2 ^ 32 + 9, failed := 2 ^ 33, faults := faults, nfault := 3 } }
def firstFault : FaultRec := ⟨99, true, 3, 2, 1, 0x14, 3, 0x123456, 0x99⟩
def threeFaults : List FaultRec := [{ firstFault with cycle := 100 }, firstFault, { firstFault with byThread := false }]

/-- R239, R255, R266, R319: what a grid leaves: its DONE word, or its entry's completion record and statistics, or its fault record. -/
theorem meets_grid_ends :
    ((ending false []).gridD 1).entry = none ∧ locOf ((ending false []).gridD 1).desc.done % 8 = 0 ∧ ((ending false []).gridD 1).desc.done ≠ 0 ∧
    (∃ x, (ending false []).walkQueue 0 0x20008 = .mem 0x50008 true x) ∧ isKeep 0x50008 = false ∧
    (CachesClean (ending false []) ∧ (ending false []).chunkWrites = none ∧ (ending false []).fabric = []) ∧
    ((ending true []).gridD 1).entry = some (3, 44) ∧ (((ending true []).queue 3).entries.find? (·.id == 44)).isSome = true := by
  refine ⟨?_, ?_, ?_, ⟨true, ?_⟩, ?_, ⟨clean _ rfl rfl, rfl, rfl⟩, ?_⟩
  all_goals decide +kernel

theorem test_grid_ends :
    (let t := run (.gridComplete 1) (ending false [])
     t.load 0x50008 8 = 0x100 ∧ t.isFull 0x50008 = true ∧ t.grids = [] ∧ t.load (at_ 8) 8 = 0 ∧ t.cur = Thread.vacant) ∧
    (let t := run (.gridComplete 1) (ending true [])
     t.load 0x1030 8 = 0x780010000 ∧ t.load 0x1038 8 = 5000 ∧ t.load 0x10C0 8 = 77 ∧ t.load 0x10F8 8 = 0xFFFFFFFF00000009 ∧
     (t.queue 3).entries.map (·.done) = [true]) ∧
    (let t := run (.gridFaultEnd 1) (ending true threeFaults)
     t.load 0x1030 8 = 0x780011401 ∧ t.load 0x10D8 8 = 0x123456 ∧ t.load 0x10E8 8 = BitVec.ofNat 64 (3 + 2 * 8192 + 3 * 65536 + 2 ^ 24) ∧
     t.load 0x10F8 8 = 3) := by decide +kernel

theorem meets_fault_end :
    (ending true threeFaults).grid? 1 = some ((ending true threeFaults).gridD 1) ∧ firstFault ∈ ((ending true threeFaults).gridD 1).faults ∧
    (∀ x ∈ ((ending true threeFaults).gridD 1).faults, x = firstFault ∨ firstFault.cycle < x.cycle ∨
      firstFault.cycle = x.cycle ∧ (firstFault.byThread = true ∧ x.byThread = false ∨ firstFault.byThread = x.byThread ∧
        (firstFault.team < x.team ∨ firstFault.team = x.team ∧ firstFault.thread < x.thread))) ∧
    (∀ x ∈ (ending true threeFaults).grids, x.parent = none) ∧ ((ending true threeFaults).gridD 1).replay.apart = none ∧
    ((ending true threeFaults).gridD 1).replay.committing = false ∧ firstFault.cycle ≠ (ending true threeFaults).cycle ∧
    (chosenFault threeFaults = some firstFault ∧ ({ ending true threeFaults with cycle := 99 } : State).cycle = firstFault.cycle) ∧
    (ending true threeFaults).cores = [] ∧
    (ending true threeFaults).fabric = [] ∧ (ending true threeFaults).copies = [] ∧ (ending true threeFaults).cur.vreplay = none := by decide +kernel

/-- The end of a window of 2^24 cycles, a grid that has been placed for it whole, live or not. -/
def watched (live : Bool) (since : Word) : State :=
  { bench with
    cycle := 0x5000000, host := { bench.host with wdog := 24 }
    grids := bench.grids.map fun g => { g with live := live, placedSince := since } }

theorem meets_watchdog :
    (watched false 5).cycle.toNat % 2 ^ 24 = 0 ∧ ((watched false 5).grids.map (·.num)).Nodup ∧ bench.cycle.toNat % 2 ^ 31 ≠ 0 := by decide +kernel

/-- R322: a grid that was not live fails; one that was, or was placed within the window, does not. -/
theorem test_watchdog :
    ((run .watchdogWindowEnd (watched false 0x4000000)).gridD 1).faults = [⟨0x5000000, false, 0, 0, 2, 0, 0, 0, 0⟩] ∧
    ((run .watchdogWindowEnd (watched false 0x4000001)).gridD 1).faults = [] ∧
    ((run .watchdogWindowEnd (watched true 5)).gridD 1).faults = [] ∧ ((run .watchdogWindowEnd (watched true 5)).gridD 1).live = false := by
  decide +kernel


/-- A ready grid of priority 5 with a greater share than a core has, beside the placed one of priority 1, whose team on core 8 has a record of its own and one of another. -/
def crowded : State :=
  let r : MRec := { mmaRec with tid := ⟨9, 1, 0⟩, rows := 1 }
  let t : State := { started with grids := (started.grids.map fun g => if g.num = 1 then { g with prio := 3 } else g) ++ [{ fourTeams with num := 12, prio := 5, desc := { fourTeams.desc with flags := 0x1400, shape := fourTeams.desc.shape + 64 * 2 ^ 28 } }] }
  t.setCore { Core.reset 8 with mq := [r, { r with tid := me }] }
def quiescing : State := { crowded with grids := crowded.grids.map fun g => if g.num = 9 then { g with state := .quiescing 5000 } else g }
def saved : State := run (.preempt 9) quiescing

/-- The bench's grid with bank rights while the bank of its team's cluster has a carve-out, quiescing (R51). -/
def guarded : State :=
  { bench with
    grids := bench.grids.map fun g => { g with state := .quiescing 5000, desc := { g.desc with flags := g.desc.flags ||| 0x100 } }
    banks := [{ Bank.reset 0 with w := 1, cur := 1 }] }

theorem meets_preempt :
    (crowded.gridD 9).state = .placed ∧ (crowded.gridD 9).faults = [] ∧ crowded.carveProtected (crowded.gridD 9) = false ∧ crowded.pairsFor 9 = true ∧ crowded.exchanges = [] ∧
    (crowded.grids.map fun x => (x.num, x.prio)) = [(1, 3), (9, 1), (12, 5)] ∧
    (crowded.gridD 12).state = .queued ∧ (crowded.gridD 12).held = [] ∧ crowded.launchBefore (crowded.gridD 12) = false ∧
    (∃ w rest, crowded.ranked = w :: rest ∧ (crowded.gridD 9).prio < w.prio ∧ crowded.withoutQuiescing.canPlace w = false) ∧
    starting.ranked ≠ [] ∧ bench.ranked = [] ∧ (bench.gridD 1).state = .placed ∧
    ((run (.preempt 9) crowded).gridD 9).state = .quiescing 5000 := by
  and_intros
  all_goals first | decide +kernel | exact ⟨crowded.gridD 12, [], by decide +kernel⟩

theorem meets_save :
    (quiescing.gridD 9).state = .quiescing 5000 ∧ (quiescing.gridD 9).faults = [] ∧ quiescing.quiesced 9 = true ∧ quiescing.mramBad = [] ∧
    (quiescing.teams.map fun q => (q.grid, q.lteam)).Nodup ∧ (quiescing.grids.map (·.num)).Nodup ∧
    quiescing.carveProtected (quiescing.gridD 9) = false ∧ quiescing.cycle.toNat ≤ (5000 : Word).toNat + 2 ^ 22 ∧
    (∀ w < 4, 64 + quiescing.teams.length ≤ quiescing.spares.getD w 0) ∧ quiescing.spares.length = 4 ∧
    (∀ q ∈ quiescing.teams, ∀ c ∈ q.core, c < 8192) ∧
    (guarded.gridD 1).state = .quiescing 5000 ∧ guarded.carveProtected (guarded.gridD 1) = true ∧ ((run (.preempt 1) guarded).gridD 1).state = .placed ∧
    (5000 : Word).toNat + 2 ^ 22 < (4199305 : Word).toNat ∧ (4199304 : Word).toNat ≤ (5000 : Word).toNat + 2 ^ 22 := by decide +kernel

/-- R43: the grid's records go along, another's stay; its threads leave their slots. R259: given up after 2^22 cycles; R352: and with
two slot pairs for the three teams of a tower. -/
theorem test_save :
    (saved.gridD 9).state = .saved ∧ (saved.teams.map fun q => (q.grid, q.lteam, q.core.isSome, q.savedMq.length)) =
      [(1, 0, true, 0), (9, 0, false, 0), (9, 1, false, 1), (9, 2, false, 0), (9, 3, false, 0)] ∧ ((saved.core 8).mq.map (·.tid)) = [me] ∧
    (saved.rest.map (·.core)) = List.replicate 8 8192 ∧
    ((run (.preempt 9) { quiescing with spares := [2, 1, 1, 1] }).gridD 9).state = .placed ∧
    ((run (.preemptAbandon 9) { quiescing with cycle := 4199305 }).gridD 9).state = .placed ∧
    run (.preemptAbandon 9) { quiescing with cycle := 4199304 } = { quiescing with cycle := 4199304 } := by decide +kernel

theorem meets_resume :
    FirstInLine saved (saved.gridD 9) ∧ (saved.gridD 9).faults = [] ∧ saved.spares.length = 4 ∧ saved.mramBad = [] ∧ RoomFor saved (saved.gridD 9) [1, 8, 701, 8190] ∧ (∀ q ∈ saved.teams, q.grid = 9 → q.core = none) ∧
    ((List.range 4).map fun l => (saved.core ([1, 8, 701, 8190].getD l 0)).mq.length + (saved.teamD 9 l).savedMq.length) = [0, 2, 0, 0] ∧
    (saved.teams.map fun q => (q.grid, q.lteam)).Nodup ∧ (saved.teams.map fun q => (q.grid, q.lteam)) = [(1, 0), (9, 0), (9, 1), (9, 2), (9, 3)] := by
  unfold FirstInLine RoomFor; decide +kernel

theorem test_resume :
    let t := run (.resume 9 [1, 8, 701, 8190]) saved
    (t.gridD 9).state = .placed ∧ (t.teams.map (·.core)) = [some 0, some 1, some 8, some 701, some 8190] ∧
    ((t.core 8).mq.map (·.tid)) = [me, ⟨9, 1, 0⟩] ∧ (t.rest.map (·.core)) = [1, 1, 8, 8, 701, 701, 8190, 8190] := by decide +kernel

/-- A write of the upper half of region 0 waits, and its thread with it. -/
def regionWrite : State :=
  { bench with
    cur := { bench.cur with wait := .mregWrite }
    grids := bench.grids.map fun g => { g with mreg := List.replicate 8 (0, 0), mregPend := [(1, 0xFFFFFFFFFFFFFFFF, me)] } }

theorem meets_region_write : (regionWrite.gridD 1).mregPend = [(1, 0xFFFFFFFFFFFFFFFF, me)] ∧ (regionWrite.grids.map (·.num)).Nodup := by decide +kernel

/-- R205: bits 63:56 of the upper half are reserved and stay. -/
theorem test_region_write :
    let t := run (.mregWriteApply 1) regionWrite
    (t.gridD 1).mreg.head? = some (0, 0x00FFFFFFFFFFFFFF) ∧ t.cur.wait = .running ∧ t.cur.pc = 0xF000000000008 := by decide +kernel

/-! ### Swaps and chunks -/

/-- Two teams on adjacent cores 3 and 4, each of which sends 3,000 messages to the other's cluster; at a swap instant. -/
def swapping (n : Nat) : State :=
  let d := { (bench.gridD 1).desc with flags := 8, shape := (bench.gridD 1).desc.shape + 1 }
  { bench with
    cycle := 0xC00000, grids := bench.grids.map fun g => { g with desc := d }
    cur := { bench.cur with core := 3 }, rest := [{ bench.cur with core := 4, id := ⟨1, 1, 0⟩ }]
    teams := bench.teams.flatMap fun t => [{ t with core := some 3, sent := [⟨1, 0, n⟩], hist := [[⟨1, 0, 2⟩]] }, { t with lteam := 1, core := some 4, sent := [⟨0, 0, n⟩] }]
    cores := [{ Core.reset 3 with mq := [{ mmaRec with scalesB := [4] }] }] }

theorem meets_swap :
    (swapping 3000).cycle.toNat % 2 ^ 22 = 0 ∧ bench.cycle.toNat % 2 ^ 22 ≠ 0 ∧ ([(1, 2)].map (·.1) : List Nat).Nodup ∧
    (run .swapInstant (swapping 3000)).exchanges = [(3, 4)] := by decide +kernel

/-- R45: 1,024 must be saved, where what was sent in the interval before counts half; the counts begin anew. -/
theorem test_swap_instant :
    (run .swapInstant (swapping 511)).exchanges = [] ∧ (run .swapInstant (swapping 512)).exchanges = [(3, 4)] ∧
    ((run .swapInstant (swapping 512)).teams.map (·.hist)) = [[[⟨1, 0, 512⟩], [⟨1, 0, 2⟩]], [[⟨0, 0, 512⟩]]] ∧ ((run .swapInstant (swapping 512)).core 3).exchanging = true := by
  decide +kernel

def exchanging (o : Nat) : State := { run .swapInstant (swapping 3000) with oracle := [o] }

/-- A pair whose grid has faulted. -/
def doomed : State := { swapping 0 with exchanges := [(3, 4)], grids := (swapping 0).grids.map fun g => { g with faults := [firstFault] } }

theorem meets_exchange :
    (3, 4) ∈ (exchanging 0).exchanges ∧ 3 ∉ (exchanging 0).mramBad ∧ 4 ∉ (exchanging 0).mramBad ∧ (3, 5) ∉ (exchanging 0).exchanges ∧
    (exchanging 0).stoppedFor 3 = true ∧ (exchanging 0).stoppedFor 4 = true ∧ (exchanging 0).poison = [] ∧ (exchanging 0).mramBad = [] ∧
    (∀ y ∈ (exchanging 0).teams, (exchanging 0).ending y.grid = false) ∧
    ((3, 4) ∈ doomed.exchanges ∧ ∃ y ∈ doomed.teams, y.core = some 3 ∧ doomed.ending y.grid = true) := by
  decide +kernel

/-- R46, R325: both teams move, with their threads and records, or neither. -/
theorem test_exchange :
    (let t := run (.exchange 3 4) (exchanging 0)
     (t.teams.map (·.core)) = [some 4, some 3] ∧ t.cur.core = 4 ∧ (t.rest.map (·.core)) = [3] ∧ (t.core 4).mq.length = 1 ∧ (t.core 3).mq = [] ∧
     (t.core 3).frozen = 4 ∧ (t.core 4).exchanging = false ∧ (t.core 3).forwardSince = some 0xC00000) ∧
    (let t := run (.exchange 3 4) (exchanging 1)
     t.teams = (exchanging 1).teams ∧ (t.core 4).frozen = 4 ∧ t.cur.core = 3) ∧
    (let t := run (.exchange 3 4) doomed
     t.teams = doomed.teams ∧ (t.core 4).frozen = 4 ∧ t.exchanges = []) := by decide +kernel

/-- Forwarding of core 3 for 65,536 cycles. -/
def forwarding (n : Word) : State := { bench with cycle := 5000 + n, cores := [{ Core.reset 3 with forwardSince := some 5000 }] }

theorem meets_forwarding :
    ((forwarding 65536).core 3).forwardSince = some 5000 ∧ (5000 : Word).toNat + 65536 ≤ (forwarding 65536).cycle.toNat ∧ (forwarding 65536).fabric = [] ∧
    ((run (.forwardingWithdraw 3) (forwarding 65536)).core 3).forwardSince = none ∧ run (.forwardingWithdraw 3) (forwarding 65535) = forwarding 65535 := by
  decide +kernel

/-- The chunk of team 0 of two, or of team 1, after its last turn: it wrote one byte and made a word empty; another wrote elsewhere. -/
def chunked (team turn : Nat) : State :=
  let s := (bench.store (at_ 0) 1 5).store (at_ 8) 1 6
  let x : Apart := ⟨Memory.set s.mem (at_ 0) 9, [at_ 16 / 8], s.mem, [at_ 24 / 8], [(at_ 0, 1), (at_ 32, 1)], []⟩
  { s.store (at_ 8) 1 7 with
    empty := [at_ 24 / 8], cur := { s.cur with wait := .commit, id := ⟨1, team, 0⟩ }
    grids := s.grids.map fun g => { g with
      desc := { g.desc with flags := 0x70, shape := g.desc.shape + 1 }, replay := { g.replay with team := team, turn := turn, apart := some x } } }

/-- Its commit under way, with effects left; one that waits for a copy's end, one for a slot of the engine. -/
def committing (l : List Deferred) : State :=
  let s := chunked 0 512
  { s with
    cur := { s.cur with cntC := 1 }
    copies := List.replicate 32 { aCopy with grid := 7 }
    grids := s.grids.map fun g => { g with replay := { g.replay with apart := none, committing := true, deferred := l } } }
def effects : List Deferred := [.push 0 ⟨8, 1, 2, 3, 4, 0⟩, .bank 0 me 3]

theorem meets_chunk :
    (((chunked 0 512).gridD 1).replay.apart.isSome = true ∧ (((chunked 0 512).gridD 1).replay.apart.all fun x => !(chunked 0 512).reachHolds x) = true) ∧ ((chunked 0 512).gridD 1).replay.committing = false ∧ ((chunked 0 512).gridD 1).replay.turn = 512 ∧
    ((committing effects).gridD 1).replay.committing = true ∧ ((committing effects).gridD 1).replay.deferred = .push 0 ⟨8, 1, 2, 3, 4, 0⟩ :: [.bank 0 me 3] ∧
    ((committing [.bank 0 me 3]).gridD 1).replay.deferred = .bank 0 me 3 :: [] ∧
    ((committing [.pfence me true]).thread? me = some (committing [.pfence me true]).cur ∧ (committing [.pfence me true]).cur.cntC ≠ 0) ∧
    32 ≤ ((committing [.copy me 0 tcm [] 5 50]).copies.filter fun c => c.cluster == clusterOf (committing [.copy me 0 tcm [] 5 50]).cur.core).length ∧
    ((committing []).gridD 1).replay.deferred = [] ∧ (committing []).fs = [] ∧ ((chunked 0 512).grids.map (·.num)).Nodup ∧
    0 < bits ((chunked 0 512).gridD 1).desc.shape 12 0 ∧ (∀ n < 8, ((chunked 1 512).gridD 1).sweeps n = false) ∧
    ((chunked 0 511).gridD 1).replay.turn ≠ 512 ∧ ((chunked 0 511).gridD 1).faults = [] := by decide +kernel

/-- R262, R327: what the chunk wrote is committed, what another wrote stays; then the other effects one by one; the next chunk is the next
team's, or the next innings. -/
theorem test_chunk :
    (let t := run (.inningsCommit 1) (chunked 0 512)
     let u := run (.inningsCommit 1) t
     t.byte (at_ 0) = 9 ∧ t.byte (at_ 8) = 7 ∧ t.isFull (at_ 16) = false ∧ t.isFull (at_ 24) = true ∧ t.cur.wait = .commit ∧
     u.cur.wait = .running ∧ (u.gridD 1).replay.team = 1 ∧ (u.gridD 1).replay.turn = 0 ∧ (u.gridD 1).replay.apart = none) ∧
    ((run (.inningsCommit 1) (run (.inningsCommit 1) (chunked 1 512))).gridD 1).replay.innings = 1 ∧
    run (.inningsCommit 1) (chunked 0 511) = chunked 0 511 ∧
    (let t := run (.inningsCommit 1) (run (.inningsCommit 1) (committing effects))
     (t.teamD 1 0).deque.map (·.pc) = [8] ∧ (t.bank 0).w = 3 ∧ (t.gridD 1).replay.deferred = []) ∧
    run (.inningsCommit 1) (committing [.publ me 64]) = committing [.publ me 64] ∧
    run (.inningsCommit 1) (committing [.copy me 0 tcm [] 5 50]) = committing [.copy me 0 tcm [] 5 50] := by decide +kernel

/-! ### Queues -/

/-- Queue 3, enabled, with priority 3, standing at the entry at 0x1000 whose NEXT is 0x2000; its body words; the word at 0x20010 is w. -/
def entryAt (hdr w : Nat) (body : List Nat) : State :=
  let s := ((paged.store 0x1000 8 hdr).store 0x1008 8 0x2000).store 0x50010 8 w
  let s := body.zipIdx.foldl (fun t p => t.store (0x1000 + 64 + 8 * p.2) 8 p.1) s
  { s with
    fresh := 3, grids := s.grids.map fun g => { g with queue := 3 }
    queues := [{ Queue.reset 3 with en := true, pos := 0x1000, number := 6, pt := 0x10000, passed := true, prio := 3 }] }

/-- What one consumed entry leaves: its record, the next address. -/
def consumed (s : State) : List Nat :=
  ((s.queue 3).entries.flatMap fun e => [e.num, e.done.toNat, e.status, e.cause]) ++ [(s.queue 3).pos, (s.queue 3).link]

/-- A queue that waits at a NEXT of 0, read again; one that stands at an entry; one never enabled; enabled and not. -/
def nextZero : State := { (bench.store 0x2008 8 0x3000) with queues := [{ Queue.reset 3 with en := true, link := 0x2008 }] }

theorem meets_queue_registers :
    ((nextZero.queue 3).pos = 0 ∧ (nextZero.queue 3).link ≠ 0) ∧ ((entryAt 1 0 []).queue 3).pos ≠ 0 ∧ (bench.queue 3).link = 0 ∧
    (bench.queue 3).en = false ∧ (nextZero.queue 3).en = true := by decide +kernel

theorem test_queue_registers :
    ((run (.qtailDoorbell 3 0) nextZero).queue 3).pos = 0x3000 ∧ ((run (.queueEnable 3 0x1B) bench).queue 3).prio = 5 ∧
    ((run (.queueEnable 3 0x1B) bench).queue 3).sirq = true ∧ ((run (.queueEnable 3 0x1A) { bench with queues := [{ Queue.reset 3 with head := 0x4107, link := 9, number := 4 }] }).queue 3).pos = 0x4100 ∧
    ((run (.queueDisable 3 0) nextZero).queue 3).en = false ∧ ((run (.qlatWrite 3 0xFFFFFFFF00000005) nextZero).queue 3).lat = 5 := by decide +kernel

/-- An invalidation of two pages of 64 KiB from 0x10000: three translations, of which one is outside. -/
def invalidating (busy : Bool) : State :=
  { bench with
    queues := [{ Queue.reset 0 with inva := 0x10000, invl := 2, invBusy := true }]
    tlb := [⟨0, 0x10000, 0x10000, 0x8000, 1⟩, ⟨0, 0x20000, 0x10000, 0x8008, 1⟩, ⟨0, 0x30000, 0x10000, 0x8010, 1⟩, ⟨1, 0x20000, 0x10000, 0x8008, 1⟩]
    fabric := if busy then [{ request .read [{ piece 0x6FFF8 8 0 with ea := 0x2FFF8 }] .none with queue := 0 }] else [] }

theorem meets_invalidation :
    ((invalidating false).queue 0).invBusy = true ∧ (invalidating false).tlb.all (fun t => !(invalidating false).usesTranslation t) = true := by decide +kernel

/-- R55: it waits for the last access that used a translation, and drops those of its range. -/
theorem test_invalidation :
    run (.invalidationComplete 0) (invalidating true) = invalidating true ∧
    ((run (.invalidationComplete 0) (invalidating false)).tlb.map fun t => (t.queue, t.base)) = [(0, 0x30000), (1, 0x20000)] ∧
    ((run (.invalidationComplete 0) (invalidating false)).queue 0).invBusy = false := by decide +kernel

/-- R291: one release of two breakpoints that hold an entry lets it go; HIT of both reads 0. -/
theorem test_breakpoint_release :
    let s : State := { bench with host := { bench.host with cpbc := [0, 0x90000, 0x90000, 0] }, queues := [{ Queue.reset 3 with held := [2, 1] }] }
    (run (.cpbRelease 1) s).host.cpbc = [0, 0x10000, 0x10000, 0] ∧ ((run (.cpbRelease 1) s).queue 3).held = [] := by decide +kernel

/-- One record that waits between two in the ring, which has room after the write; and no record that waits. -/
def fsRecord (tok : Nat) (inRing : Bool) : FsRec := ⟨tok, 0x12345678, ⟨3, 4, 5⟩, 1, 7, 99, .thread ⟨3, 4, 5⟩, inRing⟩
def servicing : State :=
  { bench with
    fs := [fsRecord 1 true, fsRecord 2 false, fsRecord 3 true]
    host := { bench.host with fsqbase := 0x7000, fsqTail := 2, irqaddr := 0x6000 } }

theorem meets_fsqptr :
    servicing.fs = [fsRecord 1 true] ++ fsRecord 2 false :: [fsRecord 3 true] ∧ (∀ y ∈ [fsRecord 1 true] ++ [fsRecord 3 true], y.inRing = true) ∧
    2 ≤ (BitVec.ofNat 12 (0x50008 : Word).toNat).toNat ∧ (servicing.host.fsqTail.toNat + 1) % (BitVec.ofNat 12 (0x50008 : Word).toNat).toNat ≠
      (BitVec.ofNat 12 ((0x50008 : Word).toNat / 2 ^ 16)).toNat ∧ bench.fs = [] := by decide +kernel

/-- R289, R362: the record is written at TAIL. -/
theorem test_fsqptr :
    let t := run (.fsqptrWrite 0x50008) servicing
    t.load 0x7040 8 = 0x12345678 ∧ t.load 0x7048 8 = BitVec.ofNat 64 (3 + 4 * 2 ^ 15 + 5 * 2 ^ 28 + 2 ^ 31) ∧ t.load 0x7050 8 = 0x200000007 ∧
    t.load 0x7058 8 = 99 ∧ t.load 0x6000 4 = 0x702 ∧ t.host.fsqTail = 3 ∧ t.fs.map (·.inRing) = [true, true, true] := by decide +kernel

/-! ### Entries -/

/-- The words of a launch entry's body with a shape; a shape that is bad by its fields, one by its limits, one for which an empty
package has no room, one that is legal. -/
def launchEntryWords (shape : Nat) : List Nat := [0x800, 0, shape, 0, 0, 0, 0, 1, 2, 3, 4, 5, 6, 7]
def entryDesc (shape : Nat) : Descriptor := Descriptor.ofWords ((List.range 16).map (bodyWord (entryAt 1 0 (launchEntryWords shape)) 0x1000))

theorem no_error (s : State) (a n : Nat) (hp : s.poison = []) (hs : s.soft = []) (h : ∀ o < n, s.poisoned (a + o) 8 = false) : NoError s a n :=
  ⟨h, correct_already _ _ _ hp hs⟩

/-- What a sound machine needs besides for a queue to stand at an entry. -/
def AtEntryBut (s : State) (q kind a : Nat) : Prop :=
  let x := s.queue q
  let h := wordAt s a
  s.powered = true ∧ x.en = true ∧ x.pos = a ∧ a ≠ 0 ∧ x.held = [] ∧ (∀ g ∈ s.grids, g.queue = q → g.held = []) ∧ x.waitKind = none ∧
  (∀ e ∈ x.entries, (e.done = false → e.kind ≠ 3) ∧ (e.old = false → e.stops = false)) ∧
  1 ≤ kind ∧ kind ≤ 5 ∧ h % 16 = kind ∧
  (h / 2 ^ 4 % 2 = 1 ∨ kind = 2 ∨ kind = 3 ∨ kind = 4 → ∀ e ∈ x.entries, e.done = true) ∧ ∀ o < 192, s.poisoned (a + o) 8 = false

theorem at_entry (s : State) (q kind a : Nat) (hp : s.poison = []) (hs : s.soft = []) (h : AtEntryBut s q kind a) : AtEntry s q kind a := by
  obtain ⟨h1, h2, h3, h4, h5, h6, h7, h8, h9, h10, h11, h12, h13⟩ := h
  exact ⟨h1, h2, h3, h4, h5, h6, h7, h8, h9, h10, h11, h12, no_error s a 192 hp hs h13⟩

theorem stands (s : State) (q kind a : Nat) (hp : s.poison = []) (hs : s.soft = [])
    (h : AtEntryBut s q kind a ∧ wordAt s a / 2 ^ 5 % 8 = 0 ∧ wordAt s a / 2 ^ 11 = 0 ∧ ndepOf s a = 0) : Stands s q kind a :=
  ⟨at_entry s q kind a hp hs h.1, h.2.1, h.2.2.1, by simp [DepsRejected, h.2.2.2], by simp [DepsMet, h.2.2.2]⟩

theorem meets_stands :
    Stands (entryAt 1 0 (launchEntryWords 0x40003)) 3 1 0x1000 ∧ Stands (entryAt 5 0 [0x10, 0x20, 16, 2, 5, 6]) 3 5 0x1000 ∧
    ((entryAt 1 0 []).queue 3).passed = true := by
  refine ⟨stands _ _ _ _ rfl rfl ?_, stands _ _ _ _ rfl rfl ?_, ?_⟩
  all_goals first | (unfold AtEntryBut; decide +kernel) | decide +kernel

/-- Entries that R320 refuses by their header: five dependences, one on queue 2,048, reserved bits; the last two may wait for others. -/
theorem meets_header_rejection :
    (AtEntry (entryAt 0x501 0 []) 3 1 0x1000 ∧ DepsRejected (entryAt 0x501 0 []) 0x1000) ∧
    (let s := (entryAt 0x105 0 []).store 0x1010 8 2048
     AtEntry s 3 5 0x1000 ∧ DepsRejected s 0x1000) ∧
    (let s := (entryAt 0x824 0 []).store 0x1010 8 7
     AtEntry s 3 4 0x1000 ∧ DepsMet s 0x1000 ∧ wordAt s 0x1000 / 2 ^ 5 % 8 ≠ 0 ∧ wordAt s 0x1000 / 2 ^ 11 ≠ 0) ∧
    (let s := ((entryAt 0x103 0 []).store 0x1010 8 (2047 + 7 * 2 ^ 16)).store 0x8008 8 7
     DepsMet { s with queues := { Queue.reset 2047 with seq := 0x8008 } :: s.queues } 0x1000) := by
  refine ⟨⟨at_entry _ _ _ _ rfl rfl ?_, ?_⟩, ⟨at_entry _ _ _ _ rfl rfl ?_, ?_⟩, ⟨at_entry _ _ _ _ rfl rfl ?_, ?_, ?_, ?_⟩, ?_⟩
  all_goals first | (unfold AtEntryBut; decide +kernel) | (unfold DepsRejected; decide +kernel) | (unfold DepsMet; decide +kernel) | decide +kernel

/-- R253, R320: the rejected entry takes its number. -/
theorem test_header_rejection :
    consumed (run (.copyEntry 3) ((entryAt 0x105 0 []).store 0x1010 8 2048)) = [7, 1, 5, 0x31, 0x2000, 0x1008] ∧
    consumed (run (.launchEntry 3) (entryAt 0x501 0 [])) = [7, 1, 5, 0x31, 0x2000, 0x1008] ∧
    run (.launchEntry 3) ((entryAt 0x101 0 []).store 0x1010 8 (3 + 9 * 2 ^ 16)) = (entryAt 0x101 0 []).store 0x1010 8 (3 + 9 * 2 ^ 16) := by decide +kernel

def reservedBits (d : Descriptor) : Bool := decide (2 ^ 58 ≤ d.shape.toNat ∨ 2 ^ 13 ≤ d.flags.toNat) || d.rsv.any fun w => decide (w ≠ 0)

theorem reserved_set_iff (d : Descriptor) : ReservedSet d ↔ reservedBits d = true := by
  unfold ReservedSet reservedBits
  simp only [Bool.or_eq_true, List.any_eq_true, decide_eq_true_eq, or_assoc]

theorem meets_launch_entry :
    let D := entryDesc
    let fit := fun n => ∀ k, ¬ LaunchRefused none (D n) mregReset [] k
    (¬ ReservedSet (D 0x110000) ∧ FieldRefused (D 0x110000)) ∧ ReservedSet (D (2 ^ 58)) ∧
    (¬ FieldRefused (D 0x200000100000) ∧ LaunchRefused none (D 0x200000100000) mregReset [] 4) ∧
    (¬ FieldRefused (D 0x80000000FFF) ∧ fit 0x80000000FFF ∧ (D 0x80000000FFF).capacity < (D 0x80000000FFF).shape.toNat % 2 ^ 13 + 1) ∧
    (¬ FieldRefused (D 0x40003) ∧ fit 0x40003 ∧ (D 0x40003).shape.toNat % 2 ^ 13 + 1 ≤ (D 0x40003).capacity) ∧
    ((entryAt 1 0 (launchEntryWords 0x40003)).entryTable 3 0 16 (List.replicate 8 (0, 0x280000000000))).1 = .ok mregReset ∧
    ((entryAt 1 0 (launchEntryWords 0x40003)).entryTable 3 0 8 []).1 = .ok [] := by
  simp only [reserved_set_iff, fields_refused_iff, refused_iff]
  and_intros
  all_goals first
    | decide +kernel
    | (refine fun k h => not_refused _ _ _ _ ?_ k ((refused_iff ..).mpr h); decide +kernel)

/-- R237, R254–R256, R320: a rejected launch takes its number and is complete; a legal one queues its grid. -/
theorem test_launch_entry :
    consumed (run (.launchEntry 3) (entryAt 1 0 (launchEntryWords (2 ^ 58)))) = [7, 1, 5, 0x31, 0x2000, 0x1008] ∧
    consumed (run (.launchEntry 3) (entryAt 1 0 (launchEntryWords 0x110000))) = [7, 1, 5, 0x33, 0x2000, 0x1008] ∧
    consumed (run (.launchEntry 3) (entryAt 1 0 (launchEntryWords 0x80000000FFF))) = [7, 1, 5, 0x36, 0x2000, 0x1008] ∧
    (let s : State := { entryAt 1 0 (launchEntryWords 0x40003) with oracle := [6] }
     consumed (run (.launchEntry 3) s) = [7, 0, 0, 0, 0x2000, 0x1008] ∧
     ((run (.launchEntry 3) s).grids.map fun g => (g.prio, g.desc.entry)) = [(0, 0xF000000000000), (3, 0x800)]) := by decide +kernel

/-- A breakpoint on the entry point, not yet passed. -/
def broken : State :=
  let s := entryAt 1 0 (launchEntryWords 0x40003)
  { s with queues := s.queues.map (fun q => { q with passed := false }), host := { s.host with irqaddr := 0x6000, cpba := [0, 0x800, 0, 0], cpbc := [0, 0x70003, 0x50003, 0] } }

theorem meets_breakpoint :
    Stands broken 3 1 0x1000 ∧ ¬ ReservedSet (entryDesc 0x40003) ∧ (broken.queue 3).passed = false ∧
    broken.host.breakpoints (entryDesc 0x40003).entry 3 = [1, 2] := by
  refine ⟨stands _ _ _ _ rfl rfl ?_, (reserved_set_iff _).not.mpr ?_, ?_⟩
  all_goals first | (unfold AtEntryBut; decide +kernel) | decide +kernel

theorem test_breakpoint :
    let t := run (.launchEntry 3) broken
    (t.queue 3).held = [1, 2] ∧ (t.queue 3).entries = [] ∧ t.host.cpbc = [0, 0xF0003, 0xD0003, 0] ∧ t.load 0x6000 4 = 0x303 := by decide +kernel

theorem meets_copy_entry :
    (let s := entryAt 5 0 [7, 0, 2 ^ 20 + 1, 1]
     Stands s 3 5 0x1000 ∧ 2 ^ 20 < (bodyWord s 0x1000 2).toNat) ∧
    (let s := entryAt 5 0 [7, 0, 2 ^ 20, 0]
     Stands s 3 5 0x1000 ∧ viewOf (bodyWord s 0x1000 0) < 6 ∧ (bodyWord s 0x1000 2).toNat ≤ 2 ^ 20 ∧ (bodyWord s 0x1000 3).toNat = 0) ∧
    (let s := entryAt 5 0 [0x10, 0x20, 16, 2 ^ 16, 5, 6]
     Stands s 3 5 0x1000 ∧ viewOf (bodyWord s 0x1000 1) < 6 ∧ (bodyWord s 0x1000 3).toNat ≤ 2 ^ 16 ∧ (s.copies.filter (·.cluster == 1023)).length < 32) := by
  refine ⟨⟨stands _ _ _ _ rfl rfl ?_, ?_⟩, ⟨stands _ _ _ _ rfl rfl ?_, ?_⟩, ⟨stands _ _ _ _ rfl rfl ?_, ?_⟩⟩
  all_goals first | (unfold AtEntryBut; decide +kernel) | decide +kernel

theorem test_copy_entry :
    consumed (run (.copyEntry 3) (entryAt 5 0 [7, 0, 2 ^ 20 + 1, 1])) = [7, 1, 5, 0x34, 0x2000, 0x1008] ∧
    consumed (run (.copyEntry 3) (entryAt 5 0 [7, 0, 0, 1])) = [7, 1, 0, 0, 0x2000, 0x1008] ∧
    (let t := run (.copyEntry 3) { entryAt 5 0 [0x10, 0x20, 16, 2, 5, 6] with oracle := [1023] }
     consumed t = [7, 0, 0, 0, 0x2000, 0x1008] ∧ t.copies.map (fun c => (c.cluster, c.kind, c.ops)) = [(1023, 0, [0x10, 0x20, 16, 2, 5, 6])]) := by
  decide +kernel

theorem meets_illegal_kind :
    ((entryAt 0 0 []).mayConsume 3 = true ∧ ((entryAt 0 0 []).queue 3).pos = 0x1000 ∧ wordAt (entryAt 0 0 []) 0x1000 % 16 = 0) ∧
    ((entryAt 6 0 []).mayConsume 3 = true ∧ 5 < wordAt (entryAt 6 0 []) 0x1000 % 16) ∧ NoError (entryAt 6 0 []) 0x1000 192 ∧ NoError (entryAt 0 0 []) 0x1000 192 := by
  refine ⟨?_, ?_, no_error _ _ _ rfl rfl ?_, no_error _ _ _ rfl rfl ?_⟩
  all_goals decide +kernel

theorem test_illegal_kind :
    consumed (run (.illegalKindEntry 3) (entryAt 0 0 [])) = [7, 1, 5, 0x30, 0x2000, 0x1008] ∧
    consumed (run (.illegalKindEntry 3) (entryAt 6 0 [])) = [7, 1, 5, 0x30, 0x2000, 0x1008] := by decide +kernel

/-- A graph node with an OP; a wait for a word; a signal. -/
def node (op w : Nat) : State := entryAt 2 w [0x20010, op, 0x3000, 0x4000, 0x5000, 0x6000, 0x7000]
def awaitWord (op v w : Nat) : State := entryAt 3 w [0x20010, v, op]
def signal (op v w : Nat) : State := (entryAt 4 w [0x20010, v, op]).setFull 0x50010 false

/-- The machine after the referee has checked the word. -/
def checked (s : State) (needW : Bool) : State := (s.engineCheck (.queue 3) 0x20010 8 needW).2

/-- Nothing keeps an entry of a kind from its word at 0x50010. -/
def EntryReady (s : State) (kind : Nat) (needW : Bool) : Prop :=
  effAddr (bodyWord s 0x1000 0) 0 = 0x20010 ∧ Stands s 3 kind 0x1000 ∧ s.engineCheck (.queue 3) 0x20010 8 needW = (.ok [0x50010], checked s needW) ∧
  Reachable (checked s needW) 0x50010

theorem reachable (s : State) (hp : s.poison = []) (hs : s.soft = [])
    (h : s.engineHeld 0x50010 = false ∧ (∀ o < 8, s.poisoned (0x50010 + o) 8 = false) ∧ s.chunkWrites = none) : Reachable s 0x50010 :=
  ⟨h.1, no_error s _ _ hp hs h.2.1, by decide, clean s hp hs, h.2.2⟩

theorem entry_ready (s : State) (kind : Nat) (needW : Bool) (h1 : effAddr (bodyWord s 0x1000 0) 0 = 0x20010) (h2 : Stands s 3 kind 0x1000)
    (h3 : s.engineCheck (.queue 3) 0x20010 8 needW = (.ok [0x50010], checked s needW)) (hp : (checked s needW).poison = []) (hs : (checked s needW).soft = [])
    (h : (checked s needW).engineHeld 0x50010 = false ∧ (∀ o < 8, (checked s needW).poisoned (0x50010 + o) 8 = false) ∧ (checked s needW).chunkWrites = none) :
    EntryReady s kind needW := ⟨h1, h2, h3, reachable _ hp hs h⟩

theorem meets_graph_entry :
    EntryReady (node 0 0) 2 false ∧ EntryReady (node 1 7) 2 true ∧ EntryReady (node 0x302 7) 2 false ∧
    (bodyWord (node 0x302 7) 0x1000 1).toNat / 2 ^ 8 % 16 = 3 := by
  refine ⟨entry_ready _ _ _ ?_ (stands _ _ _ _ rfl rfl ?_) ?_ ?_ ?_ ?_, entry_ready _ _ _ ?_ (stands _ _ _ _ rfl rfl ?_) ?_ ?_ ?_ ?_, entry_ready _ _ _ ?_ (stands _ _ _ _ rfl rfl ?_) ?_ ?_ ?_ ?_, ?_⟩
  all_goals first | (unfold AtEntryBut; decide +kernel) | decide +kernel

/-- An OP that is none, a switch of no targets, a misaligned word, a word whose page is absent; OPs of the other kinds. -/
theorem meets_bad_entry :
    (Stands (node 3 0) 3 2 0x1000 ∧ (bodyWord (node 3 0) 0x1000 1).toNat % 4 = 3) ∧
    (Stands (entryAt 2 0 [0x20014, 0]) 3 2 0x1000 ∧ locOf (effAddr (bodyWord (entryAt 2 0 [0x20014, 0]) 0x1000 0) 0) % 8 ≠ 0) ∧
    (Stands (entryAt 4 0 [0x40000000, 7, 2]) 3 4 0x1000 ∧
      (entryAt 4 0 [0x40000000, 7, 2]).engineCheck (.queue 3) 0x40000000 8 true = (.absent 0x40000000, entryAt 4 0 [0x40000000, 7, 2])) ∧
    (Stands (awaitWord 4 5 6) 3 3 0x1000 ∧ 3 < (bodyWord (awaitWord 4 5 6) 0x1000 2).toNat) := by
  refine ⟨⟨stands _ _ _ _ rfl rfl ?_, ?_⟩, ⟨stands _ _ _ _ rfl rfl ?_, ?_⟩, ⟨stands _ _ _ _ rfl rfl ?_, ?_⟩, ⟨stands _ _ _ _ rfl rfl ?_, ?_⟩⟩
  all_goals first | (unfold AtEntryBut; decide +kernel) | decide +kernel

/-- R320: 0x32 for a graph entry, after which its queue stops; 0x31 and 0x35 for the others. -/
theorem test_bad_entry :
    consumed (run (.graphEntry 3) (node 3 0)) = [7, 1, 5, 0x32, 0x2000, 0x1008] ∧
    consumed (run (.graphEntry 3) (entryAt 2 0 [0x20014, 0])) = [7, 1, 5, 0x32, 0x2000, 0x1008] ∧
    consumed (run (.signalEntry 3) (entryAt 4 0 [0x40000000, 7, 2])) = [7, 1, 5, 0x35, 0x2000, 0x1008] ∧
    consumed (run (.waitValueEntry 3) (awaitWord 4 5 6)) = [7, 1, 5, 0x31, 0x2000, 0x1008] := by decide +kernel

/-- R257: the branch goes by zero, a loop counts down while its word is positive, a switch takes the last target beyond its end. -/
theorem test_graph_entry :
    consumed (run (.graphEntry 3) (node 0 0)) = [7, 1, 0, 0, 0x3000, 0x1050] ∧ (consumed (run (.graphEntry 3) (node 0 5))).getD 4 0 = 0x4000 ∧
    ((run (.graphEntry 3) (node 1 7)).load 0x50010 8 = 6 ∧ (consumed (run (.graphEntry 3) (node 1 7))).getD 4 0 = 0x4000) ∧
    ((run (.graphEntry 3) (node 1 (2 ^ 63))).load 0x50010 8 = 0x8000000000000000 ∧ (consumed (run (.graphEntry 3) (node 1 0))).getD 4 0 = 0x3000) ∧
    (consumed (run (.graphEntry 3) (node 0x302 7))).getD 4 0 = 0x5000 ∧ (consumed (run (.graphEntry 3) (node 0x302 1))).getD 4 0 = 0x4000 := by decide +kernel

theorem meets_wait_entry :
    EntryReady (awaitWord 3 4 6) 3 false ∧ (checked (awaitWord 3 4 6) false).walkErrorKey 3 (locOf 0x20010) = none ∧ (checked (awaitWord 3 4 6) false).keyIn (.queue 3) (locOf 0x20010) = some 0x50010 ∧ (bodyWord (awaitWord 3 4 6) 0x1000 2).toNat ≤ 3 := by
  refine ⟨entry_ready _ _ _ ?_ (stands _ _ _ _ rfl rfl ?_) ?_ ?_ ?_ ?_, ?_, ?_, ?_⟩
  all_goals first | (unfold AtEntryBut; decide +kernel) | decide +kernel

/-- R256: the four comparisons. -/
theorem test_wait_entry :
    let met := fun (op x w : Nat) => ((run (.waitValueEntry 3) (awaitWord op x w)).queue 3).entries.map (·.done)
    met 0 5 5 = [true] ∧ met 0 5 6 = [false] ∧ met 1 5 5 = [true] ∧ met 1 5 4 = [false] ∧ met 2 5 6 = [true] ∧ met 2 5 5 = [false] ∧
    met 3 4 6 = [true] ∧ met 3 4 3 = [false] := by decide +kernel

/-- A queue in its wait, whose word has changed or not. -/
def polling (w : Nat) : State := (run (.waitValueEntry 3) (awaitWord 0 5 6)).store 0x50010 8 w

theorem meets_poll :
    ((polling 5).queue 3).waitKind = some (0x20010, 5, 0) ∧ (polling 5).keyIn (.queue 3) 0x20010 = some 0x50010 ∧ (polling 5).walkErrorKey 3 0x20010 = none ∧ Reachable (polling 5) 0x50010 ∧
    ((run (.waitValuePoll 3) (polling 5)).queue 3).waitKind = none ∧ ((run (.waitValuePoll 3) (polling 6)).queue 3).waitKind = some (0x20010, 5, 0) := by
  refine ⟨?_, ?_, ?_, reachable _ ?_ ?_ ?_, ?_, ?_⟩
  all_goals decide +kernel

theorem meets_signal_entry : EntryReady (signal 2 7 9) 4 true ∧ (signal 2 7 9).fabric = [] ∧ EntryReady (signal 1 7 9) 4 true := by
  refine ⟨entry_ready _ _ _ ?_ (stands _ _ _ _ rfl rfl ?_) ?_ ?_ ?_ ?_, ?_, entry_ready _ _ _ ?_ (stands _ _ _ _ rfl rfl ?_) ?_ ?_ ?_ ?_⟩
  all_goals first | (unfold AtEntryBut; decide +kernel) | decide +kernel

theorem test_signal_entry :
    ((run (.signalEntry 3) (signal 0 7 9)).load 0x50010 8 = 7 ∧ (run (.signalEntry 3) (signal 0 7 9)).isFull 0x50010 = false) ∧
    (run (.signalEntry 3) (signal 1 0xFFFFFFFFFFFFFFFF 9)).load 0x50010 8 = 8 ∧
    ((run (.signalEntry 3) (signal 2 7 9)).load 0x50010 8 = 7 ∧ (run (.signalEntry 3) (signal 2 7 9)).isFull 0x50010 = true) := by decide +kernel

/-- Three entries, 5 and 7 complete, 6 not, after the sequence number given. -/
def completing (seqDone : Nat) : State :=
  let e := fun (id n : Nat) (fin : Bool) =>
    ({ id := id, num := n, old := false, addr := 0x2000 + 0x100 * n, kind := 1, grid := 3, done := fin, status := 1, cause := 2, written := false, stops := n == 7 } : QEntry)
  { bench with
    host := { bench.host with irqaddr := 0x9004 }
    queues := [{ Queue.reset 3 with seq := 0x8008, seqDone := seqDone, en := true, sirq := true, entries := [e 1 7 true, e 2 5 true, e 3 6 false] }] }

theorem meets_completion :
    (((completing 4).queue 3).entries.map fun e => (e.id, e.num, e.done, e.written, e.old)) =
      [(1, 7, true, false, false), (2, 5, true, false, false), (3, 6, false, false, false)] ∧ ((completing 4).queue 3).seqDone + 1 = 5 ∧
    CachesClean (completing 4) ∧ (completing 4).chunkWrites = none ∧ (∀ b < 0x800000, isKeep b = false) := by
  refine ⟨by decide +kernel, by decide +kernel, clean _ rfl rfl, rfl, fun b hb => ?_⟩
  simp [isKeep]; omega

/-- R254, R255: entry 7 only leaves its record; entry 5 is the next, and the sequence word rises to it. -/
theorem test_completion :
    (let t := run (.entryComplete 3 7) (completing 4)
     t.load 0x2730 8 = 0x780030201 ∧ t.load 0x2738 8 = 5000 ∧ t.load 0x8008 8 = 0 ∧ ((t.queue 3).entries.map (·.written)) = [true, false, false] ∧ (t.queue 3).en = false) ∧
    (let t := run (.entryComplete 3 5) (completing 4)
     t.load 0x2530 8 = 0x580030201 ∧ t.load 0x8008 8 = 5 ∧ t.load 0x9004 4 = 0x301 ∧ ((t.queue 3).entries.map (·.num)) = [7, 6] ∧ (t.queue 3).seqDone = 5 ∧ (t.queue 3).en = true) := by
  decide +kernel

/-! ### Replies to fault service -/

/-- A thread in fault service, or its `vloop`, or a copy, or a matrix record; the thread has a trap vector or none. -/
def served (who : FsWho) (tvec : Word) : State :=
  { inWait (match who with | .thread _ => .service 7 | _ => .running) with
    fs := [⟨7, 0x12345678, me, 0, 0, 4000, who, true⟩], copies := [{ aCopy with id := 5, paused := some 7 }]
    cores := [{ Core.reset 0 with mq := [{ mmaRec with paused := some 7 }] }]
    cur := { (inWait (match who with | .thread _ => .service 7 | _ => .running)).cur with
      tvec := tvec, vreplay := match who with | .replay _ => some { lastReplay with paused := some 7 } | _ => none } }

/-- A thread in `next` since cycle 44, where the append of a task's value met an absent page (R232). -/
def seeking : State :=
  { inWait (.service 7) with fs := [⟨7, 0x12345678, me, 1, 0, 4000, .seek me 44, true⟩] }

theorem meets_reply :
    (served (.thread me) 0x800).fs.find? (·.token == 7) = some ⟨7, 0x12345678, me, 0, 0, 4000, .thread me, true⟩ ∧
    (served (.thread me) 0x800).thread? me = some (served (.thread me) 0x800).cur ∧ me.grid ≠ 0 ∧ (served (.thread me) 0x800).cur.wait = .service 7 ∧
    bits (served (.thread me) 0x800).cur.tstat 9 9 = 0 ∧ bits (served (.thread me) 0x800).cur.tvec 55 3 ≠ 0 ∧
    (served (.replay me) 0).cur.vreplay = some { lastReplay with paused := some 7 } ∧
    (seeking.fs.find? (·.token == 7) = some ⟨7, 0x12345678, me, 1, 0, 4000, .seek me 44, true⟩ ∧ seeking.cur.wait = .service 7) := by decide +kernel

theorem test_reply :
    (run (.fsreplyRetry 7) (served (.thread me) 0x800)).cur.wait = .running ∧ (run (.fsreplyRetry 7) (served (.thread me) 0x800)).fs = [] ∧
    (run (.fsreplyRetry 7) seeking).cur.wait = .next 44 ∧
    (let t := run (.fsreplyTrap 7) (served (.thread me) 0x800)
     t.cur.pc = 0x800 ∧ t.cur.tpc = tcm ∧ t.cur.tcause = 1 ∧ t.cur.tval = 0x12345678 ∧ t.cur.wait = .running) ∧
    (run (.fsreplyRetry 7) (served (.copy 5) 0)).copies.map (·.paused) = [none] ∧
    (let t := run (.fsreplyTrap 7) (served (.copy 5) 0)
     t.copies.map (·.untilTret) = [true] ∧ t.cur.traps = [⟨1, 0x12345678, 5000⟩]) ∧
    ((run (.fsreplyTrap 7) (served (.record 0 5) 0)).core 0).mq.map (fun r => (r.paused, r.untilTret)) = [(none, true)] ∧
    (run (.fsreplyTrap 7) (served (.replay me) 0)).cur.vreplay.map (fun v => (v.paused, v.untilTret)) = some (none, true) ∧
    (let t := run (.fsreplyEnd 7) (served (.thread me) 0x800)
     t.cur.wait = .faulted ∧ (t.gridD 1).faults.map (fun f => (f.status, f.fpc)) = [(4, tcm)]) := by decide +kernel

/-! ### Debug blocks, reach programs, base dies, device registers -/

/-- The bench with cluster 0 halted or not, its debugger at an item and index of slot 0 of core 0. -/
def debugged (halted : Bool) (item idx : Nat) : State :=
  let s := (withRow' 13 63 0 [1, 2, 3] bench).store (at_ 8) 8 77
  { s with
    cur := { withRegs [(3, 33)] s with }.cur
    host := { s.host with irqaddr := 0x6000 }, clusters := [{ Cluster.reset 0 with halted := halted, why := if halted then 1 else 0, dsel := BitVec.ofNat 64 (item * 2 ^ 16 + idx * 2 ^ 40) }] }

theorem meets_debugger :
    ((debugged true 3 0).cluster 0).halted = true ∧ ((debugged false 3 0).cluster 0).halted = false ∧ selected (debugged true 3 0) 0 = some (debugged true 3 0).cur ∧
    selected (debugged true 3 0) 1 = none ∧ ((debugged true 3 0).cluster 0).dsel.toNat / 2 ^ 16 % 2 ^ 16 = 3 ∧
    ((debugged true 0x400 1).cluster 0).dsel.toNat / 2 ^ 40 = 1 ∧ 8 * 1 < ((debugged true 0x400 1).teamD 1 0).tcm ∧
    (debugged true 3 0).cur.reg 3 = 33 ∧ isSysNumber 0x13 = true ∧ isSysNumber 0x14 = false ∧
    ((debugged true 0x30D 2047).teamD 1 0).tiles[0xD]?.isSome = true ∧ (debugged true 3 0).cores = [] := by decide +kernel

/-- The first of the 8-byte units of row 63 in the debugger's numbering is 2,016; register 3; item 0x20 does not exist. -/
theorem test_debugger_reads :
    ((run (.ddataRead 0) (debugged false 3 0)).cluster 0).ddata = 33 ∧ ((run (.ddataRead 0) (debugged false 3 0)).cluster 0).dstat = 1 ∧
    ((run (.ddataRead 0) (debugged false 0x30D 2016)).cluster 0).ddata = 0x200000001 ∧
    ((run (.ddataRead 0) (debugged false 0x31D 0)).cluster 0).dstat = 1 ∧ ((run (.ddataRead 0) (debugged false 0x400 1)).cluster 0).ddata = 77 ∧
    ((run (.ddataRead 0) (debugged false 0x20 0)).cluster 0).dstat = 5 ∧ ((run (.ddataRead 0) (debugged false 3 1)).cluster 0).dstat = 5 := by decide +kernel

theorem test_debugger_writes :
    (run (.ddataWrite 0 5) (debugged true 3 0)).reg 3 = 5 ∧ ((run (.ddataWrite 0 5) (debugged false 3 0)).cluster 0).dstat = 5 ∧
    (run (.ddataWrite 0 0x1238) (debugged true 0x10 0)).cur.pc = 0x1238 ∧ ((run (.ddataWrite 0 0x1239) (debugged true 0x10 0)).cluster 0).dstat = 5 ∧
    (run (.ddataWrite 0 5) (debugged true 0x400 1)).load (at_ 8) 8 = 5 ∧
    (let t := run (.ddataWrite 0 0xAABBCCDD11223344) (debugged true 0x30D 2016)
     element 0 (rowAt t ⟨13, false, false, 63⟩) 0 = 0x11223344 ∧ element 0 (rowAt t ⟨13, false, false, 63⟩) 1 = 0xAABBCCDD ∧
     element 0 (rowAt t ⟨13, false, false, 63⟩) 2 = 3 ∧ (tileAt t 13).valid = false) := by decide +kernel

theorem test_halt_and_resume :
    (let t := run (.debugHalt 0) (debugged false 3 0)
     (t.cluster 0).halted = true ∧ (t.cluster 0).why = 1 ∧ t.load 0x6000 4 = 7) ∧
    (let t := run (.debugResume 0) (debugged true 3 0)
     (t.cluster 0).halted = false ∧ (t.cluster 0).why = 0 ∧ (t.gridD 1).placedSince = 5000) := by decide +kernel

/-- A reach block at rest, running, and about to stop. -/
def reaching (running : Bool) (stopping : BitVec 4) : State :=
  { bench with
    host := { bench.host with irqaddr := 0x6000 }
    reach := [{ Reach.reset 2 with run := running, stopping := stopping, rpc := 0x100, args := [4, 5, 6, 7], regs := Vector.ofFn fun i => BitVec.ofNat 64 (10 + i.val) }] }

theorem meets_reach :
    ((reaching false 0).reachOf 2).run = false ∧ ((reaching false 0).reachOf 2).args.length = 4 ∧ 2 < (reaching false 0).host.nstacks ∧
    (bench.host.nstacks ≤ 7 ∧ (bench.reachOf 7).run = false) ∧ CachesClean (reaching false 0) ∧ ((reaching true 0).reachOf 2).stopping = 0 ∧ ((reaching true 0).reachOf 2).run = true ∧
    ((reaching true 5).reachOf 2).stopping ≠ 0 ∧ (reaching true 5).fabric = [] := by
  and_intros
  all_goals first | decide +kernel | exact clean _ rfl rfl

/-- The window of stack 2 is its blocks 32 to 63; of the package's four stacks the third has every fourth page, so that stack byte 0x2000
is byte 0xA000 of memory and byte 0x4000, past the window, 0x12000. There are errors in a clean and in a changed line of a bank at the one,
and in a changed line at the other. -/
def reachErrors : State :=
  { reaching false 0 with
    reach := [{ Reach.reset 2 with rpc := 0x100, args := [4, 5, 6, 7], rbase := 0x2000, rlen := 0x2000 }]
    poison := [bankClean 0x1400, bankDirty 0x1401, bankDirty 0x2400, 0x1403] }

theorem meets_reach_errors :
    (reachErrors.reachOf 2).run = false ∧ 2 < reachErrors.host.nstacks ∧ reachErrors.soft = [] ∧ (reachErrors.reachOf 2).args.length = 4 ∧
    reachErrors.lines = [] := by decide +kernel

/-- R294: the bank writes its changed line back, which is no more good, and drops the clean one. -/
theorem test_reach_errors :
    (run (.reachGo 2) reachErrors).poison = [bankDirty 0x2400, 0x1403, 0x1401] := by decide +kernel

theorem test_reach :
    (let r := (run (.reachGo 2) (reaching false 0)).reachOf 2
     r.run = true ∧ r.pc = 0x100 ∧ r.regs.toList = [0, 4, 5, 6, 7, 0, 0, 0, 0, 0, 0, 0, 0, 0, 0, 0]) ∧
    ((run (.reachStop 2) (reaching true 0)).reachOf 2).stopping = 5 ∧
    (let t := run (.reachProgramStop 2) (reaching true 5)
     (t.reachOf 2).status = 5 ∧ (t.reachOf 2).args = [11, 12, 13, 14] ∧ (t.reachOf 2).run = false ∧ t.load 0x6000 4 = 0x205) := by decide +kernel

/-- Stack 1 of four holds 24 GiB; a word of its block 64 is empty. -/
def stacked : State := { ((bench.store 0x1000 8 0x55).setFull 0x1010 false) with linksDown := [512] }

theorem meets_base_die :
    StackHolds stacked 1 0 64 ∧ StackHolds stacked 1 (24 * 2 ^ 24 - 4) 256 ∧ ¬ StackHolds stacked 1 (24 * 2 ^ 24) 64 ∧ ¬ StackHolds stacked 2 0 64 ∧
    ¬ StackHolds stacked 4 0 64 ∧ ¬ StackHolds stacked 1 1 256 ∧ stackByte stacked 1 0 = 0x1000 ∧ stackByte stacked 1 4096 = 0x5000 ∧
    stacked.host.nstacks ≤ 8 ∧ stacked.fabric = [] ∧ stacked.chunkWrites = none ∧ CachesClean stacked ∧ ∀ a n, NothingToCorrect stacked a n := by
  unfold StackHolds
  and_intros
  all_goals first | decide +kernel | exact clean _ rfl rfl | exact fun _ _ => correct_already _ _ _ rfl rfl

theorem test_base_die :
    ((run (.rd64 1 0 9) stacked).nolend.map fun r => (r.tag, r.error, r.data.take 2, r.data.length)) = [(9, false, [0x55, 0], 64)] ∧
    ((run (.rd64 2 0 9) stacked).nolend.map fun r => r.error) = [true] ∧
    ((run (.wr64 1 64 9 (2 ^ 504 + 3)) stacked).load 0x5000 8 = 3 ∧ (run (.wr64 1 64 9 (2 ^ 504 + 3)) stacked).byte 0x503F = 1) ∧
    ((run (.feopRead 1 0 9 2) stacked).nolend.map fun r => (r.bits, r.data.length)) = [([false], 8)] ∧
    (run (.feopSet 1 0 9 10 true) stacked).isFull 0x1010 = true ∧
    ((run (.metard 1 0 9) stacked).nolend.map (·.bits)) = [[true, true, false, true, true, true, true, true, false]] ∧
    ((run (.nolendIllegalCommand 1 9 7) stacked).nolend.map (·.error)) = [true] := by decide +kernel

/-- Errors: in word 9 of stack 1's second block, in a changed line of a bank at its third; one of one bit in its fourth. -/
def erring : State := { stacked with poison := [0x200 + 9, bankDirty 0x210], soft := [0x200 + 24] }

theorem meets_block_errors :
    StackHolds erring 1 2 64 ∧ StackHolds erring 1 1 64 ∧ stackByte erring 1 64 = 0x1040 ∧ BlockSound erring 0x1040 64 ∧ BlockBad erring 0x1040 64 = true ∧
    stackByte erring 1 128 = 0x1080 ∧ BlockSound erring 0x1080 64 ∧ BlockBad erring 0x1080 64 = false ∧
    ¬ BlockSound erring 0x10C0 8 ∧ BlockBad erring 0x1078 8 = true ∧ BlockBad erring 0x1038 8 = false := by
  unfold StackHolds BlockSound; decide +kernel

/-- R293, R344: the block's own code tells; an error in a line of a bank's cache is none of its. -/
theorem test_block_errors :
    ([0, 1, 2].map fun n => ((run (.rd64 1 n 9) erring).nolend.map fun r => r.error)) = [[false], [true], [false]] ∧
    ((run (.metard 1 1 9) erring).nolend.map fun r => r.bits.getLastD false) = [true] ∧
    ((run (.metard 1 2 9) erring).nolend.map fun r => r.bits.getLastD true) = [false] := by decide +kernel

/-- A request taken, its report still to come. -/
def attesting : State := { bench with host := { bench.host with attBusy := true, attTaken := (0x4000, [1, 2, 3, 4]), irqaddr := 0x6000 } }

theorem meets_registers :
    (0x10000 : Word).getLsbD 16 = true ∧ (0xFFFFFFFFFFFEFFFF : Word).getLsbD 16 = false ∧ (bench.queue 2047).en = false ∧ (nextZero.queue 3).en = true ∧
    ((reaching true 0).reachOf 2).run = true ∧ (bench.reachOf 7).run = false ∧ bench.host.attBusy = false ∧ attesting.host.attBusy = true ∧ Memory.wf attesting.mem = true := by
  decide +kernel

/-- Whether the address of a report is writable is not known to the model: each of its two clauses is met by some address, or by all
addresses but not the other. -/
theorem meets_attestation (a : Nat) : Config.hostWritable a = true ∨ Config.hostWritable a = false := by
  cases Config.hostWritable a <;> simp

/-- Breakpoints 0 and 1 hold an entry of queue 3, and breakpoint 0 one of queue 4. -/
def hitting : State :=
  { bench with
    host := { bench.host with cpbc := [0xD0003, 0xD0003, 0, 0] }
    queues := [{ Queue.reset 3 with held := [0, 1] }, { Queue.reset 4 with held := [0] }] }

/-- R291: clearing EN of one of two releases the entry; the other's HIT stays while it holds another. -/
theorem test_registers :
    (run (.deviceRegisterWrite 0x10 0xFFFFFFFFFFFFFFFF) bench).host.fsqbase = 0x1FFFFFFFFFFFE0 ∧
    (run (.deviceRegisterWrite 0x98 0xFFFFFFFFFFFFFFFF) bench).host.cpbc.getD 1 0 = 0x707FF ∧
    (let t := run (.deviceRegisterWrite 0x98 0xFFFFFFFFFFFEFFFF) hitting
     t.host.cpbc = [0xD0003, 0x607FF, 0, 0] ∧ (t.queue 3).held = [] ∧ (t.queue 4).held = [0]) ∧
    (run (.deviceRegisterWrite 0x12 0xFFFFFFFFFFFFFFFF) bench) = bench ∧
    ((run (.deviceRegisterWrite (0x10000 + 64 * 2047) 0xFFFFFFFFFFFFFFFF) bench).queue 2047).head = 0x1FFFFFFFFFFF00 ∧
    ((run (.deviceRegisterWrite (0x40000 + 64 * 7 + 0x38) 9) bench).reachOf 7).args = [0, 0, 0, 9] ∧
    ((run (.deviceRegisterWrite (0x100000 + 32 * 1023 + 8) 0xFFFFFFFFFFFFFFFF) bench).cluster 1023).dsel = 0xFFFFFF00FFFF003F ∧
    (run .attestationRequest { bench with host := { bench.host with attaddr := 8, attnonce := [1, 2, 3, 4] } }).host.attTaken = (8, [1, 2, 3, 4]) := by
  decide +kernel

/-- A packet's end. -/
def sentTo1 (header data : Nat) : State :=
  match stacked.packet 1 (BitVec.ofNat 64 header) (BitVec.ofNat 2048 data) with | .next t => t | _ => stacked

/-- R293: the fields of a packet's header: CMD 1, TAG 9, ADDR 64 · 0; then CMD 5 with SUB 10, which sets the bit of word 2. -/
theorem test_packet :
    ((sentTo1 (1 + 9 * 2 ^ 4) 0).nolend.map fun r => (r.tag, r.error, r.data.take 2)) = [(9, false, [0x55, 0])] ∧
    (sentTo1 (5 + 9 * 2 ^ 4 + 10 * 2 ^ 12) 1).isFull 0x1010 = true ∧ stacked.isFull 0x1010 = false := by decide +kernel

/-- The digest of "abc" that FIPS 180-4 gives as its example (log entry 47). -/
theorem test_sha384 :
    beNat (sha384 [0x61, 0x62, 0x63]) =
      0xCB00753F45A35E8BB5A03D699AC65007272C32AB0EDED1631A8B605A43FF5BED8086072BA1E7CC2358BAECA134C825A7 := by decide +kernel

/-! ### Power, temperature, links -/

/-- The bench's thread asleep until a cycle, under a queue that tolerates a wake of `lat` cycles, the core idle since cycle 0. -/
def sleeping (v lat : Nat) : State :=
  { inWait (.sleep (BitVec.ofNat 64 v) false) with queues := [{ Queue.reset 0 with lat := BitVec.ofNat 32 lat }] }

/-- It enters a state since cycle 3,000; it is in a state, and wakes since a cycle or not. -/
def entering (l : PowerLevel) (v now : Nat) : State :=
  { sleeping v 1000000 with cycle := BitVec.ofNat 64 now, cores := [{ Core.reset 0 with entering := some (l, 3000) }] }
def deep (l : PowerLevel) (waking : Option Word) (v : Nat) : State :=
  { sleeping v 1000000 with cores := [{ Core.reset 0 with power := l, waking := waking }] }

/-- A hot column. -/
def hot (s : State) : State := { s with sensors := [⟨0, 120, 0, false, 120, 3⟩] }

/-- The host asks core 0 to be in a state (R268). -/
def asked (l : PowerLevel) : State := { bench with gateReq := [(0, l)] }

theorem meets_gating :
    (let s := sleeping 1000000 1000000
     s.powered = true ∧ (s.core 0).entering = none ∧ (s.core 0).power = .run ∧ (s.core 0).waking = none ∧ s.heat 0 < 3 ∧ s.idle 0 = true ∧
     askedFor s 0 = .run ∧ s.mayEnter 0 .shadowedOff = true ∧ enterAfter .nap ≤ enterAfter .shadowedOff ∧ enterAfter .drowsy ≤ enterAfter .shadowedOff) ∧
    askedFor (asked .nap) 0 = .nap ∧ askedFor (hot bench) 0 = .shadowedOff ∧ askedFor (hot { bench with spares := [0, 1, 1, 1] }) 0 = .drowsy ∧
    (let s := sleeping 1000000 1999
     s.mayEnter 0 .shadowedOff = false ∧ s.mayEnter 0 .drowsy = false ∧ s.mayEnter 0 .nap = true ∧ s.mayEnter 0 .run = true) ∧
    (3 ≤ (hot bench).heat 0 ∧ (hot bench).spares.getD (0 / 2048) 0 ≠ 0 ∧ (hot { bench with spares := [0, 1, 1, 1] }).spares.getD 0 0 = 0) ∧
    (let s := entering .drowsy 1000000 3200
     (s.core 0).entering = some (.drowsy, 3000) ∧ (3000 : Word).toNat + enterAfter .drowsy ≤ s.cycle.toNat ∧ s.idle 0 = true) ∧
    (let s := entering .shadowedOff 1000000 17000
     (s.core 0).entering = some (.shadowedOff, 3000) ∧ (3000 : Word).toNat + 14000 ≤ s.cycle.toNat ∧ 0 ∉ s.mramBad ∧ s.idle 0 = true) ∧
    CachesClean (entering .shadowedOff 1000000 17000) := by
  and_intros
  all_goals first | decide +kernel | exact clean _ rfl rfl

theorem test_gating :
    ((run (.powerGate 0 .shadowedOff) (sleeping 1000000 1000000)).core 0).entering = some (.shadowedOff, 5000) ∧
    run (.powerGate 0 .nap) (sleeping 1000000 1000000) = sleeping 1000000 1000000 ∧
    ((run (.powerGate 0 .nap) (sleeping 1000000 1999)).core 0).entering = some (.nap, 5000) ∧
    ((run (.powerGate 0 .nap) (asked .nap)).core 0).entering = some (.nap, 5000) ∧ run (.powerGate 0 .drowsy) (asked .nap) = asked .nap ∧
    ((run (.powerGate 0 .drowsy) (hot { bench with spares := [0, 1, 1, 1] })).core 0).entering = some (.drowsy, 5000) ∧
    ((run (.powerGate 0 .drowsy) (entering .drowsy 1000000 3200)).core 0).power = .drowsy ∧
    ((run (.powerGate 0 .drowsy) (entering .drowsy 1000000 3199)).core 0).power = .run ∧
    (let t := run (.powerGate 0 .shadowedOff) (entering .shadowedOff 1000000 17000)
     (t.core 0).power = .shadowedOff ∧ (t.core 0).commitB = true ∧ (t.core 0).slotB.isSome = true ∧ (t.core 0).slotA = none) := by decide +kernel

theorem meets_waking :
    (let s := entering .drowsy 5000 3100
     (s.core 0).entering = some (.drowsy, 3000) ∧ s.wakeDue 0 .drowsy = true) ∧
    (let s := deep .drowsy none 7000
     (s.core 0).entering = none ∧ (s.core 0).power ≠ .run ∧ (s.core 0).waking = none ∧ s.wakeDue 0 .drowsy = true) ∧
    (let s := deep .drowsy (some 3000) 7000
     (s.core 0).waking = some 3000 ∧ (3000 : Word).toNat + wakeAfter .drowsy ≤ s.cycle.toNat ∧ 2 ^ 62 + 0 ∉ s.poison ∧ 2 ^ 62 + 0 ∉ s.soft) ∧
    (deep .drowsy (some 3001) 7000).cycle.toNat < (3001 : Word).toNat + wakeAfter .drowsy := by decide +kernel

theorem test_power_waking :
    (run (.wake 0) (entering .drowsy 5000 3100)).core 0 = { Core.reset 0 with idleSince := 3100 } ∧
    ((run (.wake 0) (deep .drowsy none 7000)).core 0).waking = some 5000 ∧ run (.wake 0) (deep .drowsy none 7001) = deep .drowsy none 7001 ∧
    ((run (.wake 0) (deep .drowsy (some 3000) 7000)).core 0).power = .run ∧
    run (.wake 0) (deep .drowsy (some 3001) 7000) = deep .drowsy (some 3001) 7000 := by decide +kernel

/-- A grid of continuous cadence. -/
def continuous : State := { bench.store (at_ 8) 1 5 with grids := bench.grids.map fun g => { g with desc := { g.desc with flags := 0x3E0 } } }

theorem meets_continuous :
    continuous.powered = true ∧ (continuous.core 0).power = .run ∧ (continuous.core 0).entering = none ∧ continuous.spares.getD (0 / 2048) 0 ≠ 0 ∧
    continuous.mramBad = [] ∧ (∃ q ∈ continuous.teams, q.core = some 0 ∧ (continuous.gridD q.grid).desc.flag 7 = true) := by decide +kernel

/-- The core after its commit, its thread gone on, its byte changed; then it loses power. -/
def committed : State :=
  { withRegs [(3, 9)] (continuous.store (at_ 8) 1 6) with cores := [committedCore continuous 0], oracle := [0] }
def committedSlot : Snapshot := continuous.snapshot 0

theorem meets_core_power_loss :
    committed.powered = true ∧ (2 ^ 62 + 0 ∉ committed.poison ∧ 2 ^ 62 + 0 ∉ committed.soft) ∧
    (if (committed.core 0).commitB then (committed.core 0).slotB else (committed.core 0).slotA) = some committedSlot ∧
    (∀ q ∈ committed.teams, q.core = some 0 → q.placedAt ≤ committedSlot.cycle ∧ ∃ y ∈ committedSlot.teams, y.grid = q.grid ∧ y.lteam = q.lteam) ∧
    committedSlot.pushes = [] ∧ (committed.teams.map fun q => (q.grid, q.lteam)).Nodup ∧ Memory.wf committed.mem = true ∧ Memory.wf committedSlot.tcm = true ∧
    (∀ p ∈ committedSlot.tcm, inShares (committed.teams.filter (·.core == some 0)) p.1 = true) ∧
    (bench.core 0).slotA = none ∧ (bench.core 0).slotB = none ∧ (bench.grids.map (·.num)).Nodup := by decide +kernel

theorem test_continuous : run (.continuousShadowCopy 0) continuous = { continuous with cores := [committedCore continuous 0] } := by decide +kernel

/-- R350: the team stands as it was committed; with no slot, its grid ends. -/
theorem test_core_power_loss :
    (let t := run (.corePowerLoss 0) committed
     t.cur.reg 3 = 0 ∧ t.byte (at_ 8) = 5 ∧ (t.core 0).unit = .inactive ∧ (t.gridD 1).faults = []) ∧
    ((run (.corePowerLoss 0) { bench with oracle := [0] }).gridD 1).faults.map (fun f => (f.cause, f.detail)) = [(0x1D, 1)] := by decide +kernel

/-- Two stores of a thread to the keep region in two epochs, the later one of them to a unit that another thread stored to before; a third
thread's store; and a full/empty bit cleared. The second of the first thread is known to be durable. -/
def keeping : State :=
  { bench.store 0x8000000010 8 7 with
    keepDurable := [(0x8000000018, 3)]
    keepPending := [⟨1, me, 4, 0x8000000000, 11, tcm, none⟩, ⟨2, ⟨8, 0, 0⟩, 0, 0x800000000C, 14, tcm, none⟩, ⟨4, me, 5, 0x8000000008, 12, tcm, none⟩,
      ⟨4, me, 5, 0x8000000009, 15, tcm, none⟩, ⟨5, ⟨9, 0, 0⟩, 0, 0x8000000010, 13, tcm, none⟩, ⟨6, ⟨8, 0, 0⟩, 0, 0x8000000018, 0, tcm, some false⟩]
    poison := [8, 0x1000000003] }

theorem meets_package_power_loss :
    (∀ p ∈ keeping.keepPending, keepWear p.key ∉ keeping.mramBad) ∧ keeping.keepPending ≠ [] ∧
    DurableStore keeping.keepPending [4] ⟨1, me, 4, 0x8000000000, 11, tcm, none⟩ :=
  ⟨by decide, by decide, .before _ ⟨4, me, 5, 0x8000000008, 12, tcm, none⟩ (by decide) (.reached _ (by decide) (by decide)) (by decide) (.inr (by decide))⟩

/-- R86: with it, the earlier epoch of its thread and the earlier store to its unit are durable too; nothing else is left. -/
theorem test_package_power_loss :
    (let t := run (.packagePowerLoss [4]) keeping
     t.mem = [(0x8000000000, 11), (0x8000000008, 12), (0x8000000009, 15), (0x800000000C, 14), (0x8000000018, 3)] ∧ t.empty = [] ∧ t.powered = false ∧
     t.grids = [] ∧ t.poison = [0x1000000003]) ∧
    (run (.packagePowerLoss [6]) keeping).empty = [0x1000000003] := by decide +kernel

/-- A sensor whose column stood at 94 °C. -/
def warm (failed : Bool) : State := ringed { bench with sensors := [⟨3, 94, 0, failed, 94, 0⟩] }

/-- R353: a reading out of range fails the sensor whatever the power model says; the clauses about the power model's temperature hold of
every temperature. -/
theorem meets_sensors :
    (((warm false).sensor 3).failed = false ∧ (151 : Int) > 150 ∧ (-41 : Int) < -40) ∧ ((warm true).sensor 3).failed = true ∧
    [heatLevel 0 94, heatLevel 0 95, heatLevel 1 91, heatLevel 1 90, heatLevel 0 105, heatLevel 3 111, heatLevel 3 110] = [0, 1, 1, 0, 2, 3, 2] := by
  decide +kernel

theorem test_sensors :
    (((run (.temperatureSample 3 151) (warm false)).sensor 3).failed = true) ∧
    (let t := run (.temperatureSample 3 (-41)) (warm false)
     t.load (0x8000 + 32 * 7 + 8) 8 = BitVec.ofNat 64 (7 + 3 * 65536) ∧ t.load (0x8000 + 32 * 7 + 24) 8 = 1) ∧
    [levelAt 0 94, levelAt 0 95, levelAt 1 91, levelAt 1 90, levelAt 0 105, levelAt 3 111, levelAt 3 110] = [0, 1, 1, 0, 2, 3, 2] := by decide +kernel

/-- A Nolend link that has replayed eight flits, or seven; a UCIe link; one that is down. -/
def linked (n : Nat) : State := ringed { bench with linkErrors := [(256, n)], linksDown := [2] }

theorem meets_links :
    256 ∉ (linked 8).linksDown ∧ 256 % 256 = 0 ∧ 8 ≤ countAt 256 (linked 8).linkErrors ∧ 257 % 256 ≠ 0 ∧ 2 ∈ (linked 8).linksDown := by decide +kernel

theorem test_links :
    (run (.linkFlitError 256) (linked 7)).linkErrors = [(256, 8)] ∧ run (.linkRetrain 256) (linked 7) = linked 7 ∧
    (let t := run (.linkRetrain 256) (linked 8)
     t.linkErrors = [] ∧ t.load (0x8000 + 32 * 7 + 8) 8 = 9 ∧ t.load (0x8000 + 32 * 7 + 24) 8 = 256) ∧
    (let t := run (.linkDown 256) (linked 8)
     t.linksDown = [256, 2] ∧ t.load (0x8000 + 32 * 7 + 8) 8 = 10) ∧ run (.linkDown 2) (linked 8) = linked 8 := by decide +kernel

/-- A read of another package's memory, under way. -/
def spanRead : Req := request .read [piece (2 ^ 40 + 8) 8 0] (.scalar 5 0 8 false)
def spanning : State := { bench with fabric := [spanRead], linksDown := [2], oracle := [1], fresh := 9 }

theorem meets_span :
    let lost := fun p : Piece => p.done = false ∧
      (p.key < 2 ^ 53 ∧ p.key / 2 ^ 40 ≠ spanning.host.pkgnum.toNat ∨ 2 ^ 56 ≤ p.key ∧ (p.key - 2 ^ 56) / 2 ^ 40 ≠ spanning.host.pkgnum.toNat)
    spanning.fabric.find? (·.id == spanRead.id) = some spanRead ∧ (∃ l ∈ spanning.linksDown, l % 256 = 2) ∧
    spanRead.pieces[0]? = some (piece (2 ^ 40 + 8) 8 0) ∧ lost (piece (2 ^ 40 + 8) 8 0) ∧ lost (piece (2 ^ 56 + 2 ^ 40 + 8 * 5) 8 0) ∧
    ¬ lost (piece 8 8 0) ∧ ¬ lost (piece (2 ^ 56 + 8 * 5) 8 0) ∧ spanRead.op = .read ∧ spanRead.dest = .scalar 5 0 8 false ∧ CachesClean spanning := by
  and_intros
  all_goals first | decide +kernel | exact clean _ rfl rfl

theorem test_span :
    let t := run (.spanRouteTimeout spanRead.id) spanning
    (t.gridD 1).faults.map (fun f => (f.cause, f.detail)) = [(0x1B, 0)] ∧ t.fabric = [] ∧ t.cur.wait = .faulted := by decide +kernel

/-! ### Bundles and steps -/

/-- A well-formed pair and a well-formed long instruction, with their words. -/
theorem meets_encoding :
    (Instr.addiCm 3 0 7).wf = true ∧ (Instr.add 4 3 3).wf = true ∧ encodeCtrl (.addiCm 3 0 7) = some 0x02600007 ∧ (encodeArith (.add 4 3 3)).isSome = true ∧
    (Instr.sel 5 1 2 3).wf = true ∧ encodeLong (.sel 5 1 2 3) = some 0x0010023081802800 ∧ encode (.sel 5 1 2 3) = some 0x0010023081802800 ∧
    decodeBundle 0x0900000002600007 = .pair (.addiCm 3 0 7) (.add 4 0 0) ∧ decodeBundle 0x0010023081802800 = .long (.sel 5 1 2 3) := by decide +kernel

/-- The machine with a bundle at its PC and core 0's issue due; the same with the act taken, and with the line filled. -/
def due (b : Nat) : State := State.reset.withFetchWord 64 b
def taken (b : Nat) : State := { due b with agenda := [] }
def filled (b : Nat) : State :=
  { taken b with cores := upsert Core.num { (taken b).core 0 with icache := (⟨0, 0xF000000000000, at_ 0, BitVec.ofNat 64 b⟩ :: ((taken b).core 0).icache).take 4096 } (taken b).cores }

theorem meets_issues_now (b : Nat) (hb : b = 0x0900000002600007 ∨ b = 0x0010023081802800 ∨ b = 0x0000000080000000) : IssuesNow (taken b) 0 := by
  rcases hb with rfl | rfl | rfl <;>
    (unfold IssuesNow; dsimp only
     and_intros
     all_goals decide +kernel)

theorem meets_fetches (b : Nat) (hb : b = 0x0900000002600007 ∨ b = 0x0010023081802800 ∨ b = 0x0000000080000000) :
    Fetches (taken b) (filled b) (BitVec.ofNat 64 b) := by
  rcases hb with rfl | rfl | rfl <;>
    (refine ⟨at_ 0, true, ?_⟩
     and_intros
     all_goals decide +kernel)

/-- `run` and `stepped` give what `exec` and `step` answer. -/
theorem exec_eq (i : Instr) (s : State) (h : (match exec i s with | .next _ => true | _ => false) = true) : exec i s = .next (run i s) := by
  unfold run; revert h; cases exec i s <;> simp
theorem step_eq (s : State) (h : (match step s with | .next _ => true | _ => false) = true) : step s = .next (stepped s) := by
  unfold stepped; revert h; cases step s <;> simp

/-- What the two clauses about a legal bundle ask of the state that `exec` leaves. -/
theorem meets_step :
    (let t := run (.addiCm 3 0 7) (filled 0x0900000002600007)
     t.aborted = false ∧ wrapped (taken 0x0900000002600007).cur t.cur = false ∧
     (∀ r, t.cur.stream? r = none) ∧ t.poison = [] ∧ t.soft = [] ∧ writesOf (.add 4 0 0) = [4]) ∧
    (let t := run (.sel 5 1 2 3) (filled 0x0010023081802800)
     t.aborted = false ∧ wrapped (taken 0x0010023081802800).cur t.cur = false ∧
     (∀ r, t.cur.stream? r = none) ∧ t.poison = [] ∧ t.soft = []) ∧
    decodeBundle 0x0000000080000000 = .illegal 3 := by decide +kernel

theorem meets_step_answers :
    exec (.addiCm 3 0 7) (filled 0x0900000002600007) = .next (run (.addiCm 3 0 7) (filled 0x0900000002600007)) ∧
    exec (.sel 5 1 2 3) (filled 0x0010023081802800) = .next (run (.sel 5 1 2 3) (filled 0x0010023081802800)) :=
  ⟨exec_eq _ _ (by decide +kernel), exec_eq _ _ (by decide +kernel)⟩

/-- The step is what the statement says: for the pair, for the long instruction, for the illegal bundle. -/
theorem test_steps :
    (let t := run (.addiCm 3 0 7) (filled 0x0900000002600007)
     stepped (due 0x0900000002600007) = issuedFrom { t with cur := { t.cur.setReg 4 0 with got := [], half := none } } 0 0) ∧
    (let t := run (.sel 5 1 2 3) (filled 0x0010023081802800)
     stepped (due 0x0010023081802800) = issuedFrom { t with cur := { t.cur with got := [], half := none } } 0 0) ∧
    stepped (due 0x0000000080000000) = issuedFrom (run (.illegalBundle 3 0x80000000) (filled 0x0000000080000000)) 0 0 := by decide +kernel

/-- Fetches that fail: a page without execute permission, an address that is not mapped, a page that is not present; and one that succeeds. -/
def atPc (pc : Word) (leaf : Nat) : State := { paged.store 0x40010 8 leaf with cur := { bench.cur with pc := pc } }

/-- A page of another package while a span link is down; no word of it is in error where the package is one that the span reaches. -/
def afar : State := { atPc 0x20008 0x1000005000F with linksDown := [2], oracle := [1] }

theorem afar_sound (h : Config.spanReach 1 = true) :
    let u := (afar.place 1 0x20008).2
    u.poisoned (u.mapKey 0x10000050008) 8 = false := by
  have hk : (afar.place 1 0x20008).2.mapKey 0x10000050008 = 0x10000050008 := by decide +kernel
  dsimp only
  rw [hk]
  unfold State.poisoned State.homeless State.unreached
  rw [show 0x10000050008 / 2 ^ 40 = 1 from rfl, h]
  decide +kernel

theorem meets_fetch_fault :
    (let s := atPc 0x20008 0x50007
     (s.place 1 0x20008).1 = .mem 0x50008 true false) ∧
    (let s := atPc 0xF200000000000 0x5000F
     ∃ d, (s.place 1 0xF200000000000).1 = .bad 0x14 d) ∧
    (let s := atPc 0x20008 0
     (s.place 1 0x20008).1 = .absent) ∧
    (let u := (afar.place 1 0x20008).2
     (afar.place 1 0x20008).1 = .mem 0x10000050008 true true ∧ u.spanDown = true ∧ u.farKey 0x10000050008 = true) ∧
    (let s := atPc 0x20008 0x5000F
     (s.place 1 0x20008).1 = .mem 0x50008 true true ∧ (s.place 1 0x20008).2.poisoned ((s.place 1 0x20008).2.mapKey 0x50008) 8 = false) := by
  refine ⟨by decide +kernel, ⟨_, rfl⟩, by decide +kernel, ?_, by decide +kernel⟩
  decide +kernel

theorem test_fetch_fault :
    ((run .fetchFault (atPc 0x20008 0x50007)).gridD 1).faults.map (fun f => (f.cause, f.detail, f.fval)) = [(0x15, 1, 0x20008)] ∧
    (let t := run .fetchFault (atPc 0x20008 0)
     t.fs.map (fun r => (r.kind, r.va)) = [(2, 0x20008)]) ∧
    (run .fetchFault (atPc 0x20008 0x5000F)).cur = (atPc 0x20008 0x5000F).cur ∧
    ((run .fetchFault afar).gridD 1).faults.map (fun f => (f.cause, f.detail, f.fval)) = [(0x1B, 0, 0x20008)] := by decide +kernel

/-- The memories are in their form at reset and on the bench. -/
theorem meets_memories : State.reset.MemWf ∧ (due 0x0900000002600007).MemWf := by
  refine ⟨⟨by decide, by decide, fun g hg => by simp [State.reset] at hg⟩, by decide +kernel, by decide +kernel, ?_⟩
  intro g hg x hx
  have : g = (due 0x0900000002600007).gridD 1 := by
    have h : (due 0x0900000002600007).grids = [(due 0x0900000002600007).gridD 1] := by decide +kernel
    rw [h] at hg; simpa using hg
  subst this
  exact absurd hx (by rw [show ((due 0x0900000002600007).gridD 1).replay.apart = none by decide +kernel]; simp)

theorem meets_memories_step : ∃ t, step (due 0x0900000002600007) = .next t := ⟨_, step_eq _ (by decide +kernel)⟩

/-! ### Evaluation, sampling, roots, swaps -/

/-- The hypotheses of each clause together; those of an exchange are in `meets_exchange`, of forwarding in `meets_forwarding`. -/
theorem meets_evaluation_completes :
    Holds (functions fX fOne) 0 fX ∧ MayProduce (functions fX fOne) 0 ∧ TilesFree (functions fX fOne) [15, 13] ∧ TilesFree (functions fX fOne) [13] ∧
    RowsSound (functions fX fOne) [rA] ∧ 1 ≤ (8 : BitVec 8).toNat ∧ (8 : BitVec 8).toNat ≤ elemCount (tileAt (functions fX fOne) 13).type ∧
    poolHeld (functions fX fOne) + 8 * 8 ≤ poolShare (functions fX fOne) := by
  obtain ⟨h1, -, h3⟩ := functions_hold fX fOne (by decide) (by decide)
  exact ⟨h1, h3 0, functions_tiles.1, ⟨tiles_idle _ _ rfl rfl rfl rfl rfl, by decide +kernel⟩, functions_tiles.2, by decide, by decide +kernel, by decide +kernel⟩

/-- R225, R228: x at −1 is −1, its root in [−1, 1] is 0. -/
theorem test_evaluation_completes :
    (run (.feval 5 0 2) (functions fX fOne)).reg 5 = minusOne ∧ (run (.froot 5 0 2 3) (functions fX fOne)).reg 5 = 0 := by decide +kernel

end Sys2Proof.Tests
end

/-! SUPPORT. Cores under updates, and placement swaps (R44–R48): the choice of pairs at an instant, and what an exchange leaves. -/

namespace Sys2Proof.Machine

/-! ### Cores under updates -/

theorem State.core_num (s : State) (c : Nat) : (s.core c).num = c := by
  unfold State.core
  cases h : s.cores.find? (·.num == c) with
  | none => rfl
  | some k => simpa using List.find?_some h

/-- A core that is not listed is at reset. -/
theorem State.core_unlisted {s : State} {c : Nat} (h : c ∉ s.cores.map (·.num)) : s.core c = Core.reset c := by
  unfold State.core
  rw [List.find?_eq_none.2 fun k hk e => h (List.mem_map.2 ⟨k, hk, by simpa using e⟩)]
  rfl

/-- One core changed by a function. -/
def State.modCore (s : State) (d : Nat) (f : Core → Core) : State := s.setCore (f (s.core d))

theorem State.core_modCore (s : State) (d : Nat) (f : Core → Core) (hf : ∀ k, (f k).num = k.num) (c : Nat) :
    (s.modCore d f).core c = if c = d then f (s.core c) else s.core c := by
  unfold State.modCore
  rw [State.core_setCore, hf, State.core_num]
  by_cases h : c = d
  · subst h; simp
  · simp [h]

/-- A core after all listed ones are changed by a function that keeps their numbers: one that is not listed stays at reset. -/
theorem State.core_mapCores (s : State) (f : Core → Core) (hf : ∀ k, (f k).num = k.num) (c : Nat) :
    ({ s with cores := s.cores.map f } : State).core c = if c ∈ s.cores.map (·.num) then f (s.core c) else s.core c := by
  have hfind : (s.cores.map f).find? (·.num == c) = (s.cores.find? (·.num == c)).map f := by
    rw [List.find?_map]; congr 2; funext k; simp [hf]
  unfold State.core
  rw [hfind]
  cases h : s.cores.find? (·.num == c) with
  | none =>
    have hc : c ∉ s.cores.map (·.num) := by simpa using h
    rw [if_neg hc]; rfl
  | some k =>
    have hc : c ∈ s.cores.map (·.num) := List.mem_map.2 ⟨k, List.mem_of_find?_eq_some h, by simpa using List.find?_some h⟩
    rw [if_pos hc]; rfl

/-- Nothing but the cores may differ. -/
def CoresOnly (s t : State) : Prop := t = { s with cores := t.cores }

theorem CoresOnly.refl (s : State) : CoresOnly s s := rfl

theorem CoresOnly.trans {s t u : State} (h : CoresOnly s t) (k : CoresOnly t u) : CoresOnly s u := by
  unfold CoresOnly at *
  exact k.trans (by rw [h])

theorem State.setCore_only (s : State) (k : Core) : CoresOnly s (s.setCore k) := rfl

/-- The cores of a list changed by one function. -/
def State.modCores (s : State) (l : List Nat) (f : Core → Core) : State := l.foldl (fun t d => t.modCore d f) s

theorem State.modCores_only (s : State) (l : List Nat) (f : Core → Core) : CoresOnly s (s.modCores l f) := by
  induction l generalizing s with
  | nil => exact .refl s
  | cons d r ih => exact (s.setCore_only _).trans (ih _)

/-- A core that the list names twice is changed as if it were named once, where the function leaves its own results alone. -/
theorem State.core_modCores (s : State) (l : List Nat) (f : Core → Core) (hf : ∀ k, (f k).num = k.num) (hi : ∀ k, f (f k) = f k)
    (c : Nat) : (s.modCores l f).core c = if c ∈ l then f (s.core c) else s.core c := by
  unfold State.modCores
  induction l generalizing s with
  | nil => simp
  | cons d r ih =>
    rw [List.foldl_cons, ih, State.core_modCore _ _ f hf]
    by_cases hd : c = d
    · by_cases hr : c ∈ r <;> simp only [hd, if_true, List.mem_cons, true_or, hi, ite_self]
    · by_cases hr : c ∈ r <;> simp only [hd, hr, if_true, if_false, List.mem_cons, false_or]

/-- A core without the lines of an address space (R62). -/
def Core.dropLines (k : Core) (q : Nat) : Core := { k with icache := k.icache.filter fun l => l.queue != q }

theorem State.dropICache_eq (s : State) (cores : List Nat) (q : Nat) : s.dropICache cores q = s.modCores cores (·.dropLines q) := rfl

/-- R62: the named cores lose the lines of the address space, and nothing else changes in a core. -/
theorem State.core_dropICache (s : State) (cores : List Nat) (q c : Nat) :
    (s.dropICache cores q).core c = if c ∈ cores then (s.core c).dropLines q else s.core c :=
  s.core_modCores cores (·.dropLines q) (fun _ => rfl) (fun k => by simp [Core.dropLines]) c

theorem State.dropICache_only (s : State) (cores : List Nat) (q : Nat) : CoresOnly s (s.dropICache cores q) :=
  s.modCores_only cores (·.dropLines q)

/-! ### The choice of pairs (R45) -/

theorem mem_insertPair (x y : Nat × Nat × Nat) (l : List (Nat × Nat × Nat)) : y ∈ insertPair x l ↔ y = x ∨ y ∈ l := by
  induction l with
  | nil => simp [insertPair]
  | cons z r ih =>
    unfold insertPair
    split
    · simp
    · simp only [List.mem_cons, ih]; tauto

/-- Each pair saves at least as much as those behind it. -/
def BySaving (l : List (Nat × Nat × Nat)) : Prop := l.Pairwise fun x y => y.1 ≤ x.1

theorem BySaving.insertPair {l : List (Nat × Nat × Nat)} (h : BySaving l) (x : Nat × Nat × Nat) : BySaving (insertPair x l) := by
  unfold BySaving at *
  induction l with
  | nil => simp [Machine.insertPair]
  | cons z r ih =>
    obtain ⟨hz, hr⟩ := List.pairwise_cons.1 h
    unfold Machine.insertPair
    split
    · rename_i hlt
      have hx : z.1 ≤ x.1 := by omega
      refine List.pairwise_cons.2 ⟨fun y hy => ?_, h⟩
      rcases List.mem_cons.1 hy with rfl | hy
      · exact hx
      · exact (hz y hy).trans hx
    · rename_i hge
      refine List.pairwise_cons.2 ⟨fun y hy => ?_, ih hr⟩
      rcases (mem_insertPair x y r).1 hy with rfl | hy
      · omega
      · exact hz y hy

/-- The pairs put into their order one by one. -/
def sortPairs (l : List (Nat × Nat × Nat)) : List (Nat × Nat × Nat) := l.foldl (fun l x => insertPair x l) []

theorem mem_sortPairs (y : Nat × Nat × Nat) (l : List (Nat × Nat × Nat)) : y ∈ sortPairs l ↔ y ∈ l := by
  suffices H : ∀ acc, y ∈ l.foldl (fun l x => insertPair x l) acc ↔ y ∈ l ∨ y ∈ acc by simpa [sortPairs] using H []
  induction l with
  | nil => simp
  | cons x r ih => intro acc; rw [List.foldl_cons, ih, mem_insertPair, List.mem_cons]; tauto

theorem bySaving_sortPairs (l : List (Nat × Nat × Nat)) : BySaving (sortPairs l) := by
  suffices H : ∀ acc, BySaving acc → BySaving (l.foldl (fun l x => insertPair x l) acc) from H [] List.Pairwise.nil
  induction l with
  | nil => exact fun _ h => h
  | cons x r ih => exact fun _ h => ih _ (h.insertPair x)

theorem mem_takePairs {used : List Nat} {l : List (Nat × Nat × Nat)} {x : Nat × Nat} (h : x ∈ takePairs used l) :
    x.1 ∉ used ∧ x.2 ∉ used ∧ ∃ n, (n, x) ∈ l := by
  induction l generalizing used with
  | nil => simp [takePairs] at h
  | cons y r ih =>
    obtain ⟨n, p, q⟩ := y
    unfold takePairs at h
    split at h
    · obtain ⟨h1, h2, m, hm⟩ := ih h
      exact ⟨h1, h2, m, List.mem_cons_of_mem _ hm⟩
    · rename_i hfree
      rcases List.mem_cons.1 h with rfl | h
      · simp only [Bool.or_eq_true, List.contains_iff_mem, not_or] at hfree
        exact ⟨hfree.1, hfree.2, n, List.mem_cons_self⟩
      · obtain ⟨h1, h2, m, hm⟩ := ih h
        simp only [List.mem_cons, not_or] at h1 h2
        exact ⟨h1.2.2, h2.2.2, m, List.mem_cons_of_mem _ hm⟩

/-- The cores of a list of pairs. -/
def coresOf (ps : List (Nat × Nat)) : List Nat := ps.flatMap fun p => [p.1, p.2]

/-- No core is taken twice. -/
theorem takePairs_nodup (used : List Nat) (l : List (Nat × Nat × Nat)) (hne : ∀ x ∈ l, x.2.1 ≠ x.2.2) :
    (coresOf (takePairs used l)).Nodup := by
  induction l generalizing used with
  | nil => simp [takePairs, coresOf]
  | cons y r ih =>
    obtain ⟨n, p, q⟩ := y
    have hpq : p ≠ q := hne _ List.mem_cons_self
    have hr : ∀ x ∈ r, x.2.1 ≠ x.2.2 := fun x hx => hne x (List.mem_cons_of_mem _ hx)
    unfold takePairs
    split
    · exact ih used hr
    · have later : ∀ c ∈ coresOf (takePairs (p :: q :: used) r), c ≠ p ∧ c ≠ q := by
        intro c hc
        obtain ⟨x, hx, hcx⟩ := List.mem_flatMap.1 hc
        obtain ⟨h1, h2, -⟩ := mem_takePairs hx
        simp only [List.mem_cons, not_or] at h1 h2
        simp only [List.mem_cons, List.not_mem_nil, or_false] at hcx
        rcases hcx with rfl | rfl
        · exact ⟨h1.1, h1.2.1⟩
        · exact ⟨h2.1, h2.2.1⟩
      show (p :: q :: coresOf (takePairs (p :: q :: used) r)).Nodup
      simp only [List.nodup_cons, List.mem_cons, not_or]
      exact ⟨⟨hpq, fun h => (later p h).1 rfl⟩, fun h => (later q h).2 rfl, ih _ hr⟩

/-- A pair not taken shares a core with what was used before, or with one taken that saves no less. -/
theorem takePairs_maximal (used : List Nat) (l : List (Nat × Nat × Nat)) (hs : BySaving l) (n p q : Nat) (hx : (n, p, q) ∈ l) :
    (p ∈ used ∨ q ∈ used) ∨
    ∃ m a b, (m, a, b) ∈ l ∧ (a, b) ∈ takePairs used l ∧ (a = p ∨ a = q ∨ b = p ∨ b = q) ∧ n ≤ m := by
  induction l generalizing used with
  | nil => simp at hx
  | cons y r ih =>
    obtain ⟨m, a, b⟩ := y
    obtain ⟨hmax, hr⟩ := List.pairwise_cons.1 hs
    unfold takePairs
    split
    · rename_i hused
      rcases List.mem_cons.1 hx with h | hx
      · cases h; simp at hused; exact .inl hused
      · rcases ih used hr hx with h | ⟨m', a', b', h1, h2, h3⟩
        · exact .inl h
        · exact .inr ⟨m', a', b', List.mem_cons_of_mem _ h1, h2, h3⟩
    · have hle : n ≤ m := by
        rcases List.mem_cons.1 hx with h | hx
        · cases h; exact le_refl _
        · exact hmax _ hx
      have head : (a = p ∨ a = q ∨ b = p ∨ b = q) → (p ∈ used ∨ q ∈ used) ∨
          ∃ m' a' b', (m', a', b') ∈ (m, a, b) :: r ∧ (a', b') ∈ (a, b) :: takePairs (a :: b :: used) r ∧
            (a' = p ∨ a' = q ∨ b' = p ∨ b' = q) ∧ n ≤ m' := fun h =>
        .inr ⟨m, a, b, List.mem_cons_self, List.mem_cons_self, h, hle⟩
      rcases List.mem_cons.1 hx with h | hx
      · cases h; exact head (.inl rfl)
      · rcases ih (a :: b :: used) hr hx with h | ⟨m', a', b', h1, h2, h3⟩
        · simp only [List.mem_cons] at h
          rcases h with (h | h | h) | (h | h | h)
          · exact head (.inl h.symm)
          · exact head (.inr (.inr (.inl h.symm)))
          · exact .inl (.inl h)
          · exact head (.inr (.inl h.symm))
          · exact head (.inr (.inr (.inr h.symm)))
          · exact .inl (.inr h)
        · exact .inr ⟨m', a', b', List.mem_cons_of_mem _ h1, List.mem_cons_of_mem _ h2, h3⟩

/-- R45: a pair is worth its exchange when both cores may take part and the saving is at least 1,024 and more than an eighth of the old cost. -/
theorem State.swapPair_eq_some {s : State} {p q n a b : Nat} (h : s.swapPair p q = some (n, a, b)) :
    a = p ∧ b = q ∧ ∃ x y, s.swapTeam p = some x ∧ s.swapTeam q = some y ∧
      swapCost x y x q + swapCost x y y p + 1024 ≤ swapCost x y x p + swapCost x y y q ∧
      swapCost x y x p + swapCost x y y q <
        8 * (swapCost x y x p + swapCost x y y q - (swapCost x y x q + swapCost x y y p)) := by
  unfold State.swapPair at h
  split at h
  · rename_i x y hx hy
    simp only [] at h
    split at h
    · cases h
    · rename_i hsave
      cases h
      exact ⟨rfl, rfl, x, y, hx, hy, by omega, by omega⟩
  · cases h

/-- A core that may take part holds a team. -/
theorem State.mem_cores_of_swapTeam {s : State} {c : Nat} {t : Team} (h : s.swapTeam c = some t) :
    c ∈ s.teams.filterMap (·.core) := by
  unfold State.swapTeam at h
  split at h
  · rename_i x hx
    have hmem : x ∈ s.teamsOn c := by simp [hx]
    obtain ⟨hin, hcore⟩ := List.mem_filter.1 hmem
    exact List.mem_filterMap.2 ⟨x, hin, by simpa using hcore⟩
  · cases h

/-- The pairs of cores that save enough (R44, R45), in no order. -/
def State.worthPairs (s : State) : List (Nat × Nat × Nat) :=
  let cs := s.teams.filterMap (·.core)
  cs.flatMap fun p => cs.filterMap fun q => if p < q ∧ adjacent p q then s.swapPair p q else none

theorem State.chosenPairs_eq (s : State) : s.chosenPairs = takePairs [] (sortPairs s.worthPairs) := rfl

theorem State.mem_worthPairs (s : State) (n p q : Nat) :
    (n, p, q) ∈ s.worthPairs ↔ p < q ∧ adjacent p q = true ∧ s.swapPair p q = some (n, p, q) := by
  simp only [State.worthPairs, List.mem_flatMap]
  constructor
  · rintro ⟨a, -, h⟩
    obtain ⟨b, -, h⟩ := List.mem_filterMap.1 h
    split at h
    · rename_i hab
      obtain ⟨rfl, rfl, -⟩ := State.swapPair_eq_some h
      exact ⟨hab.1, hab.2, h⟩
    · cases h
  · rintro ⟨hlt, hadj, h⟩
    obtain ⟨-, -, x, y, hx, hy, -⟩ := State.swapPair_eq_some h
    refine ⟨p, State.mem_cores_of_swapTeam hx, List.mem_filterMap.2 ⟨q, State.mem_cores_of_swapTeam hy, ?_⟩⟩
    rw [if_pos ⟨hlt, hadj⟩]; exact h

/-- A pair chosen is adjacent, and saves enough (R44, R45). -/
theorem State.chosenPairs_save {s : State} {x : Nat × Nat} (h : x ∈ s.chosenPairs) :
    x.1 < x.2 ∧ adjacent x.1 x.2 = true ∧ ∃ a b, s.swapTeam x.1 = some a ∧ s.swapTeam x.2 = some b ∧
      swapCost a b a x.2 + swapCost a b b x.1 + 1024 ≤ swapCost a b a x.1 + swapCost a b b x.2 ∧
      swapCost a b a x.1 + swapCost a b b x.2 <
        8 * (swapCost a b a x.1 + swapCost a b b x.2 - (swapCost a b a x.2 + swapCost a b b x.1)) := by
  rw [State.chosenPairs_eq] at h
  obtain ⟨-, -, n, hn⟩ := mem_takePairs h
  obtain ⟨hlt, hadj, hpair⟩ := (s.mem_worthPairs n x.1 x.2).1 ((mem_sortPairs _ _).1 hn)
  exact ⟨hlt, hadj, (State.swapPair_eq_some hpair).2.2⟩

/-- The pairs chosen are disjoint (R45). -/
theorem State.chosenPairs_nodup (s : State) : (coresOf s.chosenPairs).Nodup := by
  rw [State.chosenPairs_eq]
  refine takePairs_nodup _ _ fun x hx => ?_
  obtain ⟨n, p, q⟩ := x
  exact ((s.mem_worthPairs n p q).1 ((mem_sortPairs _ _).1 hx)).1.ne

/-- A pair that saves enough shares a core with one chosen that saves no less (R45). -/
theorem State.chosenPairs_maximal (s : State) {n p q : Nat} (hlt : p < q) (hadj : adjacent p q = true)
    (h : s.swapPair p q = some (n, p, q)) :
    ∃ m a b, (a, b) ∈ s.chosenPairs ∧ (a = p ∨ a = q ∨ b = p ∨ b = q) ∧ s.swapPair a b = some (m, a, b) ∧ n ≤ m := by
  have hmem := (mem_sortPairs _ _).2 ((s.mem_worthPairs n p q).2 ⟨hlt, hadj, h⟩)
  rcases takePairs_maximal [] _ (bySaving_sortPairs s.worthPairs) n p q hmem with h | ⟨m, a, b, hw, ht, hshare, hle⟩
  · simp at h
  · exact ⟨m, a, b, ht, hshare, ((s.mem_worthPairs m a b).1 ((mem_sortPairs _ _).1 hw)).2.2, hle⟩

/-! ### The instant (R44, R48) -/

/-- A core that takes part in an exchange (R46). -/
def Core.inExchange (k : Core) : Core := { k with exchanging := true }

theorem State.stopPairs_eq (s : State) (ps : List (Nat × Nat)) :
    ps.foldl (fun t p => (t.setExchanging true p.1).setExchanging true p.2) s = s.modCores (coresOf ps) Core.inExchange := by
  unfold State.modCores coresOf
  rw [List.foldl_flatMap]
  rfl

/-- The machine at an instant as its counts are formed (R45). -/
def State.countsFormed (s : State) : State := { s with teams := s.teams.map Team.formCounts }

/-- One instant less for each core to stay frozen (R48). -/
def State.thaw (s : State) : State := { s with cores := s.cores.map fun c => { c with frozen := c.frozen - 1 } }

theorem State.core_thaw (s : State) (c : Nat) : s.thaw.core c = { s.core c with frozen := (s.core c).frozen - 1 } := by
  refine (s.core_mapCores (fun c => { c with frozen := c.frozen - 1 }) (fun _ => rfl) c).trans ?_
  split
  · rfl
  · rename_i h
    rw [State.core_unlisted h]; rfl

/-- The machine after an instant (R44, R45, R48). -/
def State.atInstant (s : State) : State :=
  let ps := s.countsFormed.chosenPairs
  ({ s.countsFormed.thaw with exchanges := s.exchanges ++ ps } : State).modCores (coresOf ps) Core.inExchange

theorem swapInstant_at {s : State} (h : s.cycle.toNat % 2 ^ 22 = 0) : exec .swapInstant s = .next s.atInstant := by
  show execSwapInstant s = _
  unfold execSwapInstant
  rw [if_neg (by simpa using h), State.stopPairs_eq]
  rfl

theorem State.atInstant_frame (s : State) : s.atInstant = { s.countsFormed with
    cores := s.atInstant.cores, exchanges := s.exchanges ++ s.countsFormed.chosenPairs } :=
  State.modCores_only _ _ _

theorem State.core_atInstant (s : State) (c : Nat) : s.atInstant.core c = { s.core c with
    frozen := (s.core c).frozen - 1
    exchanging := (s.core c).exchanging || (coresOf s.countsFormed.chosenPairs).contains c } := by
  have hthaw : s.countsFormed.thaw.core c = { s.core c with frozen := (s.core c).frozen - 1 } := State.core_thaw _ c
  refine (State.core_modCores _ _ Core.inExchange (fun _ => rfl) (fun _ => rfl) c).trans ?_
  by_cases hc : c ∈ coresOf s.countsFormed.chosenPairs
  · rw [if_pos hc, List.contains_iff_mem.2 hc, Bool.or_true]
    exact congrArg Core.inExchange hthaw
  · rw [if_neg hc, Bool.eq_false_iff.2 (mt List.contains_iff_mem.1 hc), Bool.or_false]
    exact hthaw

theorem swapInstant_off {s : State} (h : s.cycle.toNat % 2 ^ 22 ≠ 0) : exec .swapInstant s = .next s := by
  show execSwapInstant s = _
  unfold execSwapInstant
  rw [if_pos h]

/-! ### Exchanges (R46–R48, R325, R350) -/

/-- A core released from its exchange, and frozen for four instants (R48). -/
def Core.released (k : Core) : Core := { k with exchanging := false, frozen := 4 }

theorem State.endExchange_eq (s : State) (p q : Nat) :
    s.endExchange p q = ({ s with exchanges := s.exchanges.filter (· != (p, q)) } : State).modCores [p, q] Core.released := rfl

theorem State.core_endExchange (s : State) (p q c : Nat) :
    (s.endExchange p q).core c = if c = p ∨ c = q then (s.core c).released else s.core c := by
  rw [State.endExchange_eq, State.core_modCores _ _ Core.released (fun _ => rfl) (fun _ => rfl)]
  simp only [List.mem_cons, List.not_mem_nil, or_false]
  rfl

theorem State.endExchange_frame (s : State) (p q : Nat) :
    s.endExchange p q = { s with cores := (s.endExchange p q).cores, exchanges := s.exchanges.filter (· != (p, q)) } := rfl

/-- R46: without an uncorrectable error nothing that moves is in error. -/
theorem State.failMoved_of_sound {s : State} (h : s.poison = []) (c : Nat) : s.failMoved c = s := by
  have hnone : ∀ t : Team, s.movedError t = none := fun t => by simp [State.movedError, h]
  unfold State.failMoved
  generalize s.teamsOn c = l
  induction l with
  | nil => rfl
  | cons t r ih => rw [List.foldl_cons, hnone t]; exact ih

/-- R87: a save into a sound slot pair commits the core as it stands. -/
theorem State.saveCore_sound {s : State} {c : Nat} (h : c ∉ s.mramBad) (hn : noPair c ∉ s.mramBad) :
    s.saveCore c = (true, s.setCore ((s.core c).commit (s.snapshot c))) := by
  have hg : s.givePair c = s := by simp [State.givePair, hn]
  simp [State.saveCore, State.slotPair, hg, h, hn]

theorem Core.commit_num (k : Core) (x : Snapshot) : (k.commit x).num = k.num := by unfold Core.commit; split <;> rfl
theorem Core.commit_mq (k : Core) (x : Snapshot) : (k.commit x).mq = k.mq := by unfold Core.commit; split <;> rfl
theorem Core.commit_forwardSince (k : Core) (x : Snapshot) : (k.commit x).forwardSince = k.forwardSince := by
  unfold Core.commit; split <;> rfl

/-- The slot written last is the one that the commit word names (R87). -/
theorem Core.committed_commit (k : Core) (x : Snapshot) : (k.commit x).committed = some x := by
  unfold Core.commit Core.committed; split <;> rfl

/-- The other core of a pair. -/
def otherOf (p q c : Nat) : Nat := if c = p then q else if c = q then p else c

/-- Is a thread's team on one of two cores? -/
def State.onPair (s : State) (p q : Nat) (x : Thread) : Bool :=
  (s.teamD x.id.grid x.id.team).core == some p || (s.teamD x.id.grid x.id.team).core == some q

/-- Teams and threads of two cores under each other's number, and messages to them to be forwarded (R46, R47): `moveTeams` but for the
cores themselves. -/
def State.teamsMoved (s : State) (p q : Nat) : State :=
  let go := fun x : Thread => if s.onPair p q x then { x with core := otherOf p q x.core } else x
  { s with
    fabric := s.fabric.map fun r => if s.toMoved p q r then { r with misrouted := true } else r
    cur := go s.cur, rest := s.rest.map go
    teams := s.teams.map fun y => { y with core := y.core.map (otherOf p q) } }

/-- A thread moves with its team (R46). -/
theorem State.moveThread_eq (s : State) (p q : Nat) (x : Thread) :
    (if s.onPair p q x then { x with core := otherOf p q x.core } else x) =
      if (s.teamD x.id.grid x.id.team).core = some p ∨ (s.teamD x.id.grid x.id.team).core = some q
        then { x with core := otherOf p q x.core } else x := by
  simp only [State.onPair, Bool.or_eq_true, beq_iff_eq]

/-- A message to a team that moves is to be forwarded (R47). -/
theorem State.forward_eq (s : State) (p q : Nat) (r : Req) :
    (if s.toMoved p q r then { r with misrouted := true } else r) = { r with misrouted := r.misrouted || s.toMoved p q r } := by
  cases s.toMoved p q r <;> simp

/-- A core that takes the records of another, as `moveTeams` leaves it (R46, R47). -/
def Core.takesIn (k : Core) (mq : List MRec) (now : Word) : Core :=
  { k with
    mq := mq, unit := if !mq.isEmpty ∧ k.unit = .inactive then UnitState.requesting now else k.unit
    emptied := if mq.isEmpty ∧ !k.mq.isEmpty then now else k.emptied, forwardSince := some now }

/-- The matrix queues of two cores exchanged. -/
def State.queuesMoved (s : State) (p q : Nat) : State :=
  (s.setCore ((s.core p).takesIn (s.core q).mq s.cycle)).setCore ((s.core q).takesIn (s.core p).mq s.cycle)

theorem State.core_queuesMoved (s : State) {p q : Nat} (hpq : p ≠ q) (c : Nat) :
    (s.queuesMoved p q).core c =
      if c = p ∨ c = q then (s.core c).takesIn (s.core (otherOf p q c)).mq s.cycle else s.core c := by
  have hnum : ∀ (d : Nat) (mq : List MRec), ((s.core d).takesIn mq s.cycle).num = d := fun d _ => s.core_num d
  unfold State.queuesMoved
  rw [State.core_setCore, State.core_setCore, hnum, hnum]
  by_cases hp : c = p
  · subst hp; simp [hpq, otherOf]
  · by_cases hq : c = q
    · subst hq; simp [hp, otherOf]
    · simp [hp, hq]

/-- Lines dropped for a list of address spaces. -/
theorem State.dropICaches_only (s : State) (cores qs : List Nat) : CoresOnly s (qs.foldl (fun t n => t.dropICache cores n) s) := by
  induction qs generalizing s with
  | nil => exact .refl s
  | cons n r ih => exact (s.dropICache_only cores n).trans (ih _)

theorem State.core_dropICaches (s : State) (cores qs : List Nat) (c : Nat) :
    ∃ l, (qs.foldl (fun t n => t.dropICache cores n) s).core c = { s.core c with icache := l } ∧ (c ∉ cores → l = (s.core c).icache) := by
  induction qs generalizing s with
  | nil => exact ⟨_, rfl, fun _ => rfl⟩
  | cons n r ih =>
    obtain ⟨l, h, hl⟩ := ih (s.dropICache cores n)
    rw [List.foldl_cons, h, State.core_dropICache]
    by_cases hc : c ∈ cores
    · exact ⟨l, by rw [if_pos hc]; rfl, fun h => absurd hc h⟩
    · rw [State.core_dropICache, if_neg hc] at hl
      exact ⟨l, by rw [if_neg hc], hl⟩

/-- The teams of two cores and their queues moved, with the instruction lines of their address spaces dropped: `moveTeams` before its
commits. -/
def State.coresMoved (s : State) (p q : Nat) : State :=
  let t := (s.teamsMoved p q).queuesMoved p q
  ((t.teamsOn p ++ t.teamsOn q).map fun x : Team => (t.gridD x.grid).queue).foldl (fun u n => u.dropICache [p, q] n) t

theorem State.moveTeams_eq (s : State) (p q : Nat) : s.moveTeams p q = (((s.coresMoved p q).saveCore p).2.saveCore q).2 := rfl

theorem State.coresMoved_only (s : State) (p q : Nat) : CoresOnly (s.teamsMoved p q) (s.coresMoved p q) :=
  CoresOnly.trans ((State.setCore_only _ _).trans (State.setCore_only _ _)) (State.dropICaches_only _ _ _)

/-- R46, R47: each core of the pair has the other's records, and forwards; no other core changes. -/
theorem State.core_coresMoved (s : State) {p q : Nat} (hpq : p ≠ q) (c : Nat) :
    (c ≠ p → c ≠ q → (s.coresMoved p q).core c = s.core c) ∧
    (c = p ∨ c = q → ((s.coresMoved p q).core c).mq = (s.core (otherOf p q c)).mq ∧
      ((s.coresMoved p q).core c).forwardSince = some s.cycle) := by
  obtain ⟨l, h, hl⟩ := State.core_dropICaches ((s.teamsMoved p q).queuesMoved p q) [p, q] _ c
  have hc := (s.teamsMoved p q).core_queuesMoved hpq c
  refine ⟨fun hp hq => ?_, fun hpair => ?_⟩
  · rw [if_neg (by simp [hp, hq])] at hc
    rw [hl (by simp [hp, hq])] at h
    exact h.trans hc
  · rw [if_pos hpair] at hc
    rw [hc] at h
    have hmq := congrArg Core.mq h
    have hforward := congrArg Core.forwardSince h
    exact ⟨hmq, hforward⟩

/-- R87, R350: a core as a commit at this cycle leaves it, `k` being the core before. -/
def CommittedAt (now : Word) (k c : Core) : Prop :=
  c.mq = k.mq ∧ c.forwardSince = k.forwardSince ∧ ∃ x, c.committed = some x ∧ x.cycle = now ∧ x.mq = k.mq

theorem Core.committedAt_commit (k : Core) {x : Snapshot} {now : Word} (hc : x.cycle = now) (hm : x.mq = k.mq) :
    CommittedAt now k (k.commit x) := ⟨k.commit_mq x, k.commit_forwardSince x, x, k.committed_commit x, hc, hm⟩

/-- Two cores with sound slot pairs saved one after the other. -/
theorem State.saveCores_sound (s : State) {p q : Nat} (hpq : p ≠ q)
    (hbad : ∀ c, c = p ∨ c = q → c ∉ s.mramBad ∧ noPair c ∉ s.mramBad) :
    let t := ((s.saveCore p).2.saveCore q).2
    CoresOnly s t ∧ (∀ c, c ≠ p → c ≠ q → t.core c = s.core c) ∧ ∀ c, c = p ∨ c = q → CommittedAt s.cycle (s.core c) (t.core c) := by
  intro t
  obtain ⟨hp, hnp⟩ := hbad p (.inl rfl)
  obtain ⟨hq, hnq⟩ := hbad q (.inr rfl)
  let u := s.setCore ((s.core p).commit (s.snapshot p))
  have hu : ∀ c, u.core c = if c = p then (s.core p).commit (s.snapshot p) else s.core c := fun c => by
    rw [State.core_setCore, Core.commit_num, State.core_num]
  have ht : t = u.setCore ((u.core q).commit (u.snapshot q)) := by
    show ((s.saveCore p).2.saveCore q).2 = _
    rw [State.saveCore_sound hp hnp, State.saveCore_sound (s := u) hq hnq]
  have hcore : ∀ c, t.core c = if c = q then (u.core q).commit (u.snapshot q) else u.core c := fun c => by
    rw [ht, State.core_setCore, Core.commit_num, State.core_num]
  refine ⟨ht ▸ (s.setCore_only _).trans (u.setCore_only _), fun c h1 h2 => ?_, fun c hc => ?_⟩
  · rw [hcore, if_neg h2, hu, if_neg h1]
  · rcases hc with rfl | rfl
    · rw [hcore, if_neg hpq, hu, if_pos rfl]
      exact Core.committedAt_commit _ rfl rfl
    · have hk : u.core c = s.core c := by rw [hu, if_neg (Ne.symm hpq)]
      rw [hcore, if_pos rfl, ← hk]
      exact Core.committedAt_commit _ rfl rfl

/-- The cores of a pair whose teams have moved: each has the other's records, forwards, and is committed; no other core changes
(R46, R47, R350). -/
structure QueuesExchanged (s t : State) (p q : Nat) : Prop where
  others : ∀ c, c ≠ p → c ≠ q → t.core c = s.core c
  mq : ∀ c, c = p ∨ c = q → (t.core c).mq = (s.core (otherOf p q c)).mq
  commits : ∀ c, c = p ∨ c = q → (t.core c).forwardSince = some s.cycle ∧
    ∃ x, (t.core c).committed = some x ∧ x.cycle = s.cycle ∧ x.mq = (t.core c).mq

/-- R46, R47, R350: both teams move, and both cores are committed. -/
theorem State.moveTeams_moves (s : State) {p q : Nat} (hpq : p ≠ q)
    (hbad : ∀ c, c = p ∨ c = q → c ∉ s.mramBad ∧ noPair c ∉ s.mramBad) :
    CoresOnly (s.teamsMoved p q) (s.moveTeams p q) ∧ QueuesExchanged s (s.moveTeams p q) p q := by
  have honly := s.coresMoved_only p q
  have hmram : (s.coresMoved p q).mramBad = s.mramBad := by rw [honly]; rfl
  have hcycle : (s.coresMoved p q).cycle = s.cycle := by rw [honly]; rfl
  obtain ⟨hsaves, hothers, hpair⟩ := (s.coresMoved p q).saveCores_sound hpq (hmram ▸ hbad)
  rw [s.moveTeams_eq]
  refine ⟨honly.trans hsaves, fun c hp hq => ?_, fun c hc => ?_, fun c hc => ?_⟩
  · exact (hothers c hp hq).trans ((s.core_coresMoved hpq c).1 hp hq)
  · obtain ⟨hmq, -⟩ := hpair c hc
    obtain ⟨hmoved, -⟩ := (s.core_coresMoved hpq c).2 hc
    exact hmq.trans hmoved
  · obtain ⟨hmq, hforward, x, hx, hcommitted, hrecords⟩ := hpair c hc
    obtain ⟨-, hsince⟩ := (s.core_coresMoved hpq c).2 hc
    exact ⟨hforward.trans hsince, x, hx, hcommitted.trans hcycle, hrecords.trans hmq.symm⟩

/-- Is a grid of a team on one of the two cores to end (R316)? -/
def State.pairEnds (s : State) (p q : Nat) : Prop :=
  ∃ y ∈ s.teams, (y.core = some p ∨ y.core = some q) ∧ s.ending y.grid = true

theorem State.pairEnds_iff (s : State) (p q : Nat) :
    ((s.teamsOn p ++ s.teamsOn q).any fun t => s.ending t.grid) = true ↔ s.pairEnds p q := by
  simp only [State.pairEnds, State.teamsOn, List.any_eq_true, List.mem_append, List.mem_filter, beq_iff_eq]
  constructor
  · rintro ⟨y, ⟨hy, hc⟩ | ⟨hy, hc⟩, he⟩
    · exact ⟨y, hy, .inl hc, he⟩
    · exact ⟨y, hy, .inr hc, he⟩
  · rintro ⟨y, hy, hc | hc, he⟩
    · exact ⟨y, .inl ⟨hy, hc⟩, he⟩
    · exact ⟨y, .inr ⟨hy, hc⟩, he⟩

/-- R316: an exchange of a team whose grid is to end is abandoned. -/
theorem exchange_ends {s : State} {p q : Nat} (hin : (p, q) ∈ s.exchanges) (h : s.pairEnds p q) :
    exec (.exchange p q) s = .next (s.endExchange p q) := by
  show execExchange p q s = _
  unfold execExchange
  rw [if_pos (by rw [(s.pairEnds_iff p q).2 h]; simpa using hin)]

/-- Without an exchange under way, or before both cores have stopped, nothing happens (R46). -/
theorem exchange_waits {s : State} {p q : Nat}
    (h : (p, q) ∉ s.exchanges ∨ ¬ s.pairEnds p q ∧ (s.stoppedFor p = false ∨ s.stoppedFor q = false)) :
    exec (.exchange p q) s = .next s := by
  show execExchange p q s = _
  unfold execExchange
  rcases h with h | ⟨hends, hstop⟩
  · rw [if_neg (by simp [h]), if_neg (by simp [h])]
  · rw [if_neg (by rw [Bool.and_eq_true, s.pairEnds_iff]; exact fun e => hends e.2), if_neg (by rcases hstop with h | h <;> simp [h])]

/-- R46, R325: once both cores have stopped the referee gives the exchange up or moves both teams, as it draws. -/
theorem exchange_draws {s : State} {p q : Nat} (hin : (p, q) ∈ s.exchanges) (hends : ¬ s.pairEnds p q)
    (hp : s.stoppedFor p = true) (hq : s.stoppedFor q = true) (hpoison : s.poison = []) :
    exec (.exchange p q) s = .next (s.draw.2.endExchange p q) ∨
    exec (.exchange p q) s = .next ((s.draw.2.moveTeams p q).endExchange p q) := by
  have hsound : s.draw.2.poison = [] := by rw [s.draw_frame]; exact hpoison
  have hexec : exec (.exchange p q) s = execExchange p q s := rfl
  unfold execExchange at hexec
  rw [if_neg (by rw [Bool.and_eq_true, s.pairEnds_iff]; exact fun e => hends e.2), if_pos (by simp [hin, hp, hq])] at hexec
  simp only [State.failMoved_of_sound hsound] at hexec
  split at hexec
  · exact .inl hexec
  · exact .inr hexec

/-- R47: forwarding withdrawn. -/
theorem forwardingWithdraw_due {s : State} {c : Nat} {since : Word} (h : (s.core c).forwardSince = some since)
    (hdue : since.toNat + 65536 ≤ s.cycle.toNat) (hnone : ∀ r ∈ s.fabric, r.misrouted = false) :
    exec (.forwardingWithdraw c) s = .next (s.setCore { s.core c with forwardSince := none }) := by
  show execForwardingWithdraw c s = _
  unfold execForwardingWithdraw
  simp only [h]
  rw [if_pos (by simpa [hdue] using hnone)]

end Sys2Proof.Machine

namespace Sys2Proof.Claims
open Sys2Proof.Machine

/-- What an exchange given up leaves: both cores released and frozen, every team where it was (R48, R325). -/
structure GivenUp (s t : State) (p q : Nat) : Prop where
  core : ∀ c, t.core c = if c = p ∨ c = q then (s.core c).released else s.core c
  frame : t = { s with cores := t.cores, exchanges := s.exchanges.filter (· != (p, q)), oracle := t.oracle, fresh := t.fresh }

theorem givenUp_endExchange (s : State) (p q : Nat) : GivenUp s (s.endExchange p q) p q := ⟨s.core_endExchange p q, s.endExchange_frame p q⟩

theorem givenUp_draw (s : State) (p q : Nat) : GivenUp s (s.draw.2.endExchange p q) p q := by
  rw [s.draw_frame]
  exact ⟨State.core_endExchange _ p q, State.endExchange_frame _ p q⟩

theorem GivenUp.freezes {s t : State} {p q : Nat} (h : GivenUp s t p q) (c : Nat) (hc : c = p ∨ c = q) :
    (t.core c).exchanging = false ∧ (t.core c).frozen = 4 := by
  rw [h.core c, if_pos hc]; exact ⟨rfl, rfl⟩

theorem GivenUp.others {s t : State} {p q : Nat} (h : GivenUp s t p q) (c : Nat) (hp : c ≠ p) (hq : c ≠ q) : t.core c = s.core c := by
  rw [h.core c, if_neg (by simp [hp, hq])]

theorem GivenUp.mq {s t : State} {p q : Nat} (h : GivenUp s t p q) (c : Nat) : (t.core c).mq = (s.core c).mq := by
  rw [h.core c]; split <;> rfl

/-- What an exchange leaves that moves both teams (R46, R47, R350). -/
structure Moved (s t : State) (p q : Nat) : Prop extends QueuesExchanged s t p q where
  freezes : ∀ c, c = p ∨ c = q → (t.core c).exchanging = false ∧ (t.core c).frozen = 4
  frame : t = { s.teamsMoved p q with
    cores := t.cores, exchanges := s.exchanges.filter (· != (p, q)), oracle := t.oracle, fresh := t.fresh }

/-- Both teams moved, and then their cores released. -/
theorem Moved.endExchange {s t : State} {p q : Nat} (honly : CoresOnly (s.teamsMoved p q) t) (h : QueuesExchanged s t p q) :
    Moved s (t.endExchange p q) p q where
  others c hp hq := by rw [t.core_endExchange, if_neg (by simp [hp, hq])]; exact h.others c hp hq
  mq c hc := by rw [t.core_endExchange, if_pos hc]; exact h.mq c hc
  commits c hc := by rw [t.core_endExchange, if_pos hc]; exact h.commits c hc
  freezes c hc := by rw [t.core_endExchange, if_pos hc]; exact ⟨rfl, rfl⟩
  frame := by rw [State.endExchange_frame, show t = _ from honly]; rfl

/-- A draw is not seen in what an exchange leaves. -/
theorem Moved.of_draw {s t : State} {p q : Nat} {o : List Nat} {n : Nat} (h : Moved { s with oracle := o, fresh := n } t p q) :
    Moved s t p q := ⟨⟨h.others, h.mq, h.commits⟩, h.freezes, h.frame⟩

theorem moved_draw (s : State) {p q : Nat} (hpq : p ≠ q)
    (hbad : ∀ c, c = p ∨ c = q → c ∉ s.mramBad ∧ noPair c ∉ s.mramBad) :
    Moved s ((s.draw.2.moveTeams p q).endExchange p q) p q := by
  obtain ⟨o, n, hdraw⟩ : ∃ o n, s.draw.2 = { s with oracle := o, fresh := n } := ⟨_, _, s.draw_frame⟩
  rw [hdraw]
  obtain ⟨honly, hcores⟩ := State.moveTeams_moves { s with oracle := o, fresh := n } hpq hbad
  exact (Moved.endExchange honly hcores).of_draw

/-- R46, R325: an exchange whose cores have stopped is given up or moves both teams. -/
theorem exchange_outcome {s : State} {p q : Nat} (hpq : p ≠ q) (hin : (p, q) ∈ s.exchanges) (hp : s.stoppedFor p = true)
    (hq : s.stoppedFor q = true) (hpoison : s.poison = []) (hbad : ∀ c, c = p ∨ c = q → c ∉ s.mramBad ∧ noPair c ∉ s.mramBad) :
    (∃ t, exec (.exchange p q) s = .next t ∧ GivenUp s t p q) ∨ ∃ t, exec (.exchange p q) s = .next t ∧ Moved s t p q := by
  by_cases hends : s.pairEnds p q
  · exact .inl ⟨_, exchange_ends hin hends, givenUp_endExchange s p q⟩
  · rcases exchange_draws hin hends hp hq hpoison with h | h
    · exact .inl ⟨_, h, givenUp_draw s p q⟩
    · exact .inr ⟨_, h, moved_draw s hpq hbad⟩

end Sys2Proof.Claims

section
open Sys2Proof.Machine Sys2Proof.Claims

/-- Settles O40: the pairs are taken from a list in the order of what they save; an exchange is given up or moves both teams as one draw says. -/
theorem swapsExchangeTwoTeams : Obligations.SwapsExchangeTwoTeams := by
  intro s
  refine ⟨swapInstant_off, fun h => ?_, fun p q hpq hin hp hq hpoison hbad => ?_, fun p q => ?_, fun c since h hdue hnone => ?_⟩
  · refine ⟨s.atInstant, s.countsFormed.chosenPairs, swapInstant_at h, ?_, s.core_atInstant, s.atInstant_frame⟩
    intro u share
    have hu : u = s.countsFormed := by
      show ({ s with teams := s.atInstant.teams } : State) = _
      rw [s.atInstant_frame]; rfl
    rw [hu]
    refine ⟨State.chosenPairs_nodup _, fun x hx => State.chosenPairs_save hx, fun n p q hlt hadj hpair => ?_⟩
    obtain ⟨m, a, b, hab, hshare, hsave, hle⟩ := State.chosenPairs_maximal _ hlt hadj hpair
    exact ⟨(a, b), hab, hshare, m, hsave, hle⟩
  · rcases exchange_outcome hpq hin hp hq hpoison hbad with ⟨t, hexec, hup⟩ | ⟨t, hexec, hmoved⟩
    · have hframe := hup.frame
      refine ⟨t, hexec, fun c => ⟨hup.freezes c, hup.others c⟩, .inl ⟨?_, ?_, ?_, ?_, hup.mq p, hup.mq q⟩, ?_⟩
      all_goals rw [hframe]
    · have hframe := hmoved.frame
      have hmq := hmoved.mq
      refine ⟨t, hexec, fun c => ⟨hmoved.freezes c, hmoved.others c⟩, .inr ⟨?_, ?_, ?_, ?_, ?_, hmoved.commits, ?_⟩, ?_⟩
      · rw [hframe]; rfl
      · rw [hframe]; exact s.moveThread_eq p q s.cur
      · rw [hframe]; exact List.map_congr_left fun x _ => s.moveThread_eq p q x
      · rw [hmq p (.inl rfl)]; simp [otherOf]
      · rw [hmq q (.inr rfl)]; simp [otherOf, hpq.symm]
      · rw [hframe]; exact List.map_congr_left fun r _ => s.forward_eq p q r
      · rw [hframe]; rfl
  · refine ⟨exchange_waits, fun hpq hin hends => ⟨_, exchange_ends hin hends, s.endExchange_frame p q, s.core_endExchange p q⟩⟩
  · refine ⟨_, forwardingWithdraw_due h hdue hnone, ⟨?_, fun d hd => ?_⟩, rfl⟩
    · rw [State.core_setCore]; simp [State.core_num]
    · rw [State.core_setCore, if_neg (by simpa [State.core_num] using hd)]

end

/-! SUPPORT. A grid starts (R24–R27, R204, R258), and its parked threads end (R35). -/

namespace Sys2Proof.Machine

/-! ### A grid placed (R24–R27) -/

/-- A team of a grid put on a core with fresh threads, as `placeNew` does where it fits. -/
def State.placed (s : State) (g : Grid) (l c : Nat) : State :=
  { s with
    teams := s.teams ++ [g.newTeam l c s.cycle]
    rest := s.rest ++ (List.range g.desc.threads).map fun n => g.newThread l n c ((s.freeSlots c).getD n 0) }

theorem State.placeNew_fits {s : State} {g : Grid} {c : Nat} (h : s.coreFits g c = true) (l : Nat) :
    s.placeNew g l c = some (s.placed g l c) := by
  unfold State.placeNew
  rw [h]; rfl

/-- The teams of a grid stand from `l` on nowhere yet, nor do their threads. -/
structure NoneFrom (s : State) (gn l : Nat) : Prop where
  threads : ∀ x ∈ s.threads, x.id.grid = gn → x.id.team < l
  teams : ∀ q ∈ s.teams, q.grid = gn → q.lteam < l

theorem NoneFrom.placed {s : State} {g : Grid} {l : Nat} (h : NoneFrom s g.num l) (c : Nat) : NoneFrom (s.placed g l c) g.num (l + 1) where
  threads x hx hg := by
    rcases List.mem_append.1 (show x ∈ s.threads ++ _ from hx) with hx | hx
    · exact (h.threads x hx hg).trans (Nat.lt_succ_self l)
    · obtain ⟨n, -, rfl⟩ := List.mem_map.1 hx
      exact Nat.lt_succ_self l
  teams q hq hg := by
    rcases List.mem_append.1 hq with hq | hq
    · exact (h.teams q hq hg).trans (Nat.lt_succ_self l)
    · rw [List.mem_singleton.1 hq]
      exact Nat.lt_succ_self l

/-- A team placed is not found under another number. -/
theorem State.teamD_placed_other (s : State) (g : Grid) (l c : Nat) {gn k : Nat} (h : gn ≠ g.num ∨ k ≠ l) :
    (s.placed g l c).teamD gn k = s.teamD gn k := by
  have hnew : ((g.newTeam l c s.cycle).grid == gn && (g.newTeam l c s.cycle).lteam == k) = false := by
    rw [Bool.and_eq_false_iff, beq_eq_false_iff_ne, beq_eq_false_iff_ne]
    exact h.imp Ne.symm Ne.symm
  unfold State.teamD State.team? State.placed
  simp only [List.find?_append, List.find?_cons, hnew, List.find?_nil, Option.or_none]

/-- The team of a grid placed last, found. -/
theorem State.teamD_placed_self {s : State} {g : Grid} {l : Nat} (h : NoneFrom s g.num l) (c : Nat) :
    (s.placed g l c).teamD g.num l = g.newTeam l c s.cycle := by
  have hold : s.teams.find? (fun t => t.grid == g.num && t.lteam == l) = none := by
    rw [List.find?_eq_none]
    intro q hq e
    rw [Bool.and_eq_true, beq_iff_eq, beq_iff_eq] at e
    exact absurd e.2 (h.teams q hq e.1).ne
  have hnew : ((g.newTeam l c s.cycle).grid == g.num && (g.newTeam l c s.cycle).lteam == l) = true := by simp [Grid.newTeam]
  unfold State.teamD State.team? State.placed
  simp only [List.find?_append, hold, List.find?_cons, hnew, Option.none_or, Option.getD_some]

/-- Does a thread occupy or reserve a slot of a core (R37)? -/
def State.takesSlot (s : State) (c slot : Nat) (x : Thread) : Bool :=
  x.id.grid != 0 && x.wait != .ended &&
    ((x.core == c && x.slot == slot) || ((s.teamD x.id.grid x.id.team).core == some c && x.homeSlot == slot))

theorem State.slotTaken_eq (s : State) (c slot : Nat) : s.slotTaken c slot = s.threads.any (s.takesSlot c slot) := rfl

/-- A team placed takes no slot of another core (R37). -/
theorem State.slotTaken_placed {s : State} {g : Grid} {l : Nat} (h : NoneFrom s g.num l) {c d : Nat} (hc : c ≠ d) (n : Nat) :
    (s.placed g l d).slotTaken c n = s.slotTaken c n := by
  have hold : ∀ x ∈ s.threads, (s.placed g l d).takesSlot c n x = s.takesSlot c n x := by
    intro x hx
    have hteam : (s.placed g l d).teamD x.id.grid x.id.team = s.teamD x.id.grid x.id.team := by
      refine s.teamD_placed_other g l d ?_
      by_cases hg : x.id.grid = g.num
      · exact .inr (h.threads x hx hg).ne
      · exact .inl hg
    simp only [State.takesSlot, hteam]
  have hnew : ∀ m k, (s.placed g l d).takesSlot c n (g.newThread l m d k) = false := by
    intro m k
    have hteam : ((s.placed g l d).teamD g.num l).core = some d := by rw [State.teamD_placed_self h]; rfl
    simp [State.takesSlot, Grid.newThread, hteam, hc.symm]
  rw [Bool.eq_iff_iff, State.slotTaken_eq, State.slotTaken_eq, List.any_eq_true, List.any_eq_true]
  constructor
  · rintro ⟨x, hx, htakes⟩
    rcases List.mem_append.1 (show x ∈ s.threads ++ _ from hx) with hx | hx
    · exact ⟨x, hx, hold x hx ▸ htakes⟩
    · obtain ⟨m, -, rfl⟩ := List.mem_map.1 hx
      rw [hnew] at htakes
      cases htakes
  · rintro ⟨x, hx, htakes⟩
    exact ⟨x, List.mem_append_left _ hx, (hold x hx).trans htakes⟩

theorem State.freeSlots_placed {s : State} {g : Grid} {l : Nat} (h : NoneFrom s g.num l) {c d : Nat} (hc : c ≠ d) :
    (s.placed g l d).freeSlots c = s.freeSlots c := by
  unfold State.freeSlots
  simp only [State.slotTaken_placed h hc]

/-- The teams on the cores of a core's cluster. -/
def State.teamsNear (s : State) (c : Nat) : List Team :=
  s.teams.filter fun t => match t.core with | some k => clusterOf k == clusterOf c | none => false

/-- What a core must have left for one more team (R17, R24, R261), the partitions of its cluster by their sum. -/
theorem State.coreFits_eq (s : State) (g : Grid) (c : Nat) : s.coreFits g c =
    (decide (c < 8192) && decide (((s.teamsOn c).map (·.nthread)).sum + g.desc.threads ≤ 8) &&
      decide (g.desc.threads ≤ (s.freeSlots c).length) && decide (((s.teamsOn c).map fun t => t.tiles.length).sum + g.desc.tiles ≤ 16) &&
      decide (((s.teamsOn c).map (·.pool)).sum + g.desc.pool ≤ 32768) && decide (((s.teamsOn c).map (·.tcm)).sum + g.desc.tcm ≤ 262144) &&
      decide (((s.teamsNear c).map (·.spad)).sum + g.desc.spad ≤ 2 ^ 21) && !(s.core c).exchanging &&
      !((s.teamsOn c).any fun t => (s.gridD t.grid).replayOn) &&
      (!g.replayOn || ((s.teamsOn c).isEmpty && decide ((s.freeSlots c).length = 8))) &&
      (g.desc.side == 0 || !((s.teamsOn c).any fun t => (s.gridD t.grid).desc.side != 0))) := rfl

/-- A core that fits has a free slot for each thread of one more team (R24). -/
theorem State.slots_of_coreFits {s : State} {g : Grid} {c : Nat} (h : s.coreFits g c = true) :
    g.desc.threads ≤ (s.freeSlots c).length := by
  simp only [State.coreFits_eq, Bool.and_eq_true, decide_eq_true_eq] at h
  tauto

/-- A core fits as before, once a team stands on another core, in another cluster where partitions count (R24). -/
theorem State.coreFits_placed {s : State} {g : Grid} {l : Nat} (h : NoneFrom s g.num l) {c d : Nat} (hc : c ≠ d)
    (hpad : g.desc.spad = 0 ∨ clusterOf d ≠ clusterOf c) : (s.placed g l d).coreFits g c = s.coreFits g c := by
  have hon : (s.placed g l d).teamsOn c = s.teamsOn c := by
    show (s.teams ++ [g.newTeam l d s.cycle]).filter _ = _
    rw [List.filter_append]
    simp [Grid.newTeam, hc.symm, State.teamsOn]
  have hnear : (((s.placed g l d).teamsNear c).map (·.spad)).sum = ((s.teamsNear c).map (·.spad)).sum := by
    show (((s.teams ++ [g.newTeam l d s.cycle]).filter _).map _).sum = _
    rw [List.filter_append, List.map_append, List.sum_append]
    by_cases hcl : clusterOf d = clusterOf c
    · have hspad : g.desc.spad = 0 := hpad.resolve_right (not_not.2 hcl)
      simp [Grid.newTeam, hcl, hspad, State.teamsNear]
    · simp [Grid.newTeam, hcl, State.teamsNear]
  have hcore : (s.placed g l d).core c = s.core c := rfl
  have hgrid : ∀ n, (s.placed g l d).gridD n = s.gridD n := fun _ => rfl
  simp only [State.coreFits_eq, hon, hnear, hcore, hgrid, State.freeSlots_placed h hc]

/-- The threads of a team at the start cycle, in the first free slots of its core (R27). -/
def State.threadsAtStart (s : State) (g : Grid) (l c : Nat) : List Thread :=
  (List.range g.desc.threads).map fun n => g.newThread l n c ((s.freeSlots c).getD n 0)

/-- All teams of a grid put on cores, from team `l` on (R25). -/
def State.placedAll (s : State) (g : Grid) (l : Nat) (cores : List Nat) : State :=
  { s with
    teams := s.teams ++ (cores.zipIdx l).map fun p => g.newTeam p.2 p.1 s.cycle
    rest := s.rest ++ (cores.zipIdx l).flatMap fun p => s.threadsAtStart g p.2 p.1 }

/-- R25: distinct cores that all fit take the teams of a queued grid at once. -/
theorem State.placeAll_fits {g : Grid} (hq : g.state = .queued) (cores : List Nat) (s : State) (l : Nat)
    (hnone : NoneFrom s g.num l) (hdist : cores.Nodup) (hpad : g.desc.spad = 0 ∨ (cores.map clusterOf).Nodup)
    (hfit : ∀ c ∈ cores, s.coreFits g c = true) :
    s.placeAll (State.placeTeam g) l cores = some (s.placedAll g l cores) := by
  induction cores generalizing s l with
  | nil => simp [State.placeAll, State.placedAll]
  | cons d r ih =>
    obtain ⟨hd, hdist⟩ := List.nodup_cons.1 hdist
    have hne : ∀ c ∈ r, c ≠ d := fun c hc e => hd (e ▸ hc)
    have hplace : State.placeTeam g s l d = some (s.placed g l d) := by
      unfold State.placeTeam
      rw [hq]
      exact State.placeNew_fits (hfit d List.mem_cons_self) l
    have hpad' : g.desc.spad = 0 ∨ (r.map clusterOf).Nodup := hpad.imp_right fun h => (List.nodup_cons.1 h).2
    have hfit' : ∀ c ∈ r, (s.placed g l d).coreFits g c = true := by
      intro c hc
      rw [State.coreFits_placed hnone (hne c hc)]
      · exact hfit c (List.mem_cons_of_mem _ hc)
      · refine hpad.imp_right fun h e => (List.nodup_cons.1 h).1 ?_
        exact e ▸ List.mem_map_of_mem hc
    have hthreads : ∀ p ∈ r.zipIdx (l + 1), (s.placed g l d).threadsAtStart g p.2 p.1 = s.threadsAtStart g p.2 p.1 := by
      intro p hp
      have hslots := State.freeSlots_placed hnone (hne p.1 (List.fst_mem_of_mem_zipIdx hp))
      simp only [State.threadsAtStart, hslots]
    have hrest := ih (s.placed g l d) (l + 1) (hnone.placed d) hdist hpad' hfit'
    rw [State.placeAll, hplace]
    refine hrest.trans ?_
    simp only [State.placedAll, List.flatMap_congr hthreads, List.zipIdx_cons, List.map_cons, List.flatMap_cons]
    simp [State.placed, State.threadsAtStart]

/-- The threads that a grid starts with: as many on each core as its teams have, each in a slot that was free (R24, R27). -/
theorem State.mem_threadsAtStart {s : State} {g : Grid} {l c : Nat} {x : Thread} (hfit : s.coreFits g c = true)
    (hx : x ∈ s.threadsAtStart g l c) :
    ∃ n slot, n < g.desc.threads ∧ s.slotTaken c slot = false ∧ x = g.newThread l n c slot := by
  obtain ⟨n, hn, rfl⟩ := List.mem_map.1 hx
  have hlt : n < g.desc.threads := List.mem_range.1 hn
  have hlen : n < (s.freeSlots c).length := hlt.trans_le (State.slots_of_coreFits hfit)
  refine ⟨n, _, hlt, ?_, rfl⟩
  rw [List.getD_eq_getElem _ _ hlen]
  simpa using (List.mem_filter.1 (List.getElem_mem hlen)).2

theorem State.length_newThreads (s : State) (g : Grid) (l : Nat) (cores : List Nat) :
    ((cores.zipIdx l).flatMap fun p => s.threadsAtStart g p.2 p.1).length = cores.length * g.desc.threads := by
  simp [List.length_flatMap, State.threadsAtStart]

/-- A thread at the start cycle reads its arguments in s1–s7, and 0 in every other register (R27). -/
theorem Grid.reg_newThread (g : Grid) (l n c slot : Nat) (d : Reg) :
    (g.newThread l n c slot).reg d = if 1 ≤ d.toNat ∧ d.toNat ≤ 7 then g.desc.args.getD (d.toNat - 1) 0 else 0 := by
  unfold Thread.reg
  by_cases hd : d = 0
  · subst hd; simp
  · rw [if_neg hd]; simp [Grid.newThread]

/-! ### The step (R25, R62, R204) -/

/-- A launch that is ready, and before which none could be placed, may be placed (R258). -/
theorem State.mayPlace_of_first {s : State} {g : Grid} (hready : s.launchReady g = true)
    (hfirst : ∀ x ∈ s.ranked, x.num ≠ g.num → x.before g = true → s.canPlace x = false) : s.mayPlace g = true := by
  unfold State.mayPlace
  rw [hready, Bool.true_and, Bool.not_eq_true', List.any_eq_false]
  intro x hx
  simp only [Bool.and_eq_true, bne_iff_ne, not_and, Bool.not_eq_true]
  exact fun ⟨hnum, hbefore⟩ => hfirst x hx hnum hbefore

/-- A grid as it starts (R24, R204, R323). -/
def Grid.started (now : Word) (x : Grid) : Grid :=
  { x with state := .placed, start := now, placedSince := now, live := false, mreg := startRegions x.regions now }

/-- The machine once a grid has started on cores that fit (R25). -/
def State.gridStarted (s : State) (g : Grid) (cores : List Nat) : State :=
  ((s.placedAll g 0 cores).dropICache cores g.queue).modGrid g.num (Grid.started s.cycle)

theorem State.gridStarted_frame (s : State) (g : Grid) (cores : List Nat) : s.gridStarted g cores =
    { s.placedAll g 0 cores with
      grids := s.grids.map fun x => if x.num = g.num then x.started s.cycle else x, cores := (s.gridStarted g cores).cores } := by
  have honly : (s.placedAll g 0 cores).dropICache cores g.queue = _ := State.dropICache_only _ _ _
  unfold State.gridStarted
  rw [honly]; rfl

theorem State.core_gridStarted (s : State) (g : Grid) (cores : List Nat) (c : Nat) :
    (s.gridStarted g cores).core c = if c ∈ cores then (s.core c).dropLines g.queue else s.core c :=
  (s.placedAll g 0 cores).core_dropICache cores g.queue c

/-- R25: the grid starts, its teams placed on the cores that the referee chose. -/
theorem gridStart_starts {s : State} {g : Grid} {cores : List Nat} (hg : s.grid? g.num = some g) (hq : g.state = .queued)
    (hmay : s.mayPlace g = true) (hlen : cores.length = g.desc.nteam) (hcourt : courtOk g.desc.side cores = true)
    (hplace : s.placeAll (State.placeTeam g) 0 cores = some (s.placedAll g 0 cores)) :
    exec (.gridStart g.num cores) s = .next (s.gridStarted g cores) := by
  show execGridStart g.num cores s = _
  unfold execGridStart
  simp only [hg, hplace]
  rw [if_pos (by simp [hq, hmay, hlen, hcourt])]
  rfl

/-! ### Parked threads end (R35) -/

/-- A thread parked without work ends as by `exit`; `upto` is the first request number after its own (R35). -/
def Thread.parkEnds (gn upto : Nat) (x : Thread) : Thread :=
  if x.id.grid = gn ∧ x.wait ≠ .ended then { x with wait := .exiting upto } else x

/-- Threads changed alike by two functions that agree on them. -/
theorem State.mapThreads_congr {s : State} {f h : Thread → Thread} (hfh : ∀ x ∈ s.threads, f x = h x) : s.mapThreads f = s.mapThreads h := by
  unfold State.mapThreads
  rw [hfh s.cur List.mem_cons_self, List.map_congr_left fun x hx => hfh x (List.mem_cons_of_mem _ hx)]

/-- Nothing is left of a grid whose threads are parked or ended, without tasks, pushes or a chunk under way (R35). -/
theorem State.allParked_of {s : State} {g : Grid} (hpushes : g.pushes = []) (hapart : g.replay.apart = none)
    (hcommit : g.replay.committing = false) (hdeques : ∀ q ∈ s.teams, q.grid = g.num → q.deque = [])
    (hparked : ∀ x ∈ s.threads, x.id.grid = g.num → (∃ c, x.wait = .next c) ∨ x.wait = .ended) : s.allParked g = true := by
  have hteams : (s.teams.all fun t => t.grid != g.num || t.deque.isEmpty) = true := by
    rw [List.all_eq_true]
    intro q hq
    by_cases h : q.grid = g.num
    · simp [hdeques q hq h]
    · simp [h]
  unfold State.allParked
  rw [hteams, hpushes, hapart, hcommit, Bool.and_eq_true, Bool.and_eq_true, Bool.and_eq_true, Bool.and_true]
  refine ⟨⟨⟨List.all_eq_true.2 fun x hx => ?_, rfl⟩, rfl⟩, rfl⟩
  obtain ⟨hin, hgrid⟩ := List.mem_filter.1 hx
  rcases hparked x hin (by simpa using hgrid) with ⟨c, h⟩ | h <;> rw [h]

/-- R35: each parked thread of a grid without work ends. -/
theorem nextParkEnd_ends {s : State} {g : Grid} (hg : s.grid? g.num = some g) (hstate : g.state = .placed) (hfaults : g.faults = [])
    (hall : s.allParked g = true)
    (hparked : ∀ x ∈ s.threads, x.id.grid = g.num → (∃ c, x.wait = .next c) ∨ x.wait = .ended) :
    exec (.nextParkEnd g.num) s = .next (s.mapThreads (Thread.parkEnds g.num s.fresh)) := by
  show execNextParkEnd g.num s = _
  unfold execNextParkEnd
  simp only [hg]
  rw [if_pos (by simp [hstate, hfaults, hall])]
  refine congrArg _ (State.mapThreads_congr fun x hx => ?_)
  unfold Thread.parkEnds
  by_cases h : x.id.grid = g.num
  · rcases hparked x hx h with ⟨c, hw⟩ | hw <;> simp [h, hw]
  · simp [h]

end Sys2Proof.Machine

namespace Sys2Proof.Claims

open Sys2Proof.Machine

theorem newTeam_eq (g : Grid) (l c : Nat) (now : Sys2Proof.Word) : g.newTeam l c now = teamAtStart g l c now := by
  simp [Grid.newTeam, teamAtStart, Descriptor.tiles, Descriptor.pool, Descriptor.tcm, Descriptor.spad, Descriptor.spill,
    Descriptor.threads, Nat.mul_comm]

end Sys2Proof.Claims

/-! SUPPORT. What a grid held is freed (R28, R291, R316). -/

namespace Sys2Proof.Machine

open Sys2Proof.Claims

/-! ### What a grid held (R28, R316) -/

/-- The entries that a test keeps: the others read as unlisted. -/
theorem Memory.get_keep (p : Nat → Bool) (m : List Host.Cell) (k : Nat) :
    Memory.get (Memory.keep p m) k = if p k then Memory.get m k else Memory.unlisted := by
  induction m with
  | nil => simp [Memory.keep, Memory.get]
  | cons c r ih =>
    obtain ⟨a, v⟩ := c
    have hkeep : Memory.keep p ((a, v) :: r) = if p a then (a, v) :: Memory.keep p r else Memory.keep p r := by
      simp [Memory.keep, List.filter_cons]
    rw [hkeep]
    by_cases ha : a = k
    · subst ha; by_cases hp : p a <;> simp [Memory.get, hp, ih]
    · by_cases hp : p a <;> simp [Memory.get, hp, ha, ih]

/-- The windows of R51 and the homes of R57 name the same keys. -/
theorem ofGrid_eq_windowOf (g k : Nat) : ofGrid g k = windowOf g k := by
  rw [Bool.eq_iff_iff]
  simp only [windowOf, Bool.or_eq_true, Bool.and_eq_true, decide_eq_true_eq, beq_iff_eq]
  unfold ofGrid homeOf
  by_cases h1 : k < 2 ^ 53
  · rw [if_pos h1]; simp only [Bool.false_eq_true, false_iff]; omega
  · rw [if_neg h1]
    by_cases h2 : k < 2 ^ 54
    · rw [if_pos h2]; simp only [beq_iff_eq]; omega
    · rw [if_neg h2]
      by_cases h3 : k < 2 ^ 55
      · rw [if_pos h3]; simp only [beq_iff_eq]; omega
      · rw [if_neg h3]
        by_cases h4 : k < 2 ^ 56
        · rw [if_pos h4]; simp only [Bool.false_eq_true, false_iff]; omega
        · rw [if_neg h4]; simp only [Bool.false_eq_true, false_iff]; omega

/-- One bit written into a word: that bit reads as written, every other as before. -/
theorem getLsbD_setBits_one (c : Word) (k : Nat) (b : Bool) {i : Nat} (hi : i < 64) :
    (setBits c k k b.toNat).getLsbD i = if i = k then b else c.getLsbD i := by
  have hsplit : c.toNat - bits c k k * 2 ^ k + b.toNat % 2 ^ (k + 1 - k) * 2 ^ k =
      2 ^ k * (2 * (c.toNat / 2 ^ k / 2) + b.toNat) + c.toNat % 2 ^ k := by
    have hlow : 2 ^ k * (c.toNat / 2 ^ k) + c.toNat % 2 ^ k = c.toNat := Nat.div_add_mod _ _
    have hbit : 2 * (c.toNat / 2 ^ k / 2) + c.toNat / 2 ^ k % 2 = c.toNat / 2 ^ k := Nat.div_add_mod _ _
    have hb : b.toNat % 2 = b.toNat := by cases b <;> rfl
    simp only [bits, show k + 1 - k = 1 by omega, Nat.pow_one, hb]
    generalize c.toNat / 2 ^ k % 2 = z at *
    generalize c.toNat / 2 ^ k / 2 = y at *
    rw [← hbit, Nat.mul_add] at hlow
    rw [Nat.mul_add, Nat.mul_comm z, Nat.mul_comm b.toNat]
    omega
  have hread : (setBits c k k b.toNat).getLsbD i =
      (2 ^ k * (2 * (c.toNat / 2 ^ k / 2) + b.toNat) + c.toNat % 2 ^ k).testBit i := by
    simp only [setBits, hsplit, BitVec.getLsbD_ofNat, hi, decide_true, Bool.true_and]
  rw [hread, Nat.testBit_two_pow_mul_add _ (Nat.mod_lt _ (Nat.two_pow_pos k))]
  rcases Nat.lt_trichotomy i k with h | h | h
  · rw [if_pos h, if_neg h.ne, Nat.testBit_mod_two_pow]
    simp [h, BitVec.getLsbD]
  · subst h
    rw [if_neg (Nat.lt_irrefl _), if_pos rfl, Nat.sub_self, Nat.testBit_zero]
    cases b <;> simp
  · obtain ⟨j, rfl⟩ := Nat.exists_eq_add_of_lt h
    have hhalf : (2 * (c.toNat / 2 ^ k / 2) + b.toNat) / 2 = c.toNat / 2 ^ k / 2 := by
      have := Bool.toNat_lt b
      omega
    rw [if_neg (by omega), if_neg (by omega), show k + j + 1 - k = j + 1 by omega, Nat.testBit_succ, hhalf,
      ← Nat.testBit_succ, Nat.testBit_div_two_pow, BitVec.getLsbD]
    congr 1; omega

/-- Bit 19 of a word set or cleared, as `CPBC` shows HIT (R291). -/
theorem setBits_bit19 (c : Word) (b : Bool) : setBits c 19 19 b.toNat = if b then c ||| 0x80000 else c &&& ~~~0x80000 := by
  have hmask : (0x80000 : Word) = BitVec.twoPow 64 19 := by decide
  refine BitVec.eq_of_getLsbD_eq fun i hi => ?_
  rw [getLsbD_setBits_one c 19 b hi, hmask]
  by_cases h : i = 19
  · subst h; cases b <;> simp
  · cases b <;> simp [h, hi]

theorem State.setHits_eq (s : State) : s.setHits = hitsSet s := by
  have hbit : (fun (k : Nat) (c : Word) => setBits c 19 19 (if s.holding k then 1 else 0)) =
      fun k c => if heldBy s k then c ||| 0x80000 else c &&& ~~~0x80000 := by
    funext k c
    have hnat : (if s.holding k then 1 else 0) = (s.holding k).toNat := by cases s.holding k <;> rfl
    rw [hnat]
    exact setBits_bit19 c (s.holding k)
  unfold State.setHits hitsSet
  rw [hbit]

/-- The slot pairs of a list of teams back among the spares of their towers (R43, log entry 46). -/
def pairsReturned (l : List Team) (spares : List Nat) : List Nat :=
  l.foldl (fun l t => l.set (towerOf t.savedFrom) (l.getD (towerOf t.savedFrom) 0 + 1)) spares

theorem State.returnPairs_eq (s : State) (l : List Team) :
    l.foldl (fun u t => u.returnPair t.savedFrom) s = { s with spares := pairsReturned l s.spares } := by
  induction l generalizing s with
  | nil => rfl
  | cons t r ih => rw [List.foldl_cons, ih]; rfl

/-- The cores that the teams of a grid hold. -/
def State.coresHeld (s : State) (g : Nat) : List Nat := (s.teams.filter fun t => t.grid == g).filterMap (·.core)

/-- Does an exchange touch a core of a grid? -/
def State.exchangeHit (s : State) (g : Nat) (p : Nat × Nat) : Bool :=
  (s.coresHeld g).contains p.1 || (s.coresHeld g).contains p.2

/-- Is a core in an exchange that the end of a grid abandons (R316)? -/
def State.unpaired (s : State) (g c : Nat) : Bool :=
  (s.exchanges.filter (s.exchangeHit g)).any fun p => p.1 == c || p.2 == c

/-- A core without a grid's records, its exchange abandoned (R28, R316, R325). -/
def State.coreFreed (s : State) (g : Nat) (c : Core) : Core :=
  let q := c.mq.filter fun r => r.tid.grid != g
  { c with
    mq := q, emptied := if q.isEmpty ∧ !c.mq.isEmpty then s.cycle else c.emptied
    exchanging := c.exchanging && !s.unpaired g c.num, frozen := if s.unpaired g c.num then 4 else c.frozen }

/-- What stands once a grid is freed, but for the breakpoints' HIT. -/
def State.grounds (s : State) (g : Nat) : State :=
  { s with
    spares := pairsReturned (s.teams.filter fun t => t.grid == g && t.core.isNone) s.spares
    cur := if s.cur.id.grid = g then Thread.vacant else s.cur
    rest := s.rest.filter fun t => t.id.grid != g
    teams := s.teams.filter fun t => t.grid != g
    grids := s.grids.filter fun x => x.num != g
    cores := s.cores.map (s.coreFreed g)
    exchanges := s.exchanges.filter fun p => !s.exchangeHit g p
    copies := s.copies.filter fun c => c.entry.isSome || c.grid != g
    mem := Memory.keep (fun k => !ofGrid g k) s.mem
    empty := s.empty.filter fun w => !ofGrid g (w * 8)
    poison := s.poison.filter fun n => !errorOf g n
    soft := s.soft.filter fun n => !errorOf g n
    fabric := s.fabric.filter fun r => r.tid.grid != g
    fs := s.fs.filter fun f => f.tid.grid != g }

theorem State.freeGrid_eq (s : State) (g : Nat) : s.freeGrid g = hitsSet (s.grounds g) := by
  rw [← State.setHits_eq]
  unfold State.freeGrid
  simp only [State.returnPairs_eq, beq_iff_eq]
  rfl

theorem State.core_freeGrid (s : State) (g c : Nat) : (s.freeGrid g).core c =
    if c ∈ s.cores.map (·.num) then s.coreFreed g (s.core c) else s.core c := by
  rw [State.freeGrid_eq]
  exact s.core_mapCores (s.coreFreed g) (fun _ => rfl) c

theorem State.unpaired_eq (s : State) (g c : Nat) :
    s.unpaired g c = s.exchanges.any fun p => s.exchangeHit g p && (p.1 == c || p.2 == c) := by
  rw [State.unpaired, List.any_filter]

/-- A core once a grid is freed (R28, R316, R325). -/
theorem State.core_freeGrid_eq (s : State) (g c : Nat) : (s.freeGrid g).core c =
    { s.core c with
      mq := (s.core c).mq.filter (·.tid.grid != g)
      emptied := if (s.core c).mq.filter (·.tid.grid != g) = [] ∧ (s.core c).mq ≠ [] then s.cycle else (s.core c).emptied
      exchanging := (s.core c).exchanging && !s.exchanges.any fun p => s.exchangeHit g p && (p.1 == c || p.2 == c)
      frozen := if (s.exchanges.any fun p => s.exchangeHit g p && (p.1 == c || p.2 == c)) = true ∧ c ∈ s.cores.map (·.num)
        then 4 else (s.core c).frozen } := by
  rw [State.core_freeGrid, ← State.unpaired_eq]
  by_cases hc : c ∈ s.cores.map (·.num)
  · rw [if_pos hc]
    simp [State.coreFreed, State.core_num, hc]
  · rw [if_neg hc, State.core_unlisted hc]
    simp [Core.reset, hc]

/-- R28, R316: everything that a grid held is freed. -/
theorem State.freed_freeGrid (s : State) (g : Nat) : Freed s (s.freeGrid g) g := by
  have heq := s.freeGrid_eq g
  refine ⟨fun k => ?_, fun k => ?_, fun w hw => ?_, fun w hw => ?_, fun c => ?_, ?_⟩
  · rw [heq]
    refine (Memory.get_keep (fun k => !ofGrid g k) s.mem k).trans ?_
    rw [ofGrid_eq_windowOf]
    cases windowOf g k <;> rfl
  · rw [heq]
    show (!(s.empty.filter fun w => !ofGrid g (w * 8)).contains (k / 8)) = _
    rw [← ofGrid_eq_windowOf]
    unfold State.isFull
    by_cases h : ofGrid g (k / 8 * 8) <;> simp [h, List.mem_filter]
  · rw [heq] at hw
    exact (List.mem_filter.1 hw).1
  · rw [heq] at hw
    exact (List.mem_filter.1 hw).1
  · exact s.core_freeGrid_eq g c
  · rw [heq]; rfl

end Sys2Proof.Machine

/-! SUPPORT. The record of a grid that ends (R239, R255, R266), and its completion (R28). -/

namespace Sys2Proof.Machine

open Sys2Proof.Claims

/-! ### Words that the referee stores (R61, R239, R255) -/

/-- Lines leaving caches without errors leave no error behind. -/
theorem errorsAfter_clean (gone : List Line) {l : List Nat} (h : ∀ c w, lineErr c w ∉ l) : errorsAfter gone l = l := by
  have hnone : ∀ x : Line, ([0, 1, 2, 3].filter fun i => l.contains (lineErr x.core (4 * x.num + i))) = [] := by
    intro x
    rw [List.filter_eq_nil_iff]
    exact fun i _ e => h _ _ (List.contains_iff_mem.1 e)
  have herrs : (gone.flatMap fun x =>
      ([0, 1, 2, 3].filter fun i => l.contains (lineErr x.core (4 * x.num + i))).map fun i => (x, 4 * x.num + i)) = [] := by
    rw [List.flatMap_eq_nil_iff]
    exact fun x _ => by rw [hnone]; rfl
  unfold errorsAfter
  simp only [herrs, List.filter_nil, List.map_nil, List.nil_append, List.any_nil, Bool.not_false, List.filter_true]

/-- Only memory, errors and copies of lines may differ, and of the errors and copies none is new. -/
structure WordsOnly (s t : State) : Prop where
  frame : t = { s with mem := t.mem, poison := t.poison, soft := t.soft, lines := t.lines }
  poison : ∀ w, w ∈ t.poison → w ∈ s.poison
  soft : ∀ w, w ∈ t.soft → w ∈ s.soft
  lines : ∀ l, l ∈ t.lines → l ∈ s.lines

theorem WordsOnly.refl (s : State) : WordsOnly s s := ⟨rfl, fun _ h => h, fun _ h => h, fun _ h => h⟩

theorem WordsOnly.trans {s t u : State} (h : WordsOnly s t) (k : WordsOnly t u) : WordsOnly s u where
  frame := k.frame.trans (by rw [h.frame])
  poison w hw := h.poison w (k.poison w hw)
  soft w hw := h.soft w (k.soft w hw)
  lines l hl := h.lines l (k.lines l hl)

theorem WordsOnly.cachesClean {s t : State} (h : WordsOnly s t) (hc : CachesClean s) : CachesClean t := fun c w =>
  ⟨fun hw => (hc c w).1 (h.poison _ hw), fun hw => (hc c w).2 (h.soft _ hw)⟩

theorem WordsOnly.chunkWrites {s t : State} (h : WordsOnly s t) : t.chunkWrites = s.chunkWrites := by rw [h.frame]
theorem WordsOnly.cycle {s t : State} (h : WordsOnly s t) : t.cycle = s.cycle := by rw [h.frame]

/-- A word stored outside the keep region and outside a chunk, while no cache holds an error (R61). -/
theorem State.putWord_only {s : State} {k : Nat} (v : Nat) (hkeep : isKeep k = false) (hclean : CachesClean s)
    (hchunk : s.chunkWrites = none) : WordsOnly s (s.putWord k v) ∧ (s.putWord k v).lines = linesBut s k 8 := by
  have hp : ∀ gone, errorsAfter gone s.poison = s.poison := fun gone => errorsAfter_clean gone fun c w => (hclean c w).1
  have hs : ∀ gone, errorsAfter gone s.soft = s.soft := fun gone => errorsAfter_clean gone fun c w => (hclean c w).2
  have hput : s.putWord k v = { (s.invalidate k 8 none).store k 8 v with chunkWrites := none } := by
    unfold State.putWord State.homeStore
    rw [if_neg (by simp [hkeep])]
    simp [State.invalidate, State.dropLines, hchunk]
  have hlines : (s.putWord k v).lines = linesBut s k 8 := by
    rw [hput]
    exact List.filter_congr fun l _ => congrArg not (Bool.and_true _)
  refine ⟨⟨?_, fun w hw => ?_, fun w hw => ?_, fun l hl => ?_⟩, hlines⟩
  · rw [hput, ← hchunk]; rfl
  · rw [hput] at hw
    have := (List.mem_filter.1 hw).1
    rwa [State.invalidate, State.dropLines, hp] at this
  · rw [hput] at hw
    have := (List.mem_filter.1 hw).1
    rwa [State.invalidate, State.dropLines, hs] at this
  · rw [hlines] at hl
    exact (List.mem_filter.1 hl).1

theorem State.putWord_mem (s : State) (k v : Nat) : (s.putWord k v).mem = Memory.store s.mem k v 8 := by
  unfold State.putWord State.homeStore
  split <;> rfl

theorem State.putWord_cycle (s : State) (k v : Nat) : (s.putWord k v).cycle = s.cycle := by
  unfold State.putWord State.homeStore
  split <;> rfl

theorem State.storeWords_cycle (s : State) (k : Nat) (l : List Nat) : (s.storeWords k l).cycle = s.cycle := by
  induction l generalizing s k with
  | nil => rfl
  | cons v r ih => exact (ih (s.putWord k v) (k + 8)).trans (s.putWord_cycle k v)

theorem State.putWord_wf {s : State} (h : Memory.wf s.mem = true) (k v : Nat) : Memory.wf (s.putWord k v).mem = true := by
  rw [State.putWord_mem]; exact Memory.wf_store _ _ _ _ h

theorem State.byte_putWord {s : State} (h : Memory.wf s.mem = true) (k v x : Nat) :
    (s.putWord k v).byte x = if k ≤ x ∧ x < k + 8 then BitVec.ofNat 8 (v / 256 ^ (x - k)) else s.byte x := by
  rw [← State.byte_store s k 8 v x h]
  unfold State.byte
  rw [State.putWord_mem]; rfl

theorem State.storeWords_wf {s : State} (h : Memory.wf s.mem = true) (l : List Nat) (k : Nat) :
    Memory.wf (s.storeWords k l).mem = true := by
  induction l generalizing s k with
  | nil => exact h
  | cons v r ih => exact ih (State.putWord_wf h k v) (k + 8)

/-- The bytes of consecutive words stored (R3). -/
theorem State.byte_storeWords {s : State} (h : Memory.wf s.mem = true) (l : List Nat) (k x : Nat) :
    (s.storeWords k l).byte x = if k ≤ x ∧ x < k + 8 * l.length then byteOfWords l k x else s.byte x := by
  induction l generalizing s k with
  | nil => rw [if_neg (by simp)]; rfl
  | cons v r ih =>
    rw [State.storeWords, ih (State.putWord_wf h k v), State.byte_putWord h, List.length_cons]
    by_cases hfirst : k ≤ x ∧ x < k + 8
    · have hzero : (x - k) / 8 = 0 := by omega
      have hmod : (x - k) % 8 = x - k := by omega
      rw [if_neg (by omega), if_pos hfirst, if_pos (by omega)]
      simp [byteOfWords, hzero, hmod]
    · by_cases hrest : k + 8 ≤ x ∧ x < k + 8 + 8 * r.length
      · have hsucc : (x - k) / 8 = (x - (k + 8)) / 8 + 1 := by omega
        have hmod : (x - k) % 8 = (x - (k + 8)) % 8 := by omega
        rw [if_pos hrest, if_pos (by omega)]
        simp [byteOfWords, hsucc, hmod]
      · rw [if_neg hrest, if_neg hfirst, if_neg (by omega)]

theorem State.storeWords_only {s : State} (l : List Nat) (k : Nat) (hkeep : ∀ x, k ≤ x → x < k + 8 * l.length → isKeep x = false)
    (hclean : CachesClean s) (hchunk : s.chunkWrites = none) : WordsOnly s (s.storeWords k l) := by
  induction l generalizing s k with
  | nil => exact .refl s
  | cons v r ih =>
    rw [List.length_cons] at hkeep
    obtain ⟨hone, -⟩ := State.putWord_only v (hkeep k (le_refl k) (by omega)) hclean hchunk
    exact hone.trans (ih (k + 8) (fun x h1 h2 => hkeep x (by omega) (by omega)) (hone.cachesClean hclean)
      (hone.chunkWrites.trans hchunk))

/-- Where no parked request waits for a word, nothing is served there (R31). -/
theorem State.serveList_none {s : State} {a : Nat}
    (h : ∀ r ∈ s.fabric, r.parked = true → ∀ p ∈ r.pieces, s.mapKey p.key / 8 ≠ a / 8) (n : Nat) : s.serveList a n = s := by
  have hfind : (s.fabric.find? fun r => r.parked && r.pieces.any fun p => s.mapKey p.key / 8 == a / 8) = none := by
    rw [List.find?_eq_none]
    intro r hr e
    rw [Bool.and_eq_true, List.any_eq_true] at e
    obtain ⟨hpark, p, hp, he⟩ := e
    exact h r hr hpark p hp (by simpa using he)
  cases n with
  | zero => rfl
  | succ n => rw [State.serveList, hfind]

/-- A word filled whose waiters are none (R239). -/
theorem State.fillWord_eq {s : State} {k : Nat} (v : Nat) (hone : WordsOnly s (s.putWord k v))
    (hwait : ∀ r ∈ s.fabric, r.parked = true → ∀ p ∈ r.pieces, s.mapKey p.key / 8 ≠ k / 8) :
    s.fillWord k v = (s.putWord k v).setFull k true := by
  have hframe := hone.frame
  refine State.serveList_none (fun r hr hpark p hp => ?_) _
  have hmap : ((s.putWord k v).setFull k true).mapKey p.key = s.mapKey p.key := by
    rw [hframe]; rfl
  rw [hmap]
  exact hwait r (by rw [hframe] at hr; exact hr) hpark p hp

/-! ### The records of a grid that ends (R239, R255, R266) -/

/-- A completion record is two words (R255). -/
theorem State.completionRecord_eq (s : State) (addr status cause grid seq : Nat) : s.completionRecord addr status cause grid seq =
    s.storeWords (addr + 48) [status + cause * 2 ^ 8 + grid * 2 ^ 16 + 2 ^ 31 + seq % 2 ^ 32 * 2 ^ 32, s.cycle.toNat] := rfl

/-- The block and the completion record in an entry (R239, R255, R266). -/
def State.entryWords (s : State) (e : QEntry) (status cause grid : Nat) (block : List Nat) : State :=
  (s.storeWords (e.addr + 192) block).completionRecord e.addr status cause grid e.num

theorem State.entryWords_only {s : State} {e : QEntry} (status cause grid : Nat) {block : List Nat} (hlen : block.length = 8)
    (hkeep : ∀ x, e.addr + 48 ≤ x → x < e.addr + 256 → isKeep x = false) (hclean : CachesClean s) (hchunk : s.chunkWrites = none) :
    WordsOnly s (s.entryWords e status cause grid block) := by
  have hblock := State.storeWords_only block (e.addr + 192) (fun x h1 h2 => hkeep x (by omega) (by omega)) hclean hchunk
  refine hblock.trans ?_
  unfold State.entryWords
  rw [State.completionRecord_eq]
  exact State.storeWords_only _ _ (fun x h1 h2 => hkeep x h1 (by simp at h2; omega)) (hblock.cachesClean hclean)
    (hblock.chunkWrites.trans hchunk)

theorem State.byte_entryWords {s : State} (h : Memory.wf s.mem = true) (e : QEntry) (status cause grid : Nat) {block : List Nat}
    (hlen : block.length = 8) (x : Nat) :
    (s.entryWords e status cause grid block).byte x =
      if e.addr + 48 ≤ x ∧ x < e.addr + 64 then
        byteOfWords [status + cause * 2 ^ 8 + grid * 2 ^ 16 + 2 ^ 31 + e.num % 2 ^ 32 * 2 ^ 32, s.cycle.toNat] (e.addr + 48) x
      else if e.addr + 192 ≤ x ∧ x < e.addr + 256 then byteOfWords block (e.addr + 192) x
      else s.byte x := by
  unfold State.entryWords
  rw [State.completionRecord_eq, State.storeWords_cycle, State.byte_storeWords (State.storeWords_wf h _ _), State.byte_storeWords h, hlen]
  rfl

/-- The records of a grid that an entry launched (R239, R255). -/
theorem State.writeRecords_entry {s : State} {g : Grid} {q n : Nat} {e : QEntry} (hentry : g.entry = some (q, n))
    (hdone : g.desc.done = 0) (hfind : (s.queue q).entries.find? (·.id == n) = some e) (status cause : Nat) (block : List Nat) :
    s.writeRecords g status cause block = (s.entryWords e status cause g.num block).modEntry q n fun x =>
      { x with done := true, grid := g.num, status := status, cause := cause, written := true } := by
  unfold State.writeRecords State.completionWord
  simp only [hentry, hfind, hdone, if_true]
  rfl

/-- The records of a grid without an entry: its DONE word, if it has one (R239). -/
theorem State.writeRecords_child {s : State} {g : Grid} (hentry : g.entry = none) {status : Nat}
    (h : g.desc.done = 0 ∨ status = 0) (cause : Nat) (block : List Nat) :
    s.writeRecords g status cause block = s.completionWord g status := by
  unfold State.writeRecords
  simp only [hentry]
  rw [if_neg (by tauto)]

theorem State.queue_num (s : State) (q : Nat) : (s.queue q).num = q := by
  unfold State.queue
  cases h : s.queues.find? (·.num == q) with
  | none => rfl
  | some k => simpa using List.find?_some h

theorem State.queue_modEntry (s : State) (q n : Nat) (f : QEntry → QEntry) (d : Nat) : (s.modEntry q n f).queue d =
    if d = q then { s.queue q with entries := (s.queue q).entries.map fun e => if e.id = n then f e else e } else s.queue d := by
  unfold State.modEntry
  rw [State.queue_setQueue]
  simp only [State.queue_num]

/-- R239, R255, R266: the record of a grid that ends, `s` being the machine with everything freed. -/
theorem State.ended_writeRecords (s : State) (g : Grid) (status cause : Nat) {block : List Nat} (hlen : block.length = 8) :
    Ended s g status cause block (s.writeRecords g status cause block) := by
  refine ⟨fun hentry hdone => ?_, fun hentry _ k hdone hstatus hloc hwalk hkeep hclean hchunk hwait => ?_,
    fun q n hentry hdone e hfind hkeep hclean hchunk => ?_⟩
  · rw [State.writeRecords_child hentry (.inl hdone), State.completionWord, if_pos hdone]
  · obtain ⟨x, hwalk⟩ := hwalk
    obtain ⟨hone, hlines⟩ := State.putWord_only (status + g.num * 2 ^ 8) hkeep hclean hchunk
    have hkey : s.doneKey g.queue (locOf g.desc.done) = some k := by
      unfold State.doneKey
      rw [if_neg (by unfold windowBase; omega), hwalk]
    have hword : s.writeRecords g status cause block = (s.putWord k (status + g.num * 2 ^ 8)).setFull k true := by
      rw [State.writeRecords_child hentry (.inr hstatus), State.completionWord, if_neg hdone, hkey]
      exact State.fillWord_eq _ hone hwait
    rw [hword]
    refine ⟨fun hwf => State.byte_putWord hwf k _, fun y => ?_, hone.poison, hone.soft, ?_⟩
    · rw [State.isFull_setFull, State.isFull, State.isFull, hone.frame]; rfl
    · unfold State.setFull
      rw [← hlines, hone.frame]
  · have hone := State.entryWords_only status cause g.num hlen hkeep hclean hchunk
    have hqueue : ∀ d, (s.entryWords e status cause g.num block).queue d = s.queue d := fun d => by rw [hone.frame]; rfl
    rw [State.writeRecords_entry hentry hdone hfind]
    refine ⟨fun hwf x => State.byte_entryWords hwf e status cause g.num hlen x, ?_, fun d hd => ?_, hone.poison, hone.soft, hone.lines, ?_⟩
    · rw [State.queue_modEntry, if_pos rfl, hqueue]
    · rw [State.queue_modEntry, if_neg hd, hqueue]
    · unfold State.modEntry
      rw [hone.frame]; rfl

/-- R28: a placed grid of which nothing is left is freed and leaves its record. -/
theorem gridComplete_ends {s : State} {g : Grid} (hg : s.grid? g.num = some g) (hstate : g.state = .placed) (hfaults : g.faults = [])
    (hpushes : g.pushes = []) (hapart : g.replay.apart = none) (hcommit : g.replay.committing = false)
    (hthreads : ∀ x ∈ s.threads, x.id.grid = g.num → x.wait = .ended) (hcopies : ∀ c ∈ s.copies, c.entry = none → c.grid ≠ g.num)
    (hrecords : ∀ c ∈ s.cores, ∀ r ∈ c.mq, r.tid.grid ≠ g.num) (hchildren : ∀ x ∈ s.grids, x.parent ≠ some g.num)
    (hfabric : ∀ r ∈ s.fabric, r.tid.grid = g.num → ∀ p ∈ r.pieces, p.done = true) :
    exec (.gridComplete g.num) s = .next ((s.freeGrid g.num).writeRecords g 0 0 (g.accounting s.cycle)) := by
  have hended : ((s.threadsOf g.num).all fun t => t.wait == .ended) = true := by
    rw [List.all_eq_true]
    intro x hx
    obtain ⟨hin, hgrid⟩ := List.mem_filter.1 hx
    simpa using hthreads x hin (by simpa using hgrid)
  have hcopied : (s.copies.all fun c => c.entry.isSome || c.grid != g.num) = true := by
    rw [List.all_eq_true]
    intro c hc
    cases hentry : c.entry with
    | none => simpa using hcopies c hc hentry
    | some _ => rfl
  have hqueues : (s.cores.all fun c => c.mq.all fun r => r.tid.grid != g.num) = true := by
    simpa [List.all_eq_true] using hrecords
  have hparents : (s.grids.all fun x => x.parent != some g.num) = true := by
    simpa [List.all_eq_true] using hchildren
  have hperformed : (s.fabric.all fun r => r.tid.grid != g.num || r.performed) = true := by
    rw [List.all_eq_true]
    intro r hr
    by_cases hgrid : r.tid.grid = g.num
    · simpa [hgrid, Req.performed] using hfabric r hr hgrid
    · simp [hgrid]
  have hdone : s.gridDone g = true := by
    unfold State.gridDone
    rw [hstate, hfaults, hended, hcopied, hqueues, hparents, hapart, hcommit, hpushes, hperformed]
    rfl
  show execGridComplete g.num s = _
  unfold execGridComplete
  simp only [hg]
  rw [if_pos hdone]

end Sys2Proof.Machine

section

open Sys2Proof.Machine Sys2Proof.Claims

/-- Settles O37: the teams are placed one by one, each leaving the cores of the others as they were; a grid of which nothing is left is
freed, and its record written on what is then left. -/
theorem gridsStartParkAndComplete : Obligations.GridsStartParkAndComplete := by
  intro s gn g hg
  obtain rfl : g.num = gn := by simpa using List.find?_some hg
  refine ⟨fun cores hq hheld hbefore hsibling hfirst hroom hthreads hteams => ?_, ?_, ?_⟩
  · obtain ⟨hlen, hdist, hpad, hcourt, hfit⟩ := hroom
    have hnone : NoneFrom s g.num 0 := ⟨fun x hx e => absurd e (hthreads x hx), fun q hq e => absurd e (hteams q hq)⟩
    have hplace := State.placeAll_fits hq cores s 0 hnone hdist (hpad.imp_left fun h => by simp [Descriptor.spad, h]) hfit
    have hready : s.launchReady g = true := by simp [State.launchReady, hq, hheld, hbefore, hsibling]
    have hcore := s.core_gridStarted g cores
    have hframe := s.gridStarted_frame g cores
    refine ⟨_, gridStart_starts hg hq (State.mayPlace_of_first hready hfirst) hlen hcourt hplace, ?_,
      ⟨_, by rw [hframe]; rfl, s.length_newThreads g 0 cores, fun x hx => ?_⟩, fun c => ?_, fun c => ?_, ?_⟩
    · rw [hframe]
      simp only [State.placedAll, newTeam_eq]
    · obtain ⟨⟨c, l⟩, hp, hx⟩ := List.mem_flatMap.1 hx
      have hc : cores[l]? = some c := by simpa using (List.mem_zipIdx_iff_getElem?.1 hp)
      obtain ⟨n, slot, hn, hfree, rfl⟩ := State.mem_threadsAtStart (hfit c (List.mem_of_getElem? hc)) hx
      exact ⟨rfl, hc, hn, rfl, rfl, rfl, hfree, rfl, g.reg_newThread l n c slot, rfl, rfl, rfl,
        fun i hi => by simp [Grid.newThread, Thread.vacant]⟩
    · rw [hcore c]
      split <;> exact ⟨rfl, rfl⟩
    · rw [hcore c]
      split <;> exact ⟨rfl, rfl⟩
    · rw [hframe]; rfl
  · intro hstate hfaults hpushes hapart hcommit hdeques hparked
    exact nextParkEnd_ends hg hstate hfaults (State.allParked_of hpushes hapart hcommit hdeques hparked) hparked
  · intro hstate hfaults hpushes hapart hcommit hthreads hcopies hrecords hchildren hfabric
    exact ⟨_, _, gridComplete_ends hg hstate hfaults hpushes hapart hcommit hthreads hcopies hrecords hchildren hfabric,
      s.freed_freeGrid g.num, State.ended_writeRecords _ g 0 0 rfl⟩
end

/-! SUPPORT. What one event does at its home (R70): the data caches lose or gain lines, nothing is corrected, the operation acts on its
word, and the piece is marked performed. -/

namespace Sys2Proof.Machine

open Sys2Proof.Claims

/-! ### Data caches without errors (R17, R61) -/

/-- Only the lines of data caches may differ. -/
def LinesOnly (s t : State) : Prop := ∃ l, t = { s with lines := l }

theorem LinesOnly.refl (s : State) : LinesOnly s s := ⟨s.lines, rfl⟩

theorem LinesOnly.trans {s t u : State} (h : LinesOnly s t) (k : LinesOnly t u) : LinesOnly s u := by
  obtain ⟨_, rfl⟩ := h
  obtain ⟨l, rfl⟩ := k
  exact ⟨l, rfl⟩

theorem LinesOnly.cachesClean {s t : State} (h : LinesOnly s t) (hc : CachesClean s) : CachesClean t := by
  obtain ⟨_, rfl⟩ := h
  exact hc

theorem State.dropLines_clean {s : State} (hc : CachesClean s) (p : Line → Bool) : LinesOnly s (s.dropLines p) := by
  refine ⟨s.lines.filter fun l => !p l, ?_⟩
  unfold State.dropLines
  rw [errorsAfter_clean _ fun c w => (hc c w).1, errorsAfter_clean _ fun c w => (hc c w).2]

/-- No line holds an error of one bit. -/
theorem State.correctPlace_clean {s : State} (hc : CachesClean s) (c w sub loc addr : Nat) :
    s.correctPlace (lineErr c w) sub loc addr = s := by
  unfold State.correctPlace
  rw [if_neg (by simpa using (hc c w).2)]

theorem State.clearError_clean {s : State} (hc : CachesClean s) (c w : Nat) : s.clearError (lineErr c w) = s := by
  have hkeep : ∀ l : List Nat, lineErr c w ∉ l → l.filter (· != lineErr c w) = l := fun l hl =>
    List.filter_eq_self.2 fun n hn => by simpa using fun e : n = lineErr c w => hl (e ▸ hn)
  unfold State.clearError
  rw [hkeep _ (hc c w).1, hkeep _ (hc c w).2]

theorem State.readLines_clean {s : State} (hc : CachesClean s) (p : Line → Bool) : s.readLines p = s := by
  have hline : ∀ l : Line, [0, 1, 2, 3].foldl (fun t i =>
      t.correctPlace (lineErr l.core (4 * l.num + i)) 4 l.core (32 * l.num + 8 * i)) s = s := fun l => by
    simp only [List.foldl_cons, List.foldl_nil, State.correctPlace_clean hc]
  unfold State.readLines
  split
  · rfl
  · exact List.foldl_fixed' hline _

theorem State.takeLines_clean {s : State} (hc : CachesClean s) (k n : Nat) (but : Option Nat) : LinesOnly s (s.takeLines k n but) := by
  unfold State.takeLines State.invalidate
  rw [State.readLines_clean hc]
  exact State.dropLines_clean hc _

theorem State.evict_clean {s : State} (hc : CachesClean s) (c : Nat) : LinesOnly s (s.evict c) := by
  unfold State.evict
  dsimp only
  split
  · split
    · rw [State.readLines_clean hc]
      exact State.dropLines_clean hc _
    · exact .refl s
  · exact .refl s

theorem State.cacheLoad_clean {s : State} (hc : CachesClean s) (c k : Nat) : LinesOnly s (s.cacheLoad c k) := by
  unfold State.cacheLoad
  split
  · exact .refl s
  · rw [State.readLines_clean hc]
    have hline : ∀ l, LinesOnly s { s with lines := l } := fun l => ⟨l, rfl⟩
    exact (hline _).trans (State.evict_clean ((hline _).cachesClean hc) c)

theorem State.cacheStore_clean {s : State} (hc : CachesClean s) (c k n : Nat) : LinesOnly s (s.cacheStore c k n) := by
  unfold State.cacheStore
  split
  · exact .refl s
  · have htake := State.takeLines_clean hc k n (some c)
    have hclean := htake.cachesClean hc
    simp only [State.clearError_clean hclean, ite_self]
    have hline : ∀ l, LinesOnly (s.takeLines k n (some c)) { s.takeLines k n (some c) with lines := l } := fun l => ⟨l, rfl⟩
    exact (htake.trans (hline _)).trans (State.evict_clean ((hline _).cachesClean hclean) c)

/-- What an event does to data caches without errors changes their lines alone (R61, R154, R206). -/
theorem State.cacheMeets_clean {s : State} (hc : CachesClean s) (r : Req) (p : Piece) : LinesOnly s (s.cacheMeets r p) := by
  have htake := fun k n => State.takeLines_clean hc k n none
  unfold State.cacheMeets
  cases r.op with
  | read => exact State.cacheLoad_clean hc _ _
  | write => exact State.cacheStore_clean hc _ _ _
  | festat | bankRead | bankWrite => exact .refl s
  | atomic | ldf | lde | stf | stw | feset | join | mark | sense => exact htake _ _

/-! ### Reading where there is nothing to correct (R344, R345) -/

theorem State.correctLine_clean {s : State} (hc : CachesClean s) (c : Option Nat) (k : Nat) : s.correctLine c k = s := by
  unfold State.correctLine
  split
  · exact State.correctPlace_clean hc _ _ _ _ _
  · rfl

theorem State.recoverLines_clean {s : State} (hc : CachesClean s) (k : Nat) : s.recoverLines k = s := by
  have hnone : (s.lines.filter fun l => l.num == k / 32 && !l.st.dirty && s.poison.contains (lineErr l.core (k / 8))) = [] := by
    rw [List.filter_eq_nil_iff]
    intro l _ h
    rw [Bool.and_eq_true] at h
    exact (hc l.core (k / 8)).1 (List.contains_iff_mem.1 h.2)
  unfold State.recoverLines
  rw [hnone]
  rfl

theorem unitTouches_iff (a n w : Nat) : unitTouches a n w = true ↔
    placeWord w * 8 / coded w * coded w < a + n ∧ a < placeWord w * 8 / coded w * coded w + coded w := by
  have hcode : codeBytes w = coded w := rfl
  simp only [unitTouches, hcode, Bool.and_eq_true, decide_eq_true_eq]

theorem State.correctWords_nothing {s : State} {a n : Nat} (h : NothingToCorrect s a n) : s.correctWords a n = s := by
  have hapart : ∀ w, (w ∈ s.soft ∨ w ∈ s.poison ∧ inBankClean w = true) → ¬ unitTouches a n w = true := fun w hw => by
    have := h w hw
    rw [unitTouches_iff]
    omega
  have hsoft : s.soft.filter (unitTouches a n) = [] := List.filter_eq_nil_iff.2 fun w hw => hapart w (.inl hw)
  have hbank : (s.poison.filter fun w => inBankClean w && unitTouches a n w) = [] := List.filter_eq_nil_iff.2 fun w hw e => by
    rw [Bool.and_eq_true] at e
    exact hapart w (.inr ⟨hw, e.1⟩) e.2
  unfold State.correctWords
  rw [hsoft]
  show (s.poison.filter fun w => inBankClean w && unitTouches a n w).foldl _ s = s
  rw [hbank]
  rfl

/-- Does an operation read the cells of a patch and not a word? -/
def ReqOp.senses : ReqOp → Bool
  | .sense _ _ => true
  | _ => false

/-- An event that has nothing to correct reads its word without a change. -/
theorem State.readAt_clean {s : State} {r : Req} {p : Piece} {a : Nat} (hc : CachesClean s) (h : NothingToCorrect s a p.len)
    (hop : r.op.senses = false) : s.readAt r p a = s := by
  unfold State.readAt
  split
  · rfl
  · simp only [State.recoverLines_clean hc]
    split
    · rename_i hs
      rw [hs] at hop
      exact absurd hop (by simp [ReqOp.senses])
    · rw [State.correctLine_clean hc, State.correctWords_nothing h, ite_self]

/-! ### The piece marked performed (R69) -/

/-- A piece marked performed, and its request, if it is then whole, behind the others. -/
theorem State.settle_eq (s : State) (n k : Nat) (v : Word) (tick : Nat) :
    (s.modReq n fun x => x.done k v tick).settleOrder n = { s with fabric := marked s n k v tick } := by
  unfold State.settleOrder State.req? marked
  simp only [State.modReq, Req.done, Req.performed]
  generalize List.map _ s.fabric = l
  cases l.find? (·.id == n) with
  | none => rfl
  | some q => by_cases h : q.pieces.all (·.done) = true <;> simp only [h, if_true, Bool.false_eq_true, if_false]

theorem marked_congr {s t : State} (h : t.fabric = s.fabric) (n k : Nat) (v : Word) (tick : Nat) :
    marked t n k v tick = marked s n k v tick := by
  unfold marked
  rw [h]

/-- A request that waits once a piece is marked waited before: the marked one does not (R31). -/
theorem mem_marked_parked {s : State} {n k : Nat} {v : Word} {tick : Nat} {q : Req} (h : q ∈ marked s n k v tick)
    (hq : q.parked = true) : q ∈ s.fabric := by
  have hmap : ∀ x ∈ s.fabric.map fun x => if x.id = n then
      { x with parked := false, pieces := x.pieces.modify k fun p => { p with done := true, val := v, tick := tick } } else x,
      x.parked = true → x ∈ s.fabric := fun x hx hpark => by
    obtain ⟨y, hy, rfl⟩ := List.mem_map.1 hx
    split at hpark
    · cases hpark
    · rename_i hid
      rw [if_neg hid]
      exact hy
  refine hmap q ?_ hq
  unfold marked at h
  dsimp only at h
  split at h
  · rename_i r hr
    split at h
    · rcases List.mem_append.1 h with h | h
      · exact (List.mem_filter.1 h).1
      · obtain rfl := List.mem_singleton.1 h
        exact List.mem_of_find?_eq_some hr
    · exact h
  · exact h

/-! ### The saddlebag of a core that is shadowed-off (R269) -/

theorem State.intoShadow_only (s : State) (k n : Nat) : CoresOnly s (s.intoShadow k n) := by
  unfold State.intoShadow
  split
  · split
    · split
      · exact s.setCore_only _
      · exact .refl s
    · exact .refl s
  · exact .refl s

theorem State.intoShadow_awake {s : State} {k : Nat} (h : NotShadowed s k) (n : Nat) : s.intoShadow k n = s := by
  unfold State.intoShadow
  split
  · rename_i g l hhome
    split
    · rename_i c hcore
      rw [if_neg (by simpa using h g l c hhome hcore)]
    · rfl
  · rfl

theorem State.teamD_congr {s t : State} (h : t.teams = s.teams) (g l : Nat) : t.teamD g l = s.teamD g l := by
  unfold State.teamD State.team?
  rw [h]

theorem State.core_congr {s t : State} (h : t.cores = s.cores) (c : Nat) : t.core c = s.core c := by
  unfold State.core
  rw [h]

theorem State.mapKey_congr {s t : State} (h : t.teams = s.teams) (k : Nat) : t.mapKey k = s.mapKey k := by
  unfold State.mapKey
  simp only [State.teamD_congr h]

end Sys2Proof.Machine

namespace Sys2Proof.Claims

open Sys2Proof.Machine

theorem NotShadowed.congr {s t : State} {k : Nat} (h : NotShadowed s k) (ht : t.teams = s.teams) (hc : t.cores = s.cores) :
    NotShadowed t k := fun g l c hhome hcore => by
  rw [State.core_congr hc]
  exact h g l c hhome (by rwa [State.teamD_congr ht] at hcore)

/-! ### One event (R70) -/

theorem Arrives.chunkWrites {s : State} {r : Req} {k : Nat} {p : Piece} (h : Arrives s r k p) : s.chunkWrites = none := by
  obtain ⟨-, -, -, -, -, -, -, hchunk, -⟩ := h
  exact hchunk

theorem Arrives.cachesClean {s : State} {r : Req} {k : Nat} {p : Piece} (h : Arrives s r k p) : CachesClean s := by
  obtain ⟨-, -, -, -, -, -, hclean, -, -⟩ := h
  exact hclean

/-- What arrives has nothing to correct in its word. -/
theorem Arrives.readAt {s : State} {r : Req} {k : Nat} {p : Piece} (h : Arrives s r k p) (hop : r.op.senses = false) :
    s.readAt r p (s.mapKey p.key) = s := by
  obtain ⟨-, -, -, -, -, hcorrect, hclean, -, -⟩ := h
  exact State.readAt_clean hclean hcorrect hop

/-- An event whose word allows it, and of which nothing is corrected: the data caches meet it, its operation acts, what it stored is put
into the saddlebag, and the piece is marked. No waiter is served, since none waits for the word. -/
theorem Arrives.performs {s : State} {r : Req} {k : Nat} {p : Piece} (h : Arrives s r k p)
    (hread : s.readAt r p (s.mapKey p.key) = s) (hfe : feMeets r.op (s.isFull (s.mapKey p.key)) = true) {w : State} {v : Word} {tick : Nat}
    (hw : (s.cacheMeets r p).performOp r k p (s.mapKey p.key) = (w, v, tick)) (hfabric : w.fabric = s.fabric) (hteams : w.teams = s.teams) :
    exec (.performAtHome r.id k) s = .next { w.intoShadow (s.mapKey p.key) p.len with fabric := marked s r.id k v tick } := by
  obtain ⟨hfind, hpiece, hmay, hcarve, herr, -, -, -, hwait⟩ := h
  have hshadow := w.intoShadow_only (s.mapKey p.key) p.len
  have hnow : s.performNow r k p (s.mapKey p.key) =
      { w.intoShadow (s.mapKey p.key) p.len with fabric := marked s r.id k v tick } := by
    unfold State.performNow
    simp only [hw, State.settle_eq]
    rw [marked_congr (s := s) (by rw [hshadow]; exact hfabric)]
  have hserve : ∀ n, (s.performNow r k p (s.mapKey p.key)).serveList (s.mapKey p.key) n = s.performNow r k p (s.mapKey p.key) := by
    refine State.serveList_none fun q hq hpark x hx => ?_
    rw [hnow] at hq ⊢
    rw [State.mapKey_congr (s := s) (by show (w.intoShadow _ _).teams = _; rw [hshadow]; exact hteams)]
    exact hwait q (mem_marked_parked hq hpark) hpark x hx
  show execPerformAtHome r.id k s = _
  unfold execPerformAtHome State.req?
  simp only [hfind, hpiece, hmay, if_true]
  unfold State.arrive
  simp only [hcarve, herr, hfe, hread, hserve, ite_self, Bool.false_eq_true, if_false, Bool.not_true]
  rw [hnow]

end Sys2Proof.Claims

/-! SUPPORT. What each operation makes of its word (R70), and the statement assembled from it. -/

namespace Sys2Proof.Machine

open Sys2Proof.Claims

/-! ### Values read at a home (R3, R152, R207) -/

theorem Memory.load_eq_sum (m : List Host.Cell) (a n : Nat) :
    Memory.load m a n = ((List.range n).map fun i => (Memory.get m (a + i)).toNat * 256 ^ i).sum := by
  induction n generalizing a with
  | zero => rfl
  | succ n ih =>
    have hterm : ∀ i, (Memory.get m (a + (i + 1))).toNat * 256 ^ (i + 1) = 256 * ((Memory.get m (a + 1 + i)).toNat * 256 ^ i) := fun i => by
      rw [show a + (i + 1) = a + 1 + i by omega, Nat.pow_succ]
      ring
    rw [Memory.load, ih, List.range_succ_eq_map, List.map_cons, List.map_map, List.sum_cons]
    simp only [Function.comp_def, Nat.succ_eq_add_one, hterm, List.sum_map_mul_left, Nat.add_zero, Nat.pow_zero, Nat.mul_one]

/-- Bytes read where lines of data caches have gone or come are those of memory. -/
theorem LinesOnly.loadNat {s u : State} (h : LinesOnly s u) (a n : Nat) : u.loadNat a n = bytesAt s a n := by
  obtain ⟨_, rfl⟩ := h
  exact Memory.load_eq_sum s.mem a n

theorem LinesOnly.load {s u : State} (h : LinesOnly s u) (a n : Nat) : u.load a n = BitVec.ofNat 64 (bytesAt s a n) :=
  congrArg (BitVec.ofNat 64) (h.loadNat a n)

theorem LinesOnly.isFull {s u : State} (h : LinesOnly s u) (a : Nat) : u.isFull a = s.isFull a := by
  obtain ⟨_, rfl⟩ := h
  rfl

theorem LinesOnly.bank {s u : State} (h : LinesOnly s u) (b : Nat) : u.bank b = s.bank b := by
  obtain ⟨_, rfl⟩ := h
  rfl

/-- Outside replay mode a mark operation takes the tick of the cycle (R207). -/
theorem LinesOnly.markCycle {s u : State} (h : LinesOnly s u) {g : Nat} (hoff : (s.gridD g).desc.flag 4 = false) :
    u.markCycle g = s.cycle := by
  obtain ⟨_, rfl⟩ := h
  exact if_neg (Bool.eq_false_iff.1 hoff)

theorem fadeN_eq_iterate (k e v : Nat) : fadeN k e v = (fun v => v * (256 - k) / 256)^[e] v := by
  induction e generalizing v with
  | zero => rfl
  | succ e ih => exact ih _

theorem tick_eq_tickOf (rg : Region) (c : Word) : rg.tick c = tickOf rg c := rfl

theorem tickOf_mod (rg : Region) (c : Word) : tickOf rg c % 4096 = tickOf rg c := Nat.mod_mod _ _

theorem fadedValue_tick (rg : Region) (w : Nat) (c : Word) : fadedValue w rg.k (rg.tick c) = fadedTo rg w (tickOf rg c) := by
  rw [fadedValue, fadeN_eq_iterate, tick_eq_tickOf, tickOf_mod]
  rfl

/-- The word that a mark operation stores is stamped with the tick it took (R100, R209). -/
theorem markWord_tick (v : Nat) (rg : Region) (c : Word) : markWord v (rg.tick c) = v * 2 ^ 16 + tickOf rg c * 16 := by
  rw [markWord, tick_eq_tickOf, tickOf_mod]

/-- Of two values with the same rank it does not matter which is taken. -/
theorem ite_lt_eq_ite_le {α β : Type} [LinearOrder β] {f : α → β} (hf : Function.Injective f) (x y : α) :
    (if f x < f y then x else y) = if f x ≤ f y then x else y := by
  rcases lt_trichotomy (f x) (f y) with h | h | h
  · rw [if_pos h, if_pos h.le]
  · rw [if_neg h.not_lt, if_pos h.le, hf h]
  · rw [if_neg h.not_gt, if_neg h.not_ge]

theorem atomicNew_eq (f : AtomicFn) (old b cmp : Word) : atomicNew f old b cmp = atomicResult f old b cmp := by
  cases f with
  | min =>
    simp only [atomicNew, atomicResult, BitVec.slt_iff_toInt_lt]
    exact ite_lt_eq_ite_le (fun _ _ => BitVec.eq_of_toInt_eq) old b
  | minu =>
    simp only [atomicNew, atomicResult, BitVec.lt_def]
    exact ite_lt_eq_ite_le (fun _ _ => BitVec.eq_of_toNat_eq) old b
  | max => simp only [atomicNew, atomicResult, BitVec.slt_iff_toInt_lt, ← not_lt, ite_not]
  | maxu => simp only [atomicNew, atomicResult, BitVec.lt_def, ← not_lt, ite_not]
  | _ => rfl

/-! ### `BANKPART` (R64, R356) -/

/-- A write of `BANKPART` at its bank. -/
theorem Bank.takes_write (x : Bank) (v : Word) : BankTakes x (x.write v) v := by
  have hvalue : min (bits v 3 0) (x.liveWays - 2) = min (v.toNat % 16) (16 - 4 * x.retired.length - 2) := by
    simp only [bits, Bank.liveWays, Nat.pow_zero, Nat.div_one]
    rfl
  unfold Bank.write
  simp only [hvalue]
  unfold BankTakes
  generalize min (v.toNat % 16) (16 - 4 * x.retired.length - 2) = w
  refine ⟨fun hbusy => ?_, fun hbusy heq => ?_, fun hbusy hlt => ?_, fun hbusy hlt => ?_⟩
  · rw [if_pos (Option.isSome_iff_ne_none.2 hbusy)]
  · rw [if_neg (by simp [hbusy]), if_pos heq]
  · rw [if_neg (by simp [hbusy]), if_neg hlt.ne', if_neg hlt.not_gt]
  · rw [if_neg (by simp [hbusy]), if_neg hlt.ne, if_pos hlt]
    refine ⟨rfl, fun m why => ?_⟩
    have hnew : (m, why) ∈ ((List.range (x.cur - w)).map fun i => (w + i, Withdrawal.shrink)) ↔ (w ≤ m ∧ m < x.cur) ∧ why = .shrink := by
      simp only [List.mem_map, List.mem_range, Prod.mk.injEq]
      constructor
      · rintro ⟨i, hi, rfl, rfl⟩
        exact ⟨by omega, rfl⟩
      · rintro ⟨hm, rfl⟩
        exact ⟨m - w, by omega, by omega, rfl⟩
    rw [List.mem_append, hnew, List.mem_filter]
    by_cases hm : w ≤ m ∧ m < x.cur
    · simp [hm]
    · have hout : (decide (w ≤ m) && decide (m < x.cur)) = false := by simpa using hm
      simp [hm, hout]

theorem State.bank_num (s : State) (b : Nat) : (s.bank b).num = b := by
  unfold State.bank
  cases h : s.banks.find? (·.num == b) with
  | none => rfl
  | some x => simpa using List.find?_some h

theorem Bank.write_num (x : Bank) (v : Word) : (x.write v).num = x.num := by
  unfold Bank.write
  dsimp only
  split
  · rfl
  · split <;> rfl

/-! ### What an operation leaves of its word -/

/-- An operation has stored `new`, if anything, in the bytes from `a` and has set the bit of their word, if any; nothing else differs but
lines, errors gone with what was stored, and what the keep region has still to make durable (R61, R70, R85). -/
structure ActsOn (s t : State) (a len : Nat) (new : Option Nat) (fe : Option Bool) : Prop where
  stored : ∀ x, new = some x → Stored s t a len x
  unstored : new = none → t.mem = s.mem
  full : FullAfter s t a fe
  keep : isKeep a = false ∨ new = none ∧ fe = none → t.keepPending = s.keepPending ∧ t.fresh = s.fresh
  errors : new = none → t.poison = s.poison ∧ t.soft = s.soft
  poison : ∀ w, w ∈ t.poison → w ∈ s.poison
  soft : ∀ w, w ∈ t.soft → w ∈ s.soft
  frame : t = { s with
    mem := t.mem, empty := t.empty, poison := t.poison, soft := t.soft, lines := t.lines, keepPending := t.keepPending, fresh := t.fresh }

/-- An operation that only reads. -/
theorem LinesOnly.reads {s u : State} (h : LinesOnly s u) (a len : Nat) : ActsOn s u a len none none := by
  obtain ⟨l, rfl⟩ := h
  exact ⟨nofun, fun _ => rfl, fun x => by simp [State.isFull], fun _ => ⟨rfl, rfl⟩, fun _ => ⟨rfl, rfl⟩, fun _ h => h, fun _ h => h, rfl⟩

/-- A store of a thread outside a chunk: what it leaves to be made durable is of the keep region (R85). -/
theorem State.homeStore_eq {u : State} (hchunk : u.chunkWrites = none) (who : Tid) (epoch : Nat) (ea : Word) (a n v : Nat) :
    ∃ pending fresh, u.homeStore who epoch ea a n v = { u.store a n v with keepPending := pending, fresh := fresh } ∧
      (isKeep a = false → pending = u.keepPending ∧ fresh = u.fresh) := by
  have hnone : (u.chunkWrites.map fun l => (a, n) :: l) = (u.store a n v).chunkWrites := by
    rw [hchunk]
    exact hchunk.symm
  unfold State.homeStore
  simp only [hnone]
  split
  · rename_i hkeep
    exact ⟨_, _, rfl, fun h => absurd hkeep (by simp [h])⟩
  · exact ⟨_, _, rfl, fun _ => ⟨rfl, rfl⟩⟩

theorem State.homeFull_eq (u : State) (who : Tid) (epoch : Nat) (ea : Word) (a : Nat) (v : Bool) :
    ∃ pending fresh, u.homeFull who epoch ea a v = { u.setFull a v with keepPending := pending, fresh := fresh } ∧
      (isKeep a = false → pending = u.keepPending ∧ fresh = u.fresh) := by
  unfold State.homeFull
  dsimp only
  split
  · rename_i hkeep
    exact ⟨_, _, rfl, fun h => absurd hkeep (by simp [h])⟩
  · exact ⟨_, _, rfl, fun _ => ⟨rfl, rfl⟩⟩

/-- An operation that stores, outside a chunk. -/
theorem LinesOnly.stores {s u : State} (h : LinesOnly s u) (hchunk : s.chunkWrites = none) (who : Tid) (epoch : Nat) (ea : Word)
    (a n v : Nat) : ActsOn s (u.homeStore who epoch ea a n v) a n (some v) none := by
  obtain ⟨l, rfl⟩ := h
  obtain ⟨pending, fresh, heq, hkeep⟩ := State.homeStore_eq (u := { s with lines := l }) hchunk who epoch ea a n v
  rw [heq]
  refine ⟨fun x hx hwf y => ?_, nofun, fun x => by simp [State.isFull, State.store, State.clearWords], fun h => ?_, nofun,
    fun w hw => (List.mem_filter.1 hw).1, fun w hw => (List.mem_filter.1 hw).1, rfl⟩
  · obtain rfl := Option.some.inj hx
    exact s.byte_store a n v y hwf
  · rcases h with h | ⟨h, -⟩
    · exact hkeep h
    · exact nomatch h

/-- One that sets or clears the bit of its word besides. -/
theorem ActsOn.setsFull {s u : State} {a len : Nat} {new : Option Nat} (h : ActsOn s u a len new none) (who : Tid) (epoch : Nat)
    (ea : Word) (v : Bool) : ActsOn s (u.homeFull who epoch ea a v) a len new (some v) := by
  obtain ⟨pending, fresh, heq, hkeep⟩ := u.homeFull_eq who epoch ea a v
  rw [heq]
  refine ⟨h.stored, h.unstored, fun x => ?_, fun hcond => ?_, h.errors, h.poison, h.soft, ?_⟩
  · have hbefore : u.isFull x = s.isFull x := by rw [h.full x, Option.getD_none, ite_self]
    refine (State.isFull_setFull u a x v).trans ?_
    rw [hbefore, Option.getD_some]
  · rcases hcond with hcond | ⟨-, hcond⟩
    · obtain ⟨hpending, hfresh⟩ := hkeep hcond
      obtain ⟨hp, hf⟩ := h.keep (.inl hcond)
      exact ⟨hpending.trans hp, hfresh.trans hf⟩
    · exact nomatch hcond
  · unfold State.setFull
    rw [h.frame]

end Sys2Proof.Machine

namespace Sys2Proof.Claims

open Sys2Proof.Machine

/-- An event is performed as its operation acts on its word. -/
theorem Arrives.performed {s : State} {r : Req} {k : Nat} {p : Piece} (h : Arrives s r k p) (hop : r.op.senses = false)
    (hfe : feMeets r.op (s.isFull (s.mapKey p.key)) = true) {len : Nat} {new : Option Nat} {fe : Option Bool} {v : Word} {tick : Nat}
    (hacts : ∀ u, LinesOnly s u → ∃ w, u.performOp r k p (s.mapKey p.key) = (w, v, tick) ∧ ActsOn s w (s.mapKey p.key) len new fe) :
    Performed s r.id k (s.mapKey p.key) len new fe v tick := by
  obtain ⟨w, hw, hact⟩ := hacts _ (State.cacheMeets_clean h.cachesClean r p)
  have hframe := hact.frame
  have hteams : w.teams = s.teams := by rw [hframe]
  have hcores : w.cores = s.cores := by rw [hframe]
  have hshadow := w.intoShadow_only (s.mapKey p.key) p.len
  refine ⟨_, h.performs (h.readAt hop) hfe hw (by rw [hframe]) hteams, ?_⟩
  have hawake : NotShadowed s (s.mapKey p.key) → (w.intoShadow (s.mapKey p.key) p.len).cores = s.cores := fun hn => by
    rw [State.intoShadow_awake (hn.congr hteams hcores), hcores]
  generalize w.intoShadow (s.mapKey p.key) p.len = x at *
  rw [hshadow]
  refine ⟨?_, hact.full, hact.keep, hawake, hact.errors, hact.poison, hact.soft, ?_⟩
  · cases new with
    | none => exact hact.unstored rfl
    | some y => exact hact.stored y rfl
  · rw [hframe]

section

variable {s : State} {r : Req} {k : Nat} {p : Piece} (h : Arrives s r k p) (hop : r.op.senses = false)
  (hfe : feMeets r.op (s.isFull (s.mapKey p.key)) = true)

include h hop hfe

theorem Arrives.reads {len : Nat} {v : Word} {tick : Nat}
    (hacts : ∀ u, LinesOnly s u → u.performOp r k p (s.mapKey p.key) = (u, v, tick)) :
    Performed s r.id k (s.mapKey p.key) len none none v tick :=
  h.performed hop hfe fun u hu => ⟨_, hacts u hu, hu.reads _ _⟩

theorem Arrives.stores {len x : Nat} {v : Word} {tick : Nat} (hacts : ∀ u, LinesOnly s u →
      u.performOp r k p (s.mapKey p.key) = (u.homeStore r.tid r.epoch p.ea (s.mapKey p.key) len x, v, tick)) :
    Performed s r.id k (s.mapKey p.key) len (some x) none v tick :=
  h.performed hop hfe fun u hu => ⟨_, hacts u hu, hu.stores h.chunkWrites _ _ _ _ _ _⟩

theorem Arrives.setsFull {len : Nat} {b : Bool} {v : Word} {tick : Nat} (hacts : ∀ u, LinesOnly s u →
      u.performOp r k p (s.mapKey p.key) = (u.homeFull r.tid r.epoch p.ea (s.mapKey p.key) b, v, tick)) :
    Performed s r.id k (s.mapKey p.key) len none (some b) v tick :=
  h.performed hop hfe fun u hu => ⟨_, hacts u hu, (hu.reads _ _).setsFull _ _ _ _⟩

theorem Arrives.storesAndSetsFull {len x : Nat} {b : Bool} {v : Word} {tick : Nat} (hacts : ∀ u, LinesOnly s u →
      u.performOp r k p (s.mapKey p.key) =
        ((u.homeStore r.tid r.epoch p.ea (s.mapKey p.key) len x).homeFull r.tid r.epoch p.ea (s.mapKey p.key) b, v, tick)) :
    Performed s r.id k (s.mapKey p.key) len (some x) (some b) v tick :=
  h.performed hop hfe fun u hu => ⟨_, hacts u hu, (hu.stores h.chunkWrites _ _ _ _ _ _).setsFull _ _ _ _⟩

end

/-- R64, R356: a write of `BANKPART` changes its bank, and nothing else. -/
theorem Arrives.writesBank {s : State} {r : Req} {k : Nat} {p : Piece} (h : Arrives s r k p) {v : Word} (hop : r.op = .bankWrite v)
    (hn : NotShadowed s (s.mapKey p.key)) :
    let b := (p.key - 2 ^ 56) / 2 ^ 24 % 1024
    ∃ t, exec (.performAtHome r.id k) s = .next t ∧ BankTakes (s.bank b) (t.bank b) v ∧ (∀ d, d ≠ b → t.bank d = s.bank d) ∧
      t = { s with banks := t.banks, fabric := marked s r.id k 0 0 } := by
  intro b
  have hw : (s.cacheMeets r p).performOp r k p (s.mapKey p.key) = (s.setBank ((s.bank b).write v), 0, 0) := by
    simp only [State.cacheMeets, State.performOp, hop, b]
  have hexec := h.performs (h.readAt (by rw [hop]; rfl)) (by rw [hop]; rfl) hw rfl rfl
  rw [State.intoShadow_awake (hn.congr (t := s.setBank ((s.bank b).write v)) rfl rfl)] at hexec
  have hbank : ∀ d, (s.setBank ((s.bank b).write v)).bank d = if d = b then (s.bank b).write v else s.bank d := fun d => by
    rw [State.bank_setBank, Bank.write_num, State.bank_num]
  refine ⟨_, hexec, ?_, fun d hd => (hbank d).trans (if_neg hd), rfl⟩
  show BankTakes _ ((s.setBank ((s.bank b).write v)).bank b) v
  rw [hbank, if_pos rfl]
  exact Bank.takes_write _ _

end Sys2Proof.Claims

section

open Sys2Proof.Machine Sys2Proof.Claims

/-- Settles O28: each operation acts on its word alone, from a machine in which at most lines of data caches have gone or come. -/
theorem homesPerformEachOperation : Obligations.HomesPerformEachOperation := by
  intro s r k p h
  dsimp only
  refine ⟨fun hop => ?read, fun hop => ?write, fun f cmp hop => ?atomic, fun hop hfull => ?ldf, fun hop hfull => ?lde,
    fun hop hfull => ?stf, fun hop hempty => ?stw, fun v hop => ?feset, fun hop => ?festat, fun hop => ?join,
    fun f amount rg hop hoff => ?mark, fun hop => ?bankRead, fun v hop hn => h.writesBank hop hn⟩
  case read =>
    refine h.reads (by rw [hop]; rfl) (by rw [hop]; rfl) fun u hu => ?_
    simp only [State.performOp, hop, hu.load]
  case write =>
    refine h.stores (by rw [hop]; rfl) (by rw [hop]; rfl) fun u hu => ?_
    simp only [State.performOp, hop]
  case atomic =>
    refine h.stores (by rw [hop]; rfl) (by rw [hop]; rfl) fun u hu => ?_
    simp only [State.performOp, hop, hu.load, atomicNew_eq]
  case ldf =>
    refine h.reads (by rw [hop]; rfl) (by rw [hop]; exact hfull) fun u hu => ?_
    simp only [State.performOp, hop, hu.load]
  case lde =>
    refine h.setsFull (by rw [hop]; rfl) (by rw [hop]; exact hfull) fun u hu => ?_
    simp only [State.performOp, hop, hu.load]
  case stf =>
    refine h.stores (by rw [hop]; rfl) (by rw [hop]; exact hfull) fun u hu => ?_
    simp only [State.performOp, hop]
  case stw =>
    refine h.storesAndSetsFull (by rw [hop]; rfl) (by rw [hop, feMeets, hempty]; rfl) fun u hu => ?_
    simp only [State.performOp, hop]
  case feset =>
    refine h.setsFull (by rw [hop]; rfl) (by rw [hop]; rfl) fun u hu => ?_
    simp only [State.performOp, hop]
  case festat =>
    refine h.reads (by rw [hop]; rfl) (by rw [hop]; rfl) fun u hu => ?_
    simp only [State.performOp, hop, hu.isFull]
  case join =>
    refine h.stores (by rw [hop]; rfl) (by rw [hop]; rfl) fun u hu => ?_
    simp only [State.performOp, hop, hu.load]
  case mark =>
    cases f with
    | rd =>
      refine h.reads (by rw [hop]; rfl) (by rw [hop]; rfl) fun u hu => ?_
      simp only [State.performOp, hop, hu.loadNat, hu.markCycle hoff, fadedValue_tick]
      rfl
    | depAdd | depMax | clr =>
      refine h.stores (by rw [hop]; rfl) (by rw [hop]; rfl) fun u hu => ?_
      simp only [State.performOp, hop, hu.loadNat, hu.markCycle hoff, fadedValue_tick, markWord_tick, markNew, Nat.zero_mul, Nat.zero_add]
      rfl
  case bankRead =>
    refine h.reads (by rw [hop]; rfl) (by rw [hop]; rfl) fun u hu => ?_
    simp only [State.performOp, hop, hu.bank]

end

/-! SUPPORT. An instruction that completes by writing one scalar register, or that ends in a fault: what of `Gives`, `WritesReg` and
`Faults` its meaning has to show (R108, R309, R315). -/

namespace Sys2Proof.Claims
open Sys2Proof.Machine

/-! ### One register written (R108) -/

/-- A register written, and the PC set beside it. -/
theorem writesReg_setPc (s : State) (d : Reg) (v pc : Word) :
    WritesReg s { s with cur := { s.cur.setReg d v with pc := pc } } d v pc := by
  refine ⟨fun r => s.setReg_reg d r v, ?_⟩
  have h : s.cur.setReg d v = { s.cur with regs := (s.cur.setReg d v).regs } := congrArg State.cur (s.setReg_frame d v)
  rw [h]

theorem writesReg_setReg (s : State) (d : Reg) (v : Word) : WritesReg s (s.setReg d v) d v s.cur.pc :=
  ⟨fun r => s.setReg_reg d r v, s.setReg_frame d v⟩

theorem writesReg_advance (s : State) (d : Reg) (v : Word) : WritesReg s (s.setReg d v).advance d v (s.cur.pc + 8) := by
  refine ⟨fun r => (State.advance_reg _ r).trans (s.setReg_reg d r v), ?_⟩
  rw [s.setReg_frame d v]; rfl

/-- An arithmetic-slot instruction whose meaning is one register write. -/
theorem gives_of_setReg {i : Instr} {s : State} {d : Reg} {v : Word} {P : Word → Prop} (hexec : exec i s = .next (s.setReg d v))
    (hv : P v) : Gives i s d P :=
  ⟨_, v, _, hexec, hv, writesReg_setReg s d v⟩

/-- The same of a control-slot or long instruction. -/
theorem givesNext_of_setReg {i : Instr} {s : State} {d : Reg} {v : Word} {P : Word → Prop}
    (hexec : exec i s = .next (s.setReg d v).advance) (hv : P v) : GivesNext i s d P :=
  ⟨_, v, hexec, hv, writesReg_advance s d v⟩

/-! ### Faults (R309, R315) -/

/-- A fault recorded in a grid: kept and counted unless an earlier cycle has stopped the grid's threads. -/
theorem addFault_eq (g : Grid) (r : FaultRec) : g.addFault r =
    if ∀ f ∈ g.faults, f.cycle = r.cycle then { g with faults := g.faults ++ [r], nfault := min (g.nfault + 1) 65535 } else g := by
  have hany : (g.faults.any fun f => f.cycle != r.cycle) = true ↔ ¬ ∀ f ∈ g.faults, f.cycle = r.cycle := by simp
  have hcount : (if g.nfault < 65535 then g.nfault + 1 else 65535) = min (g.nfault + 1) 65535 := by split <;> omega
  unfold Grid.addFault
  rw [hcount]
  by_cases h : ∀ f ∈ g.faults, f.cycle = r.cycle
  · rw [if_neg fun e => hany.1 e h, if_pos h]
  · rw [if_pos (hany.2 h), if_neg h]

/-- A fault of the issuing thread of a cause other than 0x1A, with STATUS FAULT. -/
theorem faults_raiseFault (s : State) {cause : Nat} (detail : Nat) (fval : Word) (hcause : cause ≠ 0x1A) :
    Faults s (s.raiseFault cause detail fval) 1 cause detail fval := by
  unfold Faults
  rw [s.raiseFault_eq cause detail fval hcause]
  congr 1
  refine List.map_congr_left fun g _ => ?_
  rw [addFault_eq]
  by_cases hg : g.num = s.cur.id.grid <;> simp [hg]

end Sys2Proof.Claims

/-! SUPPORT. Branches and jumps (R109, R143–R145): where the PC goes. -/

namespace Sys2Proof.Machine

/-- A word moved by a sign-extended number. -/
theorem add_signExtend {n : Nat} (a : Word) (i : BitVec n) : a + i.signExtend 64 = BitVec.ofInt 64 (a.toInt + i.toInt) := by
  rw [BitVec.ofInt_add, BitVec.ofInt_toInt]; rfl

/-- The PC moved by a number of bundles (R109). -/
theorem pcRel_eq {n : Nat} (pc : Word) (o : BitVec n) : pcRel pc o = BitVec.ofInt 64 (pc.toInt + 8 * o.toInt) := by
  rw [BitVec.ofInt_add, BitVec.ofInt_mul, BitVec.ofInt_toInt]; rfl

theorem pc_add_eight (pc : Word) : pc + 8 = BitVec.ofInt 64 (pc.toInt + 8) := by
  rw [BitVec.ofInt_add, BitVec.ofInt_toInt]; rfl

/-- Where a branch goes, and nothing else (R143). -/
theorem State.branch_eq (s : State) {t : Bool} {P : Prop} [Decidable P] (o : BitVec 17) (h : t = true ↔ P) :
    s.branch t o = { s with cur := { s.cur with pc := BitVec.ofInt 64 (s.cur.pc.toInt + if P then 8 * o.toInt else 8) } } := by
  unfold State.branch
  by_cases hP : P
  · rw [if_pos (h.2 hP), if_pos hP, pcRel_eq]
  · rw [if_neg (fun e => hP (h.1 e)), if_neg hP, ← pc_add_eight]; rfl

theorem slt_iff (a b : Word) : a.slt b = true ↔ a.toInt < b.toInt := by
  rw [BitVec.slt_eq_decide, decide_eq_true_eq]

theorem not_slt_iff (a b : Word) : (!a.slt b) = true ↔ b.toInt ≤ a.toInt := by
  rw [Bool.not_eq_true', ← Bool.not_eq_true, slt_iff, not_lt]

theorem ult_iff (a b : Word) : a.ult b = true ↔ a.toNat < b.toNat := by
  rw [BitVec.ult_eq_decide, decide_eq_true_eq]

theorem not_ult_iff (a b : Word) : (!a.ult b) = true ↔ b.toNat ≤ a.toNat := by
  rw [Bool.not_eq_true', ← Bool.not_eq_true, ult_iff, not_lt]

/-- `jr` to a multiple of 8 (R144). -/
theorem execJr_aligned {d a : Reg} {i : BitVec 13} {s : State}
    (h : (BitVec.ofInt 64 ((s.reg a).toInt + i.toInt)).toNat % 8 = 0) : exec (.jr d a i) s =
      .next { s with cur := { s.cur.setReg d (s.cur.pc + 8) with pc := BitVec.ofInt 64 ((s.reg a).toInt + i.toInt) } } := by
  rw [← add_signExtend] at h ⊢
  have hbits : bits (s.reg a + i.signExtend 64) 2 0 = 0 := by simpa [bits] using h
  exact if_neg (not_not_intro hbits)

/-- `jr` to any other target (R145, R330). -/
theorem execJr_misaligned {d a : Reg} {i : BitVec 13} {s : State}
    (h : (BitVec.ofInt 64 ((s.reg a).toInt + i.toInt)).toNat % 8 ≠ 0) : exec (.jr d a i) s =
      .next (s.raiseFault 0x12 0x30 (BitVec.ofInt 64 ((s.reg a).toInt + i.toInt))) := by
  rw [← add_signExtend] at h ⊢
  have hbits : bits (s.reg a + i.signExtend 64) 2 0 ≠ 0 := by simpa [bits] using h
  exact if_pos hbits

end Sys2Proof.Machine

namespace Sys2Proof.Claims
open Sys2Proof.Machine

/-- R143: each branch by the comparison that decides it. -/
theorem branchesGoWhereTheirConditionSays : BranchesGoWhereTheirConditionSays := by
  intro a b o s go
  have goes : ∀ {i : Instr} {t : Bool} {P : Prop} [Decidable P], exec i s = .next (s.branch t o) → (t = true ↔ P) → go i P :=
    fun hexec h => hexec.trans (congrArg _ (s.branch_eq o h))
  exact ⟨goes rfl beq_iff_eq, goes rfl bne_iff_ne, goes rfl (slt_iff _ _), goes rfl (not_slt_iff _ _), goes rfl (ult_iff _ _),
    goes rfl (not_ult_iff _ _)⟩

/-- R144: the link and the target of each jump; a misaligned target of `jr` is a fault. -/
theorem jumpsLinkAndGo : JumpsLinkAndGo := by
  intro d a o i s target
  have link : BitVec.ofNat 64 (s.cur.pc.toNat + 8) = s.cur.pc + 8 := by rw [BitVec.ofNat_add, BitVec.ofNat_toNat, BitVec.setWidth_eq]; rfl
  rw [link, ← pcRel_eq]
  exact ⟨⟨_, rfl, writesReg_setPc s d _ _⟩, fun h => ⟨_, execJr_aligned h, writesReg_setPc s d _ _⟩,
    fun h => ⟨_, execJr_misaligned h, faults_raiseFault s 0x30 target (by decide)⟩⟩

end Sys2Proof.Claims

section
open Sys2Proof.Claims

/-- Settles O3: a branch is decided by its comparison, a jump by whether its target is a multiple of 8. -/
theorem branchesAndJumps : Obligations.BranchesAndJumps := ⟨branchesGoWhereTheirConditionSays, jumpsLinkAndGo⟩

end

/-! SUPPORT. Bit fields (R130) bit by bit, select and immediates (R131, R132). -/

namespace Sys2Proof.Claims
open Sys2Proof.Machine

/-! ### The clipped field (R130) -/

theorem clipWidth_eq (o w : BitVec 7) : clipWidth o w = clipped o w := rfl

/-- A field that is not empty lies in the register. -/
theorem clipped_fits {o w : BitVec 7} (h : 0 < clipped o w) : o.toNat + clipped o w ≤ 64 := by
  unfold clipped at *
  split at h
  · rw [if_pos ‹_›]; omega
  · omega

/-- `bextu`: the field's bits, and 0 above them. -/
theorem getLsbD_bextuOp (a : Word) (o w : BitVec 7) {k : Nat} (hk : k < 64) :
    (bextuOp a o w).getLsbD k = (decide (k < clipped o w) && a.getLsbD (o.toNat + k)) := by
  unfold bextuOp
  rw [clipWidth_eq]
  by_cases hempty : clipped o w = 0
  · simp [hempty]
  · rw [if_neg hempty, BitVec.getLsbD_ofNat, Nat.testBit_mod_two_pow, Nat.testBit_div_two_pow, Nat.add_comm k,
      BitVec.testBit_toNat, decide_eq_true hk, Bool.true_and]

/-- `bext`: the field's bits, and its top bit above them. -/
theorem getLsbD_bextOp (a : Word) (o w : BitVec 7) {k : Nat} (hk : k < 64) :
    (bextOp a o w).getLsbD k = (decide (0 < clipped o w) && fieldBit a o w k) := by
  unfold bextOp
  rw [clipWidth_eq]
  by_cases hempty : clipped o w = 0
  · simp [hempty]
  have hpos : 0 < clipped o w := Nat.pos_of_ne_zero hempty
  have hfits := clipped_fits hpos
  -- the field stands at the top of the register before it is shifted down
  have placed : ∀ n, n < 64 → 64 - clipped o w ≤ n →
      ((a >>> o.toNat) <<< (64 - clipped o w)).getLsbD n = a.getLsbD (o.toNat + (n - (64 - clipped o w))) := by
    intro n hn hlow
    simp [hn, Nat.not_lt.2 hlow]
  rw [if_neg hempty, BitVec.getLsbD_sshiftRight, BitVec.msb_eq_getLsbD_last, placed (64 - 1) (by omega) (by omega),
    decide_eq_true hpos, decide_eq_false (Nat.not_le.2 hk), fieldBit, Bool.not_false, Bool.true_and, Bool.true_and]
  by_cases hin : 64 - clipped o w + k < 64
  · rw [if_pos hin, placed (64 - clipped o w + k) hin (by omega), Nat.add_sub_cancel_left, Nat.min_eq_left (by omega)]
  · rw [if_neg hin, Nat.min_eq_right (by omega)]
    congr 2; omega

/-- `bins`: the field replaced, every other bit of the destination kept. -/
theorem getLsbD_binsOp (d a : Word) (o w : BitVec 7) {k : Nat} (hk : k < 64) : (binsOp d a o w).getLsbD k =
    if o.toNat ≤ k ∧ k < o.toNat + clipped o w then a.getLsbD (k - o.toNat) else d.getLsbD k := by
  unfold binsOp
  rw [clipWidth_eq]
  by_cases hempty : clipped o w = 0
  · rw [if_pos hempty, if_neg (by omega)]
  have mask : (BitVec.ofNat 64 ((2 ^ clipped o w - 1) * 2 ^ o.toNat)).getLsbD k =
      decide (o.toNat ≤ k ∧ k < o.toNat + clipped o w) := by
    rw [BitVec.getLsbD_ofNat, Nat.testBit_mul_two_pow, Nat.testBit_two_pow_sub_one, decide_eq_true hk, Bool.true_and, ← Bool.decide_and]
    congr 1
    exact propext ⟨fun h => ⟨h.1, by omega⟩, fun h => ⟨h.1, by omega⟩⟩
  rw [if_neg hempty, BitVec.getLsbD_or, BitVec.getLsbD_and, BitVec.getLsbD_and, BitVec.getLsbD_not, mask, BitVec.getLsbD_shiftLeft,
    decide_eq_true hk]
  by_cases hin : o.toNat ≤ k ∧ k < o.toNat + clipped o w
  · simp [hin, Nat.not_lt.2 hin.1]
  · simp [hin]

theorem bitFieldsAreClipped : BitFieldsAreClipped := fun _ _ o w _ =>
  ⟨gives_of_setReg rfl fun _ hk => getLsbD_bextuOp _ o w hk, gives_of_setReg rfl fun _ hk => getLsbD_bextOp _ o w hk,
    gives_of_setReg rfl fun _ hk => getLsbD_binsOp _ _ o w hk⟩

/-! ### Select and immediates (R131, R132, R251) -/

theorem toNat_select (a b c : Word) : (if a != 0 then b else c).toNat = if a.toNat ≠ 0 then b.toNat else c.toNat := by
  have hzero : (a != 0) = true ↔ a.toNat ≠ 0 := by rw [bne_iff_ne, ne_eq, ← BitVec.toNat_inj]; rfl
  by_cases h : a.toNat ≠ 0
  · rw [if_pos (hzero.2 h), if_pos h]
  · rw [if_neg fun e => h (hzero.1 e), if_neg h]

/-- Bits 63:32 from an immediate, bits 31:0 kept (R132). -/
theorem toNat_lihWord (j : BitVec 32) (v : Word) :
    (j ++ v.setWidth 32 : BitVec (32 + 32)).toNat = j.toNat * 2 ^ 32 + v.toNat % 2 ^ 32 := by
  rw [BitVec.toNat_append, BitVec.toNat_setWidth, Nat.shiftLeft_eq, Nat.mul_comm,
    Nat.two_pow_add_eq_or_of_lt (Nat.mod_lt _ (by decide))]

theorem selectAndImmediates : SelectAndImmediates := fun _ _ _ _ i j s =>
  ⟨givesNext_of_setReg rfl (toNat_select _ _ _), givesNext_of_setReg rfl (BitVec.toInt_signExtend_of_le (by decide)),
    givesNext_of_setReg rfl (toNat_lihWord j _), ⟨_, rfl, rfl⟩, ⟨s, rfl, rfl⟩⟩

end Sys2Proof.Claims

section
open Sys2Proof.Claims

/-- Settles O2: each field operation bit by bit over the clipped field. -/
theorem bitFieldsSelectAndImmediates : Obligations.BitFieldsSelectAndImmediates := ⟨bitFieldsAreClipped, selectAndImmediates⟩

end

/-! SUPPORT. Integer arithmetic over words (R128, R129): each result as a number, or bit by bit. -/

namespace Sys2Proof.Machine

/-! ### Sums and products (R128) -/

theorem sub_eq_ofInt (a b : Word) : a - b = BitVec.ofInt 64 (a.toInt - b.toInt) := by
  rw [Int.sub_eq_add_neg, BitVec.ofInt_add, BitVec.ofInt_neg, BitVec.ofInt_toInt, BitVec.ofInt_toInt, BitVec.sub_eq_add_neg]

theorem mul_eq_ofNat (a b : Word) : a * b = BitVec.ofNat 64 (a.toNat * b.toNat) := by
  simp [BitVec.ofNat_mul]

/-- The high half of a signed product is a word. -/
theorem toInt_mulHigh (a b : Word) : (BitVec.ofInt 64 (a.toInt * b.toInt / 2 ^ 64)).toInt = a.toInt * b.toInt / 2 ^ 64 := by
  have habs : ∀ x : Word, |x.toInt| ≤ 2 ^ 63 := fun x => abs_le.2 ⟨x.le_toInt, x.toInt_lt.le⟩
  have hprod : |a.toInt * b.toInt| ≤ 2 ^ 126 := by
    rw [abs_mul]
    exact (mul_le_mul (habs a) (habs b) (abs_nonneg _) (by decide)).trans (by decide)
  obtain ⟨hlow, hhigh⟩ := abs_le.1 hprod
  exact BitVec.toInt_ofInt_eq_self (by decide) (by omega) (by omega)

/-- So is that of an unsigned one. -/
theorem toNat_mulHigh (a b : Word) : (BitVec.ofNat 64 (a.toNat * b.toNat / 2 ^ 64)).toNat = a.toNat * b.toNat / 2 ^ 64 := by
  rw [BitVec.toNat_ofNat, Nat.mod_eq_of_lt]
  exact Nat.div_lt_of_lt_mul (Nat.mul_lt_mul'' a.isLt b.isLt)

/-! ### Shifts (R128) -/

theorem shiftLeft_eq_ofNat (a : Word) (n : Nat) : a <<< n = BitVec.ofNat 64 (a.toNat * 2 ^ n) := by
  apply BitVec.eq_of_toNat_eq
  rw [BitVec.toNat_shiftLeft, Nat.shiftLeft_eq, BitVec.toNat_ofNat]

theorem toNat_shiftRight (a : Word) (n : Nat) : (a >>> n).toNat = a.toNat / 2 ^ n := by
  rw [BitVec.toNat_ushiftRight, Nat.shiftRight_eq_div_pow]

theorem toInt_shiftRight (a : Word) (n : Nat) : (a.sshiftRight n).toInt = a.toInt / 2 ^ n := by
  rw [BitVec.toInt_sshiftRight, Int.shiftRight_eq_div_pow]; push_cast; rfl

/-- The amount of a shift by a register is its bits 5:0. -/
theorem toNat_shiftAmount (b : Word) : (b.setWidth 6).toNat = b.toNat % 64 := BitVec.toNat_setWidth 6 b

/-! ### Comparisons (R128) -/

theorem toNat_boolWord {t : Bool} {P : Prop} [Decidable P] (h : t = true ↔ P) : (boolWord t).toNat = if P then 1 else 0 := by
  unfold boolWord
  by_cases hP : P
  · rw [if_pos (h.2 hP), if_pos hP]; rfl
  · rw [if_neg fun e => hP (h.1 e), if_neg hP]; rfl

theorem toInt_min (a b : Word) : (if b.slt a then b else a).toInt = min a.toInt b.toInt := by
  by_cases h : b.toInt < a.toInt
  · rw [if_pos ((slt_iff b a).2 h), min_eq_right h.le]
  · rw [if_neg fun e => h ((slt_iff b a).1 e), min_eq_left (not_lt.1 h)]

theorem toInt_max (a b : Word) : (if a.slt b then b else a).toInt = max a.toInt b.toInt := by
  by_cases h : a.toInt < b.toInt
  · rw [if_pos ((slt_iff a b).2 h), max_eq_right h.le]
  · rw [if_neg fun e => h ((slt_iff a b).1 e), max_eq_left (not_lt.1 h)]

theorem toNat_min (a b : Word) : (if b.ult a then b else a).toNat = min a.toNat b.toNat := by
  by_cases h : b.toNat < a.toNat
  · rw [if_pos ((ult_iff b a).2 h), min_eq_right h.le]
  · rw [if_neg fun e => h ((ult_iff b a).1 e), min_eq_left (not_lt.1 h)]

theorem toNat_max (a b : Word) : (if a.ult b then b else a).toNat = max a.toNat b.toNat := by
  by_cases h : a.toNat < b.toNat
  · rw [if_pos ((ult_iff a b).2 h), max_eq_right h.le]
  · rw [if_neg fun e => h ((ult_iff a b).1 e), max_eq_left (not_lt.1 h)]

/-! ### Counts and the byte swap (R128) -/

/-- The leading zeros of the low `n` bits: no more than `n`, zeros that far down, and then a one. -/
theorem clzBits_spec (x : Word) (n : Nat) : clzBits x n ≤ n ∧ (∀ k, n - clzBits x n ≤ k → k < n → x.getLsbD k = false) ∧
    (clzBits x n < n → x.getLsbD (n - 1 - clzBits x n) = true) := by
  induction n with
  | zero => exact ⟨Nat.le_refl 0, fun k _ h => absurd h (Nat.not_lt_zero k), fun h => absurd h (Nat.not_lt_zero _)⟩
  | succ n ih =>
    obtain ⟨hle, hzero, hone⟩ := ih
    unfold clzBits
    by_cases htop : x.getLsbD n = true
    · rw [if_pos htop]
      exact ⟨Nat.zero_le _, fun k hlow hk => by omega, fun _ => htop⟩
    · rw [if_neg htop]
      refine ⟨by omega, fun k hlow hk => ?_, fun h => ?_⟩
      · rcases Nat.lt_succ_iff_lt_or_eq.1 hk with hk | rfl
        · exact hzero k (by omega) hk
        · exact Bool.eq_false_iff.2 htop
      · rw [show n + 1 - 1 - (1 + clzBits x n) = n - 1 - clzBits x n by omega]
        exact hone (by omega)

/-- The trailing zeros of `n` bits from bit `i` on, likewise. -/
theorem ctzBits_spec (x : Word) (i n : Nat) : ctzBits x i n ≤ n ∧ (∀ k < ctzBits x i n, x.getLsbD (i + k) = false) ∧
    (ctzBits x i n < n → x.getLsbD (i + ctzBits x i n) = true) := by
  induction n generalizing i with
  | zero => exact ⟨Nat.le_refl 0, fun k h => absurd h (Nat.not_lt_zero k), fun h => absurd h (Nat.not_lt_zero _)⟩
  | succ n ih =>
    obtain ⟨hle, hzero, hone⟩ := ih (i + 1)
    unfold ctzBits
    by_cases hlow : x.getLsbD i = true
    · rw [if_pos hlow]
      exact ⟨Nat.zero_le _, fun k hk => absurd hk (Nat.not_lt_zero k), fun _ => hlow⟩
    · rw [if_neg hlow]
      refine ⟨by omega, fun k hk => ?_, fun h => ?_⟩
      · cases k with
        | zero => exact Bool.eq_false_iff.2 hlow
        | succ k => rw [show i + (k + 1) = i + 1 + k by omega]; exact hzero k (by omega)
      · rw [show i + (1 + ctzBits x (i + 1) n) = i + 1 + ctzBits x (i + 1) n by omega]
        exact hone (by omega)

theorem popBits_eq (x : Word) (n : Nat) : popBits x n = ((List.range n).filter fun k => x.getLsbD k).length := by
  induction n with
  | zero => rfl
  | succ n ih =>
    rw [popBits, ih, List.range_succ, List.filter_append, List.length_append, Nat.add_comm]
    by_cases h : x.getLsbD n = true <;> simp [h]

theorem popBits_le (x : Word) (n : Nat) : popBits x n ≤ n := by
  rw [popBits_eq]
  exact (List.length_filter_le _ _).trans_eq (List.length_range)

theorem toNat_ofNat_count {n : Nat} (h : n ≤ 64) : (BitVec.ofNat 64 n).toNat = n := by
  rw [BitVec.toNat_ofNat]; omega

/-- The zero word is the one all of whose bits are 0. -/
theorem eq_zero_of_bits {x : Word} (h : ∀ k < 64, x.getLsbD k = false) : x = 0 :=
  BitVec.eq_of_getLsbD_eq fun k hk => by rw [h k hk]; simp

/-- `clz` (R128): 64 of 0, and else the place of the highest one, counted from above. -/
theorem clz_spec (x : Word) : if x = 0 then clzBits x 64 = 64 else
    clzBits x 64 < 64 ∧ x.getLsbD (63 - clzBits x 64) = true ∧ ∀ k, 63 - clzBits x 64 < k → x.getLsbD k = false := by
  obtain ⟨hle, hzero, hone⟩ := clzBits_spec x 64
  by_cases hx : x = 0
  · rw [if_pos hx]
    by_contra hne
    exact absurd (hone (by omega)) (by simp [hx])
  · have hlt : clzBits x 64 < 64 := lt_of_le_of_ne hle fun e => hx (eq_zero_of_bits fun k hk => hzero k (by omega) hk)
    rw [if_neg hx]
    refine ⟨hlt, hone hlt, fun k hk => ?_⟩
    by_cases hin : k < 64
    · exact hzero k (by omega) hin
    · exact BitVec.getLsbD_of_ge x k (by omega)

/-- `ctz` (R128): 64 of 0, and else the place of the lowest one. -/
theorem ctz_spec (x : Word) : if x = 0 then ctzBits x 0 64 = 64 else
    ctzBits x 0 64 < 64 ∧ x.getLsbD (ctzBits x 0 64) = true ∧ ∀ k < ctzBits x 0 64, x.getLsbD k = false := by
  obtain ⟨hle, hzero, hone⟩ := ctzBits_spec x 0 64
  simp only [Nat.zero_add] at hzero hone
  by_cases hx : x = 0
  · rw [if_pos hx]
    by_contra hne
    exact absurd (hone (by omega)) (by simp [hx])
  · have hlt : ctzBits x 0 64 < 64 := lt_of_le_of_ne hle fun e => hx (eq_zero_of_bits fun k hk => hzero k (by omega))
    rw [if_neg hx]
    exact ⟨hlt, hone hlt, hzero⟩

/-- `bswap` (R128): the byte at each place is the one at the mirrored place. -/
theorem byte_byteSwap (x : Word) {j : Nat} (hj : j < 8) :
    (byteSwap x).extractLsb' (8 * j) 8 = x.extractLsb' (8 * (7 - j)) 8 := by
  unfold byteSwap
  interval_cases j <;> simp (disch := omega) only [Laws.field_high, Laws.field_low] <;> exact Laws.field_all _

/-! ### Division (R129) -/

theorem eq_intMin_iff (a : Word) : a = BitVec.intMin 64 ↔ a.toInt = -2 ^ 63 := by
  rw [← BitVec.toInt_inj]; rfl

theorem eq_allOnes_iff (b : Word) : b = BitVec.allOnes 64 ↔ b.toInt = -1 := by
  rw [← BitVec.toInt_inj]; rfl

end Sys2Proof.Machine

namespace Sys2Proof.Claims
open Sys2Proof.Machine

/-- The one quotient that does not fit (R129). -/
theorem overflows_iff (a b : Word) : (a = BitVec.intMin 64 ∧ b = BitVec.allOnes 64) ↔ true = true ∧ a.toInt = -2 ^ 63 ∧ b.toInt = -1 := by
  rw [eq_intMin_iff, eq_allOnes_iff]; simp

theorem divS_eq (a b : Word) : divS a b = BitVec.ofInt 64 (quotient true a b) := by
  unfold divS quotient
  by_cases hb : b = 0
  · rw [if_pos hb, if_pos hb]; rfl
  by_cases ho : a = BitVec.intMin 64 ∧ b = BitVec.allOnes 64
  · rw [if_neg hb, if_neg hb, if_pos ho, if_pos ((overflows_iff a b).1 ho), BitVec.ofInt_toInt]
  · rw [if_neg hb, if_neg hb, if_neg ho, if_neg fun e => ho ((overflows_iff a b).2 e), if_pos rfl]

theorem remS_eq (a b : Word) : remS a b = BitVec.ofInt 64 (remainder true a b) := by
  unfold remS remainder
  by_cases hb : b = 0
  · rw [if_pos hb, if_pos hb, BitVec.ofInt_toInt]
  by_cases ho : a = BitVec.intMin 64 ∧ b = BitVec.allOnes 64
  · rw [if_neg hb, if_neg hb, if_pos ho, if_pos ((overflows_iff a b).1 ho)]; rfl
  · rw [if_neg hb, if_neg hb, if_neg ho, if_neg fun e => ho ((overflows_iff a b).2 e), if_pos rfl]

theorem divU_eq (a b : Word) : divU a b = BitVec.ofInt 64 (quotient false a b) := by
  unfold divU quotient
  by_cases hb : b = 0
  · rw [if_pos hb, if_pos hb]; rfl
  · rw [if_neg hb, if_neg hb, if_neg nofun, if_neg nofun, BitVec.ofInt_natCast]

theorem remU_eq (a b : Word) : remU a b = BitVec.ofInt 64 (remainder false a b) := by
  unfold remU remainder
  by_cases hb : b = 0
  · rw [if_pos hb, if_pos hb, BitVec.ofInt_toInt]
  · rw [if_neg hb, if_neg hb, if_neg nofun, if_neg nofun, BitVec.ofInt_natCast]

theorem divisionHasEveryResult : DivisionHasEveryResult := fun _ _ _ _ =>
  ⟨gives_of_setReg rfl (divS_eq _ _), gives_of_setReg rfl (divU_eq _ _), gives_of_setReg rfl (remS_eq _ _),
    gives_of_setReg rfl (remU_eq _ _)⟩

/-! ### The table of R128 -/

theorem sums : Sums := fun _ _ _ _ _ _ =>
  ⟨gives_of_setReg rfl (add_signExtend _ _), givesNext_of_setReg rfl (add_signExtend _ _), gives_of_setReg rfl (BitVec.add_def _ _),
    gives_of_setReg rfl (sub_eq_ofInt _ _), gives_of_setReg rfl (mul_eq_ofNat _ _), gives_of_setReg rfl (toInt_mulHigh _ _),
    gives_of_setReg rfl (toNat_mulHigh _ _)⟩

theorem getLsbD_immediate (i : BitVec 14) {k : Nat} (hk : k < 64) : (i.signExtend 64).getLsbD k = immBit i k := by
  rw [BitVec.getLsbD_signExtend, decide_eq_true hk, Bool.true_and, BitVec.msb_eq_getLsbD_last, immBit]
  by_cases h : k < 14
  · rw [if_pos h, Nat.min_eq_left (by omega)]
  · rw [if_neg h, Nat.min_eq_right (by omega)]

theorem logic : Logic := by
  intro d a b i s
  refine ⟨gives_of_setReg rfl fun k _ => BitVec.getLsbD_and, gives_of_setReg rfl fun k _ => BitVec.getLsbD_or,
    gives_of_setReg rfl fun k _ => BitVec.getLsbD_xor, gives_of_setReg rfl fun k hk => ?_, gives_of_setReg rfl fun k hk => ?_,
    gives_of_setReg rfl fun k hk => ?_⟩
  all_goals rw [← getLsbD_immediate i hk]
  · exact BitVec.getLsbD_and
  · exact BitVec.getLsbD_or
  · exact BitVec.getLsbD_xor

theorem shifts : Shifts := by
  intro d a b h s
  rw [← toNat_shiftAmount]
  exact ⟨gives_of_setReg rfl (shiftLeft_eq_ofNat _ _), gives_of_setReg rfl (toNat_shiftRight _ _),
    gives_of_setReg rfl (toInt_shiftRight _ _), gives_of_setReg rfl (shiftLeft_eq_ofNat _ _),
    gives_of_setReg rfl (toNat_shiftRight _ _), gives_of_setReg rfl (toInt_shiftRight _ _)⟩

theorem comparisons : Comparisons := by
  intro d a b i s
  refine ⟨gives_of_setReg rfl (toNat_boolWord (slt_iff _ _)), gives_of_setReg rfl (toNat_boolWord (ult_iff _ _)),
    gives_of_setReg rfl (toNat_boolWord ?_), gives_of_setReg rfl (toNat_boolWord beq_iff_eq), gives_of_setReg rfl (toInt_min _ _),
    gives_of_setReg rfl (toInt_max _ _), gives_of_setReg rfl (toNat_min _ _), gives_of_setReg rfl (toNat_max _ _)⟩
  rw [slt_iff, BitVec.toInt_signExtend_of_le (by decide)]

theorem counts : Counts := by
  intro d a s
  have hclz := toNat_ofNat_count (clzBits_spec (s.reg a) 64).1
  have hctz := toNat_ofNat_count (ctzBits_spec (s.reg a) 0 64).1
  have hpop := toNat_ofNat_count (popBits_le (s.reg a) 64)
  refine ⟨gives_of_setReg rfl ?_, gives_of_setReg rfl ?_, gives_of_setReg rfl (hpop.trans (popBits_eq _ 64)),
    gives_of_setReg rfl fun _ hj => byte_byteSwap _ hj⟩
  · rw [hclz]; exact clz_spec _
  · rw [hctz]; exact ctz_spec _

theorem integerInstructionsComputeTheTable : IntegerInstructionsComputeTheTable := ⟨sums, logic, shifts, comparisons, counts⟩

end Sys2Proof.Claims

section
open Sys2Proof.Claims

/-- Settles O1: each instruction is one register write, whose word is the table's result or that of the division algorithm. -/
theorem integerInstructionsAndDivision : Obligations.IntegerInstructionsAndDivision :=
  ⟨integerInstructionsComputeTheTable, divisionHasEveryResult⟩

end

/-! SUPPORT. Minimum, maximum, comparison, class and sign of scalar floating point (R137–R140). The order of exact values comes first: the
model's comparison is that of their places among the rationals. -/

namespace Sys2Proof.Claims
open Sys2Proof.Machine

/-! ### The order of values -/

/-- A value scaled to a power of two no greater than its own is a whole number. -/
theorem signedAt_mul {neg : Bool} {m : Nat} {e base : Int} (h : base ≤ e) :
    (signedAt neg m e base : ℚ) * 2 ^ base = rational neg m e := by
  have hpow : (2 : ℚ) ^ (e - base).toNat * 2 ^ base = 2 ^ e := by
    rw [← zpow_natCast, Int.toNat_of_nonneg (by omega), ← zpow_add₀ two_ne_zero, Int.sub_add_cancel]
  cases neg
  · simp only [signedAt, rational, Bool.false_eq_true, if_false]
    push_cast
    rw [mul_assoc, hpow]
  · simp only [signedAt, rational, if_true]
    push_cast
    rw [neg_mul, mul_assoc, hpow, neg_mul]

/-- Whole numbers compare as they do when scaled. -/
theorem compare_scaled (v w base : Int) : compare v w = compare ((v : ℚ) * 2 ^ base) ((w : ℚ) * 2 ^ base) := by
  have hmono : StrictMono fun x : Int => (x : ℚ) * 2 ^ base := fun x y h =>
    mul_lt_mul_of_pos_right (Int.cast_lt.2 h) (zpow_pos two_pos base)
  rw [← cmp_eq_compare, ← cmp_eq_compare]
  exact (hmono.cmp_map_eq v w).symm

theorem cmpFin_eq (a : Bool) (m : Nat) (e : Int) (b : Bool) (n : Nat) (f : Int) :
    cmpFin a m e b n f = compare (rational a m e) (rational b n f) := by
  unfold cmpFin
  extract_lets base
  have he : base ≤ e := by unfold base; split <;> omega
  have hf : base ≤ f := by unfold base; split <;> omega
  rw [compare_scaled _ _ base, signedAt_mul he, signedAt_mul hf]

/-- Finite values take their places in the order of the rationals. -/
theorem compare_place_fin (x y : ℚ) :
    compare ((x : WithTop ℚ) : WithBot (WithTop ℚ)) ((y : WithTop ℚ) : WithBot (WithTop ℚ)) = compare x y := by
  rw [← cmp_eq_compare, ← cmp_eq_compare]
  exact (WithBot.coe_strictMono.comp WithTop.coe_strictMono).cmp_map_eq x y

/-- The comparison of two values that are not NaN is that of their places, −∞ first and +∞ last. -/
theorem cmp_eq_compare_place {x y : FV} (hx : x ≠ .nan) (hy : y ≠ .nan) : x.cmp y = compare (place x) (place y) := by
  have top : ∀ q : ℚ, ((q : WithTop ℚ) : WithBot (WithTop ℚ)) < ((⊤ : WithTop ℚ) : WithBot (WithTop ℚ)) := fun q =>
    WithBot.coe_lt_coe.2 (WithTop.coe_lt_top q)
  cases x with
  | nan => exact absurd rfl hx
  | inf a =>
    cases y with
    | nan => exact absurd rfl hy
    | inf b =>
      cases a <;> cases b
      · exact (compare_eq_iff_eq.2 rfl).symm
      · exact (compare_gt_iff_gt.2 (WithBot.bot_lt_coe _)).symm
      · exact (compare_lt_iff_lt.2 (WithBot.bot_lt_coe _)).symm
      · exact (compare_eq_iff_eq.2 rfl).symm
    | fin b n f =>
      cases a
      · exact (compare_gt_iff_gt.2 (top _)).symm
      · exact (compare_lt_iff_lt.2 (WithBot.bot_lt_coe _)).symm
  | fin a m e =>
    cases y with
    | nan => exact absurd rfl hy
    | inf b =>
      cases b
      · exact (compare_lt_iff_lt.2 (top _)).symm
      · exact (compare_gt_iff_gt.2 (WithBot.bot_lt_coe _)).symm
    | fin b n f => exact (cmpFin_eq a m e b n f).trans (compare_place_fin _ _).symm

theorem cmp_lt_iff {x y : FV} (hx : x ≠ .nan) (hy : y ≠ .nan) : x.cmp y = .lt ↔ place x < place y := by
  rw [cmp_eq_compare_place hx hy, compare_lt_iff_lt]

theorem cmp_eq_iff {x y : FV} (hx : x ≠ .nan) (hy : y ≠ .nan) : x.cmp y = .eq ↔ place x = place y := by
  rw [cmp_eq_compare_place hx hy, compare_eq_iff_eq]

theorem cmp_gt_iff {x y : FV} (hx : x ≠ .nan) (hy : y ≠ .nan) : x.cmp y = .gt ↔ place y < place x := by
  rw [cmp_eq_compare_place hx hy, compare_gt_iff_gt]

/-! ### Minimum and maximum (R137) -/

/-- The first of two values by place, and at one place by a sign of the first: −0 before +0. -/
def Precedes (x y : FV) : Prop := place x < place y ∨ place x = place y ∧ x.neg? = true

theorem precedes_iff {x y : FV} (hx : x ≠ .nan) (hy : y ≠ .nan) :
    Precedes x y ↔ x.cmp y = .lt ∨ x.cmp y = .eq ∧ x.neg? = true := by
  rw [cmp_lt_iff hx hy, cmp_eq_iff hx hy]; rfl

theorem Precedes.le {x y : FV} (h : Precedes x y) : place x ≤ place y := h.elim le_of_lt fun h => h.1.le

theorem Precedes.neg {x y : FV} (h : Precedes x y) (he : place x = place y) : x.neg? = true :=
  h.elim (fun h => absurd he h.ne) fun h => h.2

theorem le_of_not_precedes {x y : FV} (h : ¬ Precedes x y) : place y ≤ place x := not_lt.1 fun e => h (.inl e)

theorem neg_of_not_precedes {x y : FV} (h : ¬ Precedes x y) (he : place x = place y) : x.neg? = false :=
  Bool.eq_false_iff.2 fun e => h (.inr ⟨he, e⟩)

/-- What `fmin` and `fmax` share: one pattern where the first operand precedes, the other one else. -/
def inOrder (f : Fmt) (a b ifFirst ifNot : Nat) : Nat :=
  match f.decode a, f.decode b with
  | .nan, .nan => f.canonNaN
  | .nan, _ => b
  | _, .nan => a
  | x, y =>
    match x.cmp y with
    | .lt => ifFirst
    | .gt => ifNot
    | .eq => if x.neg? then ifFirst else ifNot

theorem minOp_eq (f : Fmt) (a b : Nat) : f.minOp a b = inOrder f a b a b := rfl

theorem maxOp_eq (f : Fmt) (a b : Nat) : f.maxOp a b = inOrder f a b b a := rfl

theorem inOrder_numbers {f : Fmt} {a b : Nat} (ha : f.decode a ≠ .nan) (hb : f.decode b ≠ .nan) (ifFirst ifNot : Nat) :
    (Precedes (f.decode a) (f.decode b) ∧ inOrder f a b ifFirst ifNot = ifFirst) ∨
    (¬ Precedes (f.decode a) (f.decode b) ∧ inOrder f a b ifFirst ifNot = ifNot) := by
  rw [precedes_iff ha hb]
  unfold inOrder
  split
  · exact absurd ‹_› ha
  · exact absurd ‹_› ha
  · exact absurd ‹_› hb
  · cases (f.decode a).cmp (f.decode b) with
    | lt => exact .inl ⟨.inl rfl, rfl⟩
    | gt => exact .inr ⟨by simp, rfl⟩
    | eq =>
      cases (f.decode a).neg? with
      | true => exact .inl ⟨.inr ⟨rfl, rfl⟩, rfl⟩
      | false => exact .inr ⟨by simp, rfl⟩

/-- What R137 gives where an operand is NaN: the other one, or the canonical NaN. -/
def besidesNaN (f : Fmt) (a b : Nat) : Nat :=
  if f.decode a = .nan ∧ f.decode b = .nan then f.canonNaN else if f.decode a = .nan then b else a

theorem inOrder_nan {f : Fmt} {a b : Nat} (h : f.decode a = .nan ∨ f.decode b = .nan) (ifFirst ifNot : Nat) :
    inOrder f a b ifFirst ifNot = besidesNaN f a b := by
  unfold inOrder besidesNaN
  split
  · next ha hb => rw [if_pos ⟨ha, hb⟩]
  · next ha hb => rw [if_neg fun e => hb e.2, if_pos ha]
  · next hb ha => rw [if_neg fun e => ha e.1, if_neg ha]
  · exact absurd h (not_or.2 ⟨‹f.decode a = .nan → False›, ‹f.decode b = .nan → False›⟩)

theorem chosenOf_besidesNaN {f : Fmt} (low : Bool) {a b : Nat} (h : f.decode a = .nan ∨ f.decode b = .nan) :
    ChosenOf f low a b (besidesNaN f a b) := by
  unfold ChosenOf besidesNaN
  by_cases ha : f.decode a = .nan
  · by_cases hb : f.decode b = .nan <;> simp [ha, hb]
  · simp [ha, h.resolve_left ha]

theorem chosenOf_minOp (f : Fmt) (a b : Nat) : ChosenOf f true a b (f.minOp a b) := by
  rw [minOp_eq]
  by_cases hnan : f.decode a = .nan ∨ f.decode b = .nan
  · rw [inOrder_nan hnan]; exact chosenOf_besidesNaN true hnan
  obtain ⟨ha, hb⟩ := not_or.1 hnan
  unfold ChosenOf
  simp only [ha, hb, false_and, if_false, if_true]
  rcases inOrder_numbers ha hb _ _ with ⟨h, hr⟩ | ⟨h, hr⟩ <;> rw [hr]
  · exact ⟨.inl rfl, ⟨le_rfl, h.le⟩, fun hza hzb => by rw [h.neg (hza.trans hzb.symm), Bool.true_or]⟩
  · exact ⟨.inr rfl, ⟨le_of_not_precedes h, le_rfl⟩, fun hza hzb => by rw [neg_of_not_precedes h (hza.trans hzb.symm), Bool.false_or]⟩

theorem chosenOf_maxOp (f : Fmt) (a b : Nat) : ChosenOf f false a b (f.maxOp a b) := by
  rw [maxOp_eq]
  by_cases hnan : f.decode a = .nan ∨ f.decode b = .nan
  · rw [inOrder_nan hnan]; exact chosenOf_besidesNaN false hnan
  obtain ⟨ha, hb⟩ := not_or.1 hnan
  unfold ChosenOf
  simp only [ha, hb, false_and, if_false, Bool.false_eq_true]
  rcases inOrder_numbers ha hb _ _ with ⟨h, hr⟩ | ⟨h, hr⟩ <;> rw [hr]
  · exact ⟨.inr rfl, ⟨h.le, le_rfl⟩, fun hza hzb => by rw [h.neg (hza.trans hzb.symm), Bool.true_and]⟩
  · exact ⟨.inl rfl, ⟨le_rfl, le_of_not_precedes h⟩, fun hza hzb => by rw [neg_of_not_precedes h (hza.trans hzb.symm), Bool.false_and]⟩

/-! ### Comparison (R138) -/

theorem isNaN_or_iff (x y : FV) : (x == .nan || y == .nan) = true ↔ x = .nan ∨ y = .nan := by
  rw [Bool.or_eq_true, beq_iff_eq, beq_iff_eq]

/-- With a NaN only `un` holds, and `lt` and `le` are invalid. -/
theorem cmpOp_nan {x y : FV} (cc : FCond) (h : x = .nan ∨ y = .nan) :
    Fmt.cmpOp cc x y = (cc == .un, if cc = .lt ∨ cc = .le then 16 else 0) := by
  unfold Fmt.cmpOp
  rw [if_pos ((isNaN_or_iff x y).2 h)]
  cases cc <;> rfl

/-- Of two numbers the model's comparison decides, without a flag. -/
theorem cmpOp_numbers {x y : FV} (cc : FCond) (hx : x ≠ .nan) (hy : y ≠ .nan) : (Fmt.cmpOp cc x y).2 = 0 ∧
    ((Fmt.cmpOp cc x y).1 = true ↔ match cc with
      | .eq => place x = place y | .lt => place x < place y | .le => place x ≤ place y | .un => False) := by
  unfold Fmt.cmpOp
  rw [if_neg fun e => ((isNaN_or_iff x y).1 e).elim hx hy]
  cases cc with
  | eq => exact ⟨rfl, by rw [beq_iff_eq]; exact cmp_eq_iff hx hy⟩
  | lt => exact ⟨rfl, by rw [beq_iff_eq]; exact cmp_lt_iff hx hy⟩
  | le => exact ⟨rfl, by rw [bne_iff_ne, ne_eq, cmp_gt_iff hx hy]; exact not_lt⟩
  | un => exact ⟨rfl, by simp⟩

theorem cmpOp_flags (cc : FCond) (x y : FV) : (Fmt.cmpOp cc x y).2 = comparisonFlags cc x y := by
  unfold comparisonFlags
  by_cases h : x = .nan ∨ y = .nan
  · simp only [cmpOp_nan cc h, h, true_and]
  · obtain ⟨hx, hy⟩ := not_or.1 h
    rw [(cmpOp_numbers cc hx hy).1, if_neg fun e => h e.1]

theorem cmpOp_iff (cc : FCond) (x y : FV) : (Fmt.cmpOp cc x y).1 = true ↔ comparison cc x y := by
  by_cases h : x = .nan ∨ y = .nan
  · have hnot : ¬ (x ≠ .nan ∧ y ≠ .nan) := fun e => h.elim e.1 e.2
    rw [cmpOp_nan cc h]
    cases cc with
    | eq | lt | le => exact ⟨nofun, fun e => absurd ⟨e.1, e.2.1⟩ hnot⟩
    | un => exact ⟨fun _ => h, fun _ => rfl⟩
  · obtain ⟨hx, hy⟩ := not_or.1 h
    rw [(cmpOp_numbers cc hx hy).2]
    cases cc with
    | eq | lt | le => exact ⟨fun e => ⟨hx, hy, e⟩, fun e => e.2.2⟩
    | un => exact ⟨False.elim, h⟩

/-! ### Class (R139) and sign (R140) -/

theorem layout_eq (p : Prec) : Prec.fmt p = layout p := by cases p <;> rfl

theorem fpBits_eq (p : Prec) (v : Word) : fpBits p v = pattern p v := by cases p <;> rfl

theorem fpArg_eq (s : State) (p : Prec) (r : Reg) : s.fpArg p r = value p (s.reg r) := by cases p <;> rfl

theorem classOp_eq (p : Prec) (n : Nat) : (layout p).classOp n = 2 ^ classBit p ((layout p).decode n) := by
  unfold Fmt.classOp classBit
  cases (layout p).decode n with
  | nan => rfl
  | inf neg => cases neg <;> rfl
  | fin neg m e =>
    by_cases hzero : m = 0
    · cases neg <;> simp [hzero]
    · by_cases hsub : m < 2 ^ (layout p).fb
      · cases neg <;> simp [hzero, hsub]
      · cases neg <;> simp [hzero, hsub]

/-! ### Sign manipulation (R140) -/

theorem getLsbD_ones (n : Nat) {j : Nat} (hj : j < 64) : (BitVec.ofNat 64 (2 ^ n - 1)).getLsbD j = decide (j < n) := by
  rw [BitVec.getLsbD_ofNat, Nat.testBit_two_pow_sub_one, decide_eq_true hj, Bool.true_and]

/-- A bit set or cleared in a word cut off above it. -/
def withTopBit (n : Nat) (sign : Bool) (a : Word) : Word :=
  (bif sign then a ||| BitVec.twoPow 64 n else a &&& BitVec.ofNat 64 (2 ^ n - 1)) &&& BitVec.ofNat 64 (2 ^ (n + 1) - 1)

theorem fsgnOp_eq (k : BitVec 2) (p : Prec) (a b : Word) :
    fsgnOp k p a b = withTopBit (signBit p) (fsgnSign k (a.getLsbD (signBit p)) (b.getLsbD (signBit p))) a := by
  cases p with
  | s => rfl
  | d => exact (BitVec.and_allOnes).symm

theorem getLsbD_withTopBit {n : Nat} (hn : n < 64) (sign : Bool) (a : Word) (j : Nat) :
    (withTopBit n sign a).getLsbD j = if j = n then sign else decide (j < n) && a.getLsbD j := by
  by_cases hj : j < 64
  · have hcut : decide (j < n + 1) = (decide (j = n) || decide (j < n)) := by
      rw [← Bool.decide_or]; congr 1; exact propext (by omega)
    have hset : (BitVec.twoPow 64 n).getLsbD j = decide (j = n) := by
      rw [BitVec.getLsbD_twoPow, decide_eq_true hn, Bool.true_and]; congr 1; exact propext eq_comm
    unfold withTopBit
    rw [BitVec.getLsbD_and, getLsbD_ones _ hj, hcut]
    cases sign
    · rw [cond_false, BitVec.getLsbD_and, getLsbD_ones _ hj]
      by_cases h : j = n
      · simp [h]
      · simp [h, Bool.and_comm]
    · rw [cond_true, BitVec.getLsbD_or, hset]
      by_cases h : j = n
      · simp [h]
      · simp [h, Bool.and_comm]
  · rw [BitVec.getLsbD_of_ge _ _ (by omega), if_neg (by omega), decide_eq_false (by omega), Bool.false_and]

/-- As a number: the sign at the bit, below it as before, nothing above. -/
theorem withTopBit_spec {n : Nat} (hn : n < 64) (sign : Bool) (a : Word) :
    (withTopBit n sign a).toNat < 2 ^ (n + 1) ∧ (withTopBit n sign a).toNat % 2 ^ n = a.toNat % 2 ^ n ∧
    (withTopBit n sign a).toNat.testBit n = sign := by
  have hbit : ∀ j, (withTopBit n sign a).toNat.testBit j = if j = n then sign else decide (j < n) && a.getLsbD j := fun j => by
    rw [BitVec.testBit_toNat, getLsbD_withTopBit hn]
  refine ⟨Nat.lt_pow_two_of_testBit _ fun j hj => ?_, Nat.eq_of_testBit_eq fun j => ?_, ?_⟩
  · rw [hbit, if_neg (by omega), decide_eq_false (by omega), Bool.false_and]
  · rw [Nat.testBit_mod_two_pow, Nat.testBit_mod_two_pow, hbit, BitVec.testBit_toNat]
    by_cases h : j < n
    · simp [h, h.ne]
    · simp [h]
  · rw [hbit, if_pos rfl]

theorem fsgnSign_eq (k : BitVec 2) (x y : Bool) :
    fsgnSign k x y = match k.toNat with | 0 => y | 1 => !y | _ => x != y := by
  revert k x y; decide

/-! ### Results and flags written (R133, R134) -/

/-- A result written with its flags. -/
theorem writesFloat_fpWrite (s : State) (d : Reg) (r : Nat × Flags) : WritesFloat s (s.fpWrite d r) d r s.cur.pc := by
  have hregs : s.cur.setReg d (BitVec.ofNat 64 r.1) = { s.cur with regs := (s.cur.setReg d (BitVec.ofNat 64 r.1)).regs } :=
    congrArg State.cur (s.setReg_frame d _)
  refine ⟨fun n => s.setReg_reg d n _, fun k hk => ?_, ?_⟩
  · show ((s.cur.setReg d (BitVec.ofNat 64 r.1)).tstat ||| r.2.setWidth 64).getLsbD k = _
    rw [hregs, BitVec.getLsbD_or, BitVec.getLsbD_setWidth, decide_eq_true hk, Bool.true_and]
    by_cases h : k < 5
    · rw [decide_eq_true h, Bool.true_and]
    · rw [decide_eq_false h, Bool.false_and, BitVec.getLsbD_of_ge _ _ (Nat.not_lt.1 h)]
  · unfold State.fpWrite Thread.raiseFlags
    rw [hregs]

/-- A register written is a result without flags. -/
theorem setReg_eq_fpWrite (s : State) (d : Reg) (n : Nat) : s.setReg d (BitVec.ofNat 64 n) = s.fpWrite d (n, 0) := by
  unfold State.fpWrite Thread.raiseFlags
  rw [show (0 : Flags).setWidth 64 = 0#64 from rfl, BitVec.or_zero]
  rfl

theorem givesFloat_of_fpWrite {i : Instr} {s : State} {d : Reg} {r : Nat × Flags} (hexec : exec i s = .next (s.fpWrite d r)) :
    GivesFloat i s d r := ⟨_, _, hexec, writesFloat_fpWrite s d r⟩

theorem givesFloat_of_setReg {i : Instr} {s : State} {d : Reg} {n : Nat} (hexec : exec i s = .next (s.setReg d (BitVec.ofNat 64 n))) :
    GivesFloat i s d (n, 0) := givesFloat_of_fpWrite (hexec.trans (by rw [setReg_eq_fpWrite]))

/-! ### The instructions (R137–R140) -/

theorem minimumAndMaximumChooseAnOperand : MinimumAndMaximumChooseAnOperand := by
  intro p d a b s
  rw [← layout_eq, ← fpBits_eq, ← fpBits_eq]
  exact ⟨⟨_, givesFloat_of_setReg rfl, chosenOf_minOp _ _ _⟩, ⟨_, givesFloat_of_setReg rfl, chosenOf_maxOp _ _ _⟩⟩

theorem compareAndClassify : CompareAndClassify := by
  intro p cc d a b s x y
  have hcmp : exec (.fcmp p cc d a b) s = .next (s.fpWrite d (if (Fmt.cmpOp cc x y).1 then 1 else 0, comparisonFlags cc x y)) := by
    rw [← cmpOp_flags]
    show execFcmp p cc d a b s = _
    rw [execFcmp, fpArg_eq, fpArg_eq]
  have hclass : exec (.fclass p d a) s = .next (s.setReg d (BitVec.ofNat 64 (2 ^ classBit p x))) := by
    rw [show x = (layout p).decode (pattern p (s.reg a)) from rfl, ← classOp_eq, ← layout_eq, ← fpBits_eq]; rfl
  refine ⟨⟨_, givesFloat_of_fpWrite hcmp, ?_, ?_⟩, givesFloat_of_setReg hclass⟩
  · split <;> simp
  · rw [← cmpOp_iff]; split <;> simp [*]

theorem signManipulationKeepsOtherBits : SignManipulationKeepsOtherBits := by
  intro k p d a b s _ sa sb
  have hsign : signBit p < 64 := by cases p <;> decide
  have hexec : exec (.fsgn k p d a b) s =
      .next (s.setReg d (BitVec.ofNat 64 (withTopBit (signBit p) (fsgnSign k sa sb) (s.reg a)).toNat)) := by
    rw [BitVec.ofNat_toNat, BitVec.setWidth_eq, ← fsgnOp_eq]; rfl
  obtain ⟨hlt, hlow, htop⟩ := withTopBit_spec hsign (fsgnSign k sa sb) (s.reg a)
  exact ⟨_, givesFloat_of_setReg hexec, hlt, hlow, htop.trans (fsgnSign_eq k sa sb)⟩

end Sys2Proof.Claims

section
open Sys2Proof.Claims

/-- Settles O7: minimum, maximum and comparison follow the order of the operands' places, class and sign their patterns. -/
theorem minimumCompareClassifyAndSign : Obligations.MinimumCompareClassifyAndSign :=
  ⟨minimumAndMaximumChooseAnOperand, compareAndClassify, signManipulationKeepsOtherBits⟩

end

/-! SUPPORT. An `mrot` record whose operand words name view 0: its block of A stands ready without a read. -/

namespace Sys2Proof.Claims

open Sys2Proof.Machine

/-- What was read in turn began with a read of the first place that gave bytes. -/
theorem ReadsInTurn.head_bytes {who : Tid} {upto : Nat} {ea : Word} {n : Nat} {rest : List (Word × Nat)} {l : List Nat} {s u : State}
    (h : ReadsInTurn who upto ((ea, n) :: rest) l s u) : ∃ v w, s.engineRead (.grid who.grid) who upto ea n = (.bytes v, w) := by
  obtain ⟨v, w, _, _, hread, _⟩ := h
  exact ⟨v, w, hread⟩

/-- An `mrot` with M = N = K = 1 and every other word 0: by its word 1, A lies at location 0 under view 0. Its one row is past. -/
def viewZeroRec : MRec :=
  { id := 5, words := [4, 0, 0, 0, 0, 0, 0, 0], tid := ⟨1, 0, 0⟩, fpc := 0, upto := 5, rows := 1, running := true, multiplied := false
    scalesA := [], scalesB := [], writes := [], sends := [], paused := none, untilTret := false }

/-- A program of one thread placed on core 0, whose active unit has that record at the head of its queue; no page maps location 0. -/
def viewZeroState : State :=
  { State.reset.withBench with cores := [{ Core.reset 0 with mq := [viewZeroRec], unit := .active 0 }] }

theorem viewZeroRec_runs : HeadRuns viewZeroState 0 4 viewZeroRec := by unfold HeadRuns; decide +kernel

/-- The unit counts no bytes for an element of view 0, so its block of A stands ready without a read. -/
theorem viewZeroRec_sends : viewZeroState.rotSends viewZeroRec [0] = (.ok [(0, [])], viewZeroState) := by decide +kernel

/-- An element of view 0 has 8 bytes by R58; a read of them at location 0 stops at a page that is not mapped. -/
theorem viewZeroRec_read_absent (v : Nat) (w : State) :
    viewZeroState.engineRead (.grid viewZeroRec.tid.grid) viewZeroRec.tid viewZeroRec.upto 0 8 ≠ (.bytes v, w) := by
  have habsent : (viewZeroState.engineRead (.grid viewZeroRec.tid.grid) viewZeroRec.tid viewZeroRec.upto 0 8).1 = .absent 0 := by
    decide +kernel
  intro h
  rw [h] at habsent
  cases habsent

/-- The reads of the block of A that the claim asks for. -/
theorem viewZeroRec_blockA :
    ((List.range (rowsOfRec viewZeroRec)).map fun i => (effAddr (viewZeroRec.words.getD 1 0) ((strideOfRec viewZeroRec 0 * i : Nat) : Int),
      innerOfRec viewZeroRec * (Elem.ofView (viewOfRec viewZeroRec)).size)) = [(0, 8)] := by decide +kernel

theorem viewZeroRec_not_ready : ¬ BlocksReady viewZeroRec [0] [(0, [])] viewZeroState viewZeroState := by
  rintro ⟨rows, _, _, _, w, _, hrows, _⟩
  have hread : ReadsInTurn viewZeroRec.tid viewZeroRec.upto [(0, 8)] rows viewZeroState w := viewZeroRec_blockA ▸ hrows
  obtain ⟨v, x, hbytes⟩ := hread.head_bytes
  exact viewZeroRec_read_absent v x hbytes

end Sys2Proof.Claims

section
open Sys2Proof.Machine Sys2Proof.Claims

/-- Refutes O34: its clause on the blocks of an `mrot` (`rotSends`, `BlocksReady`) leaves out the hypothesis that the record's operand views
are among those of R193 (`recBad`), which the clauses on fills, drains and clearing have. `viewZeroRec` is a legal record for R121 and its row
is past; its words name view 0. The unit then counts no bytes an element, and its block of A stands ready, empty, without a read; the claim
reads 8 bytes at location 0, where no page is mapped. The statement ranges over every state, but no run reaches this one: at its first row the
unit refuses the view (R193, R332). -/
theorem not_matrixRecordsFillDrainAndRotate : ¬ Obligations.MatrixRecordsFillDrainAndRotate := by
  unfold Obligations.MatrixRecordsFillDrainAndRotate
  rintro ⟨-, hclauses⟩
  obtain ⟨-, -, hrot, -⟩ := hclauses viewZeroState 0 0 0
  obtain ⟨-, -, hready, -⟩ := hrot viewZeroRec viewZeroRec_runs (by decide)
  exact viewZeroRec_not_ready (hready [0] [(0, [])] viewZeroState (by decide) viewZeroRec_sends)

end

/-! SUPPORT. The reads of engines (R79, R345): the units of an access side by side, the bytes that they give, and what a read may change. -/

namespace Sys2Proof.Machine

open Sys2Proof.Claims

/-! ### What a read may change -/

theorem State.correctPlace_only (s : State) (place sub loc addr : Nat) : WalksOnly s (s.correctPlace place sub loc addr) := by
  unfold State.correctPlace
  split
  · exact s.correct_only _ _ _ _
  · exact .refl s

/-- A place without an error of one bit is read as it is. -/
theorem State.correctPlace_of_notMem {s : State} {place : Nat} (h : place ∉ s.soft) (sub loc addr : Nat) :
    s.correctPlace place sub loc addr = s := by
  unfold State.correctPlace
  rw [if_neg (by simpa using h)]

theorem State.correctLine_only (s : State) (c : Option Nat) (k : Nat) : WalksOnly s (s.correctLine c k) := by
  unfold State.correctLine
  split
  · exact s.correctPlace_only _ _ _ _
  · exact .refl s

theorem State.dropLines_only (s : State) (p : Line → Bool) : WalksOnly s (s.dropLines p) := ⟨_, _, _, _, _, _, _, _, _, _, rfl⟩

theorem State.recoverLines_only (s : State) (k : Nat) : WalksOnly s (s.recoverLines k) :=
  .foldl _ (fun t _ => (t.dropLines_only _).trans (State.recovered_only _ _ _ _ _)) _ _

theorem State.readRepairs_only (s : State) (us : List (Nat × Nat)) : WalksOnly s (s.readRepairs us) := by
  unfold State.readRepairs
  split
  · exact .refl s
  · exact .foldl _ (fun t _ => ((t.recoverLines_only _).trans (State.correctLine_only _ _ _)).trans (State.correctWords_only _ _ _)) _ _

theorem State.placesIn_only (s : State) (sp : Space) (l : List Word) : WalksOnly s (s.placesIn sp l).2 := by
  cases sp with
  | grid g => unfold State.placesIn; exact s.places_only g l
  | queue q =>
    induction l generalizing s with
    | nil => exact .refl s
    | cons ea rest ih =>
      unfold State.placesIn
      by_cases h : windowBase ≤ locOf ea
      · simp only [h, if_true]; exact ih s
      · simp only [h, if_false]; exact (s.translate_only _ _).trans (ih _)

theorem State.engineCheck_only (s : State) (sp : Space) (ea : Word) (n : Nat) (w : Bool) : WalksOnly s (s.engineCheck sp ea n w).2 :=
  s.placesIn_only _ _

theorem State.engineRead_only (s : State) (sp : Space) (who : Tid) (upto : Nat) (ea : Word) (n : Nat) :
    WalksOnly s (s.engineRead sp who upto ea n).2 := by
  have hcheck := s.engineCheck_only sp ea n false
  unfold State.engineRead
  dsimp only
  split
  · exact hcheck
  · exact hcheck
  · exact hcheck
  · split
    · exact hcheck
    · split
      · exact hcheck
      · exact hcheck.trans (State.readRepairs_only _ _)

theorem State.engineReads_only (s : State) (who : Tid) (upto : Nat) (reads : List (Word × Nat)) :
    WalksOnly s (s.engineReads who upto reads).2 := by
  induction reads generalizing s with
  | nil => exact .refl s
  | cons p rest ih =>
    have hread := s.engineRead_only (.grid who.grid) who upto p.1 p.2
    unfold State.engineReads
    dsimp only
    split
    · split <;> exact hread.trans (ih _)
    · exact hread

/-- The teams after a read. -/
theorem WalksOnly.teams {s t : State} (h : WalksOnly s t) : t.teams = s.teams := by
  obtain ⟨_, _, _, _, _, _, _, _, _, _, rfl⟩ := h
  rfl

/-- The cores after a read. -/
theorem WalksOnly.cores {s t : State} (h : WalksOnly s t) : t.cores = s.cores := by
  obtain ⟨_, _, _, _, _, _, _, _, _, _, rfl⟩ := h
  rfl

/-! ### Units side by side (R71) -/

/-- Units that follow one another from an offset on, and end no later than another. -/
def Consecutive : Nat → Nat → List (Nat × Nat) → Prop
  | o, n, [] => o ≤ n
  | o, n, u :: us => u.1 = o ∧ Consecutive (o + u.2) n us

theorem Consecutive.shift {o n : Nat} {us : List (Nat × Nat)} (h : Consecutive o n us) (d : Nat) :
    Consecutive (o + d) (n + d) (us.map fun u => (u.1 + d, u.2)) := by
  induction us generalizing o with
  | nil => exact Nat.add_le_add_right h d
  | cons u us ih =>
    obtain ⟨ho, hrest⟩ := h
    refine ⟨by simp [ho], ?_⟩
    rw [Nat.add_right_comm]
    exact ih hrest

theorem Consecutive.le {o n : Nat} {us : List (Nat × Nat)} (h : Consecutive o n us) : o ≤ n := by
  induction us generalizing o with
  | nil => exact h
  | cons u us ih => exact (Nat.le_add_right ..).trans (ih h.2)

theorem unitsFrom_consecutive (loc n fuel : Nat) : Consecutive 0 n (unitsFrom loc n fuel) := by
  induction fuel generalizing loc n with
  | zero => exact Nat.zero_le n
  | succ fuel ih =>
    unfold unitsFrom
    split
    · exact Nat.zero_le n
    · refine ⟨rfl, ?_⟩
      have hshift := (ih (loc + min n (8 - loc % 8)) (n - min n (8 - loc % 8))).shift (min n (8 - loc % 8))
      rwa [Nat.sub_add_cancel (Nat.min_le_left ..)] at hshift

theorem units8_consecutive (loc n : Nat) : Consecutive 0 n (units8 loc n) := unitsFrom_consecutive ..

/-! ### The bytes that units give -/

theorem State.loadNat_eq_bytesAt (s : State) (a n : Nat) : s.loadNat a n = bytesAt s a n := Memory.load_eq_sum s.mem a n

theorem Memory.load_lt (m : List Host.Cell) (a n : Nat) : Memory.load m a n < 2 ^ (8 * n) := by
  induction n generalizing a with
  | zero => exact Nat.one_pos
  | succ n ih =>
    have hrest := ih (a + 1)
    have hfirst := (Memory.get m a).isLt
    rw [Memory.load, show 8 * (n + 1) = 8 * n + 8 by omega, Nat.pow_add]
    omega

/-- A number of `a` bits below one of `b`. -/
theorem add_two_pow_mul_lt {x y a b : Nat} (hx : x < 2 ^ a) (hy : y < 2 ^ b) : x + 2 ^ a * y < 2 ^ (a + b) :=
  calc x + 2 ^ a * y < 2 ^ a * (y + 1) := by rw [Nat.mul_succ]; omega
    _ ≤ 2 ^ a * 2 ^ b := Nat.mul_le_mul_left _ hy
    _ = 2 ^ (a + b) := (Nat.pow_add ..).symm

theorem State.readUnits_lt (s : State) {o n : Nat} {us : List (Nat × Nat)} (hus : Consecutive o n us) (keys : List Nat) :
    s.readUnits (keys.zip (us.map (·.2))) < 2 ^ (8 * (n - o)) := by
  induction us generalizing o keys with
  | nil => rw [List.map_nil, List.zip_nil_right]; exact Nat.two_pow_pos _
  | cons u us ih =>
    obtain ⟨-, hrest⟩ := hus
    cases keys with
    | nil => exact Nat.two_pow_pos _
    | cons k keys =>
      have hall := add_two_pow_mul_lt (Memory.load_lt s.mem (s.mapKey k) u.2) (ih hrest keys)
      rwa [show 8 * u.2 + 8 * (n - (o + u.2)) = 8 * (n - o) by have := hrest.le; omega] at hall

/-- Each unit's bytes, cut out of what the units give together. -/
theorem State.readUnits_cut (s : State) {o n : Nat} {us : List (Nat × Nat)} (hus : Consecutive o n us) (keys : List Nat) :
    ∀ p ∈ keys.zip us, o ≤ p.2.1 ∧
      s.readUnits (keys.zip (us.map (·.2))) / 2 ^ (8 * (p.2.1 - o)) % 2 ^ (8 * p.2.2) = bytesAt s (s.mapKey p.1) p.2.2 := by
  induction us generalizing o keys with
  | nil => simp
  | cons u us ih =>
    obtain ⟨ho, hrest⟩ := hus
    cases keys with
    | nil => simp
    | cons k keys =>
      have hload : s.loadNat (s.mapKey k) u.2 < 2 ^ (8 * u.2) := Memory.load_lt _ _ _
      intro p hp
      simp only [List.map_cons, List.zip_cons_cons, State.readUnits]
      rcases List.mem_cons.1 hp with rfl | hp
      · refine ⟨ho.ge, ?_⟩
        rw [ho, Nat.sub_self, Nat.mul_zero, Nat.pow_zero, Nat.div_one, Nat.add_mul_mod_self_left, Nat.mod_eq_of_lt hload,
          State.loadNat_eq_bytesAt]
      · obtain ⟨hle, hv⟩ := ih hrest keys p hp
        refine ⟨by omega, ?_⟩
        rw [← hv, show 8 * (p.2.1 - o) = 8 * u.2 + 8 * (p.2.1 - (o + u.2)) by omega, Nat.pow_add, ← Nat.div_div_eq_div_mul,
          Nat.add_mul_div_left _ _ (Nat.two_pow_pos _), Nat.div_eq_of_lt hload, Nat.zero_add]

end Sys2Proof.Machine

namespace Sys2Proof.Claims

open Sys2Proof.Machine

/-- R79: what a read gives is what memory holds, unit by unit. -/
theorem bytesOf_engineRead {s : State} {sp : Space} {who : Tid} {upto : Nat} {ea : Word} {n v : Nat} {u : State}
    (h : s.engineRead sp who upto ea n = (.bytes v, u)) : BytesOf s sp ea n v := by
  unfold State.engineRead at h
  cases hcheck : s.engineCheck sp ea n false with
  | mk check w =>
    simp only [hcheck] at h
    split at h
    · cases h
    · cases h
    · obtain ⟨rfl, -⟩ := h
      exact .inr ⟨_, _, hcheck, rfl⟩
    · rename_i keys
      split at h
      · cases h
      · split at h
        · cases h
        · obtain ⟨rfl, -⟩ := h
          have hus := units8_consecutive (locOf ea) n
          exact .inl ⟨keys, w, hcheck, w.readUnits_lt hus keys, fun p hp => (w.readUnits_cut hus keys p hp).2⟩

/-- Keys joined with the lengths of units, and then with the units. -/
theorem mem_zip_zip_map {α β γ : Type} {f : β → γ} {ks : List α} {us : List β} {p : (α × γ) × β} (h : p ∈ (ks.zip (us.map f)).zip us) :
    (p.1.1, p.2) ∈ ks.zip us ∧ p.1.2 = f p.2 := by
  induction us generalizing ks with
  | nil => simp at h
  | cons u us ih =>
    cases ks with
    | nil => simp at h
    | cons k ks =>
      rcases List.mem_cons.1 h with rfl | hrest
      · exact ⟨.head _, rfl⟩
      · exact (ih hrest).imp_left (.tail _)

/-- R79, R345: a read gives bytes where nothing holds it back and no unit has an uncorrectable error. -/
theorem engineRead_gives_bytes {s : State} {sp : Space} {who : Tid} {upto : Nat} {ea : Word} {n : Nat} {keys : List Nat} {w : State}
    (hcheck : s.engineCheck sp ea n false = (.ok keys, w))
    (hfree : ∀ p ∈ keys.zip (units8 (locOf ea) n), w.storePending who upto p.1 p.2.2 = false ∧ w.engineHeld p.1 = false ∧
      w.poisoned (w.mapKey p.1) p.2.2 = false) :
    ∃ v u, s.engineRead sp who upto ea n = (.bytes v, u) := by
  set units := units8 (locOf ea) n with hunits
  have hheld : (keys.zip (units.map (·.2))).any (fun u => w.storePending who upto u.1 u.2 || w.engineHeld u.1) = false := by
    rw [List.zip_map_right, List.any_map, List.any_eq_false]
    intro p hp
    obtain ⟨hpending, hengine, -⟩ := hfree p hp
    simp [hpending, hengine]
  have hpoison : ((keys.zip (units.map (·.2))).zip units).find? (fun u => w.poisoned (w.mapKey u.1.1) u.1.2) = none := by
    rw [List.find?_eq_none]
    intro p hp
    obtain ⟨hmem, hlen⟩ := mem_zip_zip_map hp
    obtain ⟨-, -, hclean⟩ := hfree _ hmem
    simp [hlen, hclean]
  unfold State.engineRead
  simp only [hcheck, ← hunits, hheld, hpoison]
  exact ⟨_, _, rfl⟩

/-- Reads that all gave bytes were made in turn. -/
theorem readsInTurn_engineReads {who : Tid} {upto : Nat} {reads : List (Word × Nat)} {l : List Nat} {s u : State}
    (h : s.engineReads who upto reads = (.ok l, u)) : ReadsInTurn who upto reads l s u := by
  induction reads generalizing s l with
  | nil => obtain ⟨rfl, rfl⟩ := h; exact ⟨rfl, rfl⟩
  | cons p rest ih =>
    unfold State.engineReads at h
    cases hread : s.engineRead (.grid who.grid) who upto p.1 p.2 with
    | mk answer w =>
      simp only [hread] at h
      split at h
      · rename_i v
        cases hrest : w.engineReads who upto rest with
        | mk answers x =>
          simp only [hrest] at h
          split at h
          · rename_i left
            obtain ⟨rfl, rfl⟩ := h
            exact ⟨v, w, left, rfl, hread, ih hrest⟩
          · rename_i hne
            obtain ⟨rfl, rfl⟩ := h
            exact absurd rfl (hne l)
      · cases h

theorem ReadsInTurn.length {who : Tid} {upto : Nat} {reads : List (Word × Nat)} {l : List Nat} {s u : State}
    (h : ReadsInTurn who upto reads l s u) : l.length = reads.length := by
  induction reads generalizing s l with
  | nil => rw [h.1]; rfl
  | cons p rest ih =>
    obtain ⟨v, w, left, rfl, -, hrest⟩ := h
    rw [List.length_cons, ih hrest, List.length_cons]

theorem enginesReadMemory : EnginesReadMemory := fun _ _ _ _ =>
  ⟨fun _ _ _ _ h => bytesOf_engineRead h, fun _ _ _ _ hcheck hfree => engineRead_gives_bytes hcheck hfree,
    fun _ _ _ h => readsInTurn_engineReads h⟩

end Sys2Proof.Claims

/-! SUPPORT. The sums of matrix commands (R97, R98): lists cut into groups, and a group as the indices that the claims give it. -/

namespace Sys2Proof.Machine

open Sys2Proof.Claims

/-! ### Groups -/

theorem chunksOf_eq_map_range {α : Type} {n fuel : Nat} (hn : 0 < n) {l : List α} (hfuel : l.length ≤ fuel) :
    chunksOf n fuel l = (List.range ((l.length + (n - 1)) / n)).map fun g => (l.drop (n * g)).take n := by
  induction fuel generalizing l with
  | zero =>
    rw [List.eq_nil_of_length_eq_zero (Nat.le_zero.1 hfuel), List.length_nil, Nat.zero_add, Nat.div_eq_of_lt (by omega)]
    rfl
  | succ fuel ih =>
    unfold chunksOf
    split
    · rename_i hnil
      rw [List.isEmpty_iff.1 hnil, List.length_nil, Nat.zero_add, Nat.div_eq_of_lt (by omega)]
      rfl
    · rename_i hne
      have hpos : 0 < l.length := List.length_pos_iff.2 fun h => hne (by rw [h]; rfl)
      have hcount : (l.length + (n - 1)) / n = ((l.drop n).length + (n - 1)) / n + 1 := by
        rw [List.length_drop, ← Nat.add_div_right _ hn]
        by_cases hle : n ≤ l.length
        · congr 1; omega
        · rw [show l.length - n + (n - 1) + n = n - 1 + n by omega, Nat.add_div_right _ hn, Nat.div_eq_of_lt (Nat.sub_lt hn Nat.one_pos)]
          exact Nat.div_eq_of_lt_le (by omega) (by omega)
      rw [ih (by rw [List.length_drop]; omega), hcount, List.range_succ_eq_map, List.map_cons, List.map_map]
      congr 1
      refine List.map_congr_left fun g _ => ?_
      rw [Function.comp_apply, List.drop_drop, Nat.mul_succ, Nat.add_comm]

/-- A group of a list of K is made of the indices below K that fall into it. -/
theorem range_drop_take {n : Nat} (hn : 0 < n) (K g : Nat) : ((List.range K).drop (n * g)).take n = (List.range K).filter fun k => k / n == g := by
  induction K with
  | zero => rw [List.range_zero, List.drop_nil, List.take_nil, List.filter_nil]
  | succ K ih =>
    rw [List.range_succ, List.drop_append, List.take_append, ih, List.filter_append, List.length_drop, List.length_range]
    congr 1
    have hin : K / n = g ↔ n * g ≤ K ∧ K < n * g + n := by
      rw [Nat.div_eq_iff hn, Nat.mul_comm n g]
      omega
    by_cases h : K / n = g
    · obtain ⟨hle, hlt⟩ := hin.1 h
      rw [Nat.sub_eq_zero_of_le hle, List.drop_zero, List.take_of_length_le (by simp; omega)]
      simp [h]
    · by_cases hle : n * g ≤ K
      · rw [show n - (K - n * g) = 0 by have := mt hin.2 h; omega, List.take_zero]
        simp [h]
      · rw [List.drop_eq_nil_of_le (by simp; omega), List.take_nil]
        simp [h]

theorem chunk_eq_filter {α : Type} {n : Nat} (hn : 0 < n) (K g : Nat) (p : Nat → α) :
    (((List.range K).map p).drop (n * g)).take n = ((List.range K).filter fun k => k / n == g).map p := by
  rw [← List.map_drop, ← List.map_take, range_drop_take hn]

/-! ### One rounding for each group of 16, and INT8 (R97) -/

theorem sumGroups_eq_plainSum {view : Nat} (hview : view ≠ 4) (K acc : Nat) (p : Nat → FV) :
    sumGroups acc ((List.range K).map p) = plainSum view K acc p := by
  unfold sumGroups plainSum
  rw [if_neg hview, chunksOf_eq_map_range (by decide) (Nat.le_refl _), List.foldl_map, List.length_map, List.length_range]
  simp only [chunk_eq_filter (show 0 < 16 by decide)]
  rfl

/-- Values without an exponent: integers. -/
def FV.IsInt : FV → Prop
  | .fin _ _ e => e = 0
  | _ => False

theorem FV.IsInt.mul {a b : FV} (ha : a.IsInt) (hb : b.IsInt) : (a.mul b).IsInt := by
  match a, b, ha, hb with
  | .fin _ _ e, .fin _ _ f, ha, hb => exact (congrArg₂ (· + ·) ha hb).trans (Int.add_zero 0)

/-- The integer of such a value, as the claims write it. -/
def intOf (v : FV) : Int := match v with | .fin n m _ => if n then -(m : Int) else m | _ => 0

theorem minExp_zero {l : List FV} (h : ∀ v ∈ l, v.IsInt) : minExp l 0 = 0 := by
  induction l with
  | nil => rfl
  | cons v l ih =>
    obtain ⟨hv, hl⟩ := List.forall_mem_cons.1 h
    match v, hv with
    | .fin n m _, rfl => unfold minExp; simpa using ih hl

/-- The least exponent of integers is 0, unless they are all zero. -/
theorem minExp_of_isInt {l : List FV} (h : ∀ v ∈ l, v.IsInt) {d : Int} (hd : 0 < d) : minExp l d = 0 ∨ ∀ v ∈ l, v.isZero = true := by
  induction l with
  | nil => exact .inr (by simp)
  | cons v l ih =>
    obtain ⟨hv, hl⟩ := List.forall_mem_cons.1 h
    match v, hv with
    | .fin n m _, rfl =>
      unfold minExp
      by_cases hm : m = 0
      · rw [if_pos hm]
        refine (ih hl).imp_right fun hzero => List.forall_mem_cons.2 ⟨?_, hzero⟩
        rw [hm]
        rfl
      · rw [if_neg hm, if_pos hd]
        exact .inl (minExp_zero hl)

theorem sumAt_of_isInt {l : List FV} (h : ∀ v ∈ l, v.IsInt) : sumAt 0 l = (l.map intOf).sum := by
  induction l with
  | nil => rfl
  | cons v l ih =>
    obtain ⟨hv, hl⟩ := List.forall_mem_cons.1 h
    match v, hv with
    | .fin n m _, rfl =>
      rw [sumAt, ih hl, List.map_cons, List.sum_cons]
      congr 1
      by_cases hm : m = 0 <;> simp [intOf, signedAt, hm]

theorem sumAt_of_isZero {l : List FV} (h : ∀ v ∈ l, v.isZero = true) (base : Int) : sumAt base l = 0 ∧ (l.map intOf).sum = 0 := by
  induction l with
  | nil => exact ⟨rfl, rfl⟩
  | cons v l ih =>
    obtain ⟨hv, hl⟩ := List.forall_mem_cons.1 h
    obtain ⟨hsum, hints⟩ := ih hl
    match v, hv with
    | .fin n m _, hv =>
      have hm : m = 0 := by simpa [FV.isZero] using hv
      rw [sumAt, hsum, List.map_cons, List.sum_cons, hints]
      simp [intOf, hm]

theorem fvInt_ofInt (v : Int) : fvInt (.ofInt v 0) = v := by
  unfold FV.ofInt fvInt signedAt
  by_cases h : v < 0
  · simp [h, abs_of_neg h]
  · simp [h, abs_of_nonneg (Int.not_lt.1 h)]

theorem fvInt_zero (n : Bool) : fvInt (.fin n 0 0) = 0 := by cases n <;> rfl

/-- The exact sum of integers is theirs. -/
theorem fvInt_sumFV {l : List FV} (h : ∀ v ∈ l, v.IsInt) : fvInt (sumFV false l) = (l.map intOf).sum := by
  have hnone : ∀ x : FV, ¬ x.IsInt → l.any (· == x) = false := fun x hx =>
    List.any_eq_false.2 fun v hv => by simpa using fun e : v = x => hx (e ▸ h v hv)
  unfold sumFV
  simp only [hnone .nan id, hnone (.inf false) id, hnone (.inf true) id, Bool.false_eq_true, if_false]
  rcases minExp_of_isInt h (show (0 : Int) < 2000 by decide) with hbase | hzero
  · rw [hbase, ← sumAt_of_isInt h]
    split
    · rename_i hsum
      rw [hsum, fvInt_zero]
    · exact fvInt_ofInt _
  · obtain ⟨hsum, hints⟩ := sumAt_of_isZero hzero (minExp l 2000)
    rw [if_pos hsum, fvInt_zero, hints]

theorem toInt_ofNat_eq_signed32 {x : Nat} (hx : x < 2 ^ 32) : (BitVec.ofNat 32 x).toInt = signed32 x := by
  rw [BitVec.toInt_eq_toNat_cond, BitVec.toNat_ofNat, Nat.mod_eq_of_lt hx]
  unfold signed32
  split <;> split <;> omega

theorem sumInts_eq_plainSum {K acc : Nat} (hacc : acc < 2 ^ 32) {p : Nat → FV} (hp : ∀ k < K, (p k).IsInt) :
    sumInts acc ((List.range K).map p) = plainSum 4 K acc p := by
  have hsum : fvInt (sumFV false ((List.range K).map p)) = ((List.range K).map fun k => intOf (p k)).sum := by
    rw [fvInt_sumFV (by simpa using hp), List.map_map]
    rfl
  unfold sumInts plainSum
  rw [hsum, if_pos rfl]
  show (BitVec.ofInt 32 ((BitVec.ofNat 32 acc).toInt + _)).toNat = _
  rw [toInt_ofNat_eq_signed32 hacc]
  rfl

/-! ### Blocks with scales (R98) -/

theorem filter_range_lt (n m : Nat) : (List.range n).filter (fun g => decide (g < m)) = List.range (min n m) := by
  induction n with
  | zero => simp
  | succ n ih =>
    rw [List.range_succ, List.filter_append, ih]
    by_cases h : n < m
    · rw [show min (n + 1) m = n + 1 by omega, show min n m = n by omega, List.range_succ]
      simp [h]
    · rw [show min (n + 1) m = min n m by omega]
      simp [h]

/-- The groups of a block, from the whole row. -/
theorem innerSum_block (K kb : Nat) (p : Nat → Option FV) :
    (let b := (((List.range K).map p).drop (128 * kb)).take 128
     innerSum ((chunksOf 32 b.length b).map fun g => g.filterMap id)) = innerOf K kb p := by
  dsimp only
  set b := (((List.range K).map p).drop (128 * kb)).take 128 with hb
  have hlen : b.length = min 128 (K - 128 * kb) := by simp [hb]
  have hgroups : (List.range 4).filter (fun g => decide (128 * kb + 32 * g < K)) = List.range ((b.length + 31) / 32) := by
    rw [show (fun g => decide (128 * kb + 32 * g < K)) = fun g => decide (g < (K - 128 * kb + 31) / 32) by
      funext g; exact decide_eq_decide.2 (by omega), filter_range_lt]
    congr 1
    omega
  have hgroup : ∀ g, g < 4 → ((b.drop (32 * g)).take 32).filterMap id =
      ((List.range K).filter fun k => k / 128 == kb && k % 128 / 32 == g).filterMap p := by
    intro g hg
    have hcut : (b.drop (32 * g)).take 32 = (((List.range K).map p).drop (32 * (4 * kb + g))).take 32 := by
      rw [hb, List.drop_take, List.take_take, List.drop_drop]
      congr 2 <;> omega
    rw [hcut, chunk_eq_filter (by decide), List.filterMap_map, Function.id_comp]
    congr 1
    refine List.filter_congr fun k _ => ?_
    rw [Bool.eq_iff_iff]
    simp only [beq_iff_eq, Bool.and_eq_true]
    omega
  unfold innerSum innerOf
  rw [chunksOf_eq_map_range (by decide) (Nat.le_refl _), hgroups, List.map_map, List.foldl_map]
  refine List.foldl_ext _ _ _ fun a g hg => ?_
  rw [Function.comp_apply, hgroup g (by rw [List.mem_range] at hg; omega)]

/-- R98 block by block, the scales taken by their number. -/
theorem sumBlocks_map_range (n : Nat) (f : Nat → List (List FV)) (sa sb : List Nat) (acc : Nat × Bool) :
    sumBlocks ((List.range n).map f) sa sb acc =
      (List.range n).foldl (fun a kb => (promote a.1 (innerSum (f kb)).1 (sa.getD kb 0) (sb.getD kb 0), a.2 || (innerSum (f kb)).2)) acc := by
  induction n generalizing f sa sb acc with
  | zero => rfl
  | succ n ih =>
    rw [List.range_succ_eq_map, List.map_cons, List.map_map, sumBlocks, ih, List.foldl_cons, List.foldl_map]
    have hdrop : ∀ l : List Nat, ∀ kb, (l.drop 1).getD kb 0 = l.getD (kb + 1) 0 := by simp [List.getD]
    have hhead : ∀ l : List Nat, l.headD 0 = l.getD 0 0 := fun l => by cases l <;> rfl
    simp only [hdrop, hhead, Function.comp_apply, Nat.succ_eq_add_one]

/-- A promotion in the words of the claims. -/
theorem promote_eq (acc : Nat) (p : FV) (sa sb : Nat) :
    promote acc p sa sb = single [singleValue acc, singleValue (singleProduct (singleValue (singleProduct p (singleValue sa))) (singleValue sb))] :=
  rfl

theorem sumBlocks_eq_scaledSum (K acc : Nat) (p : Nat → Option FV) (sa sb : List Nat) :
    (let ps := (List.range K).map p
     sumBlocks ((chunksOf 128 ps.length ps).map fun b => (chunksOf 32 b.length b).map fun g => g.filterMap id) sa sb (acc, false)) =
      scaledSum K acc p (fun kb => sa.getD kb 0) (fun kb => sb.getD kb 0) := by
  dsimp only
  rw [chunksOf_eq_map_range (by decide) (Nat.le_refl _), List.map_map, sumBlocks_map_range, List.length_map, List.length_range]
  simp only [Function.comp_apply, innerSum_block, promote_eq]
  rfl

theorem scaledSum_congr {K : Nat} {sa sa' sb sb' : Nat → Nat} (ha : ∀ kb < (K + 127) / 128, sa kb = sa' kb)
    (hb : ∀ kb < (K + 127) / 128, sb kb = sb' kb) (acc : Nat) (p : Nat → Option FV) : scaledSum K acc p sa sb = scaledSum K acc p sa' sb' := by
  refine List.foldl_ext _ _ _ fun a kb hkb => ?_
  rw [List.mem_range] at hkb
  rw [ha kb hkb, hb kb hkb]

end Sys2Proof.Machine

/-! SUPPORT. A matrix record as the unit reads it (R119, R120, R193, R197): its fields, what a row reads, the row of A along K, and the
elements of a row of the result. -/

namespace Sys2Proof.Machine

open Sys2Proof.Claims

/-! ### Fields of the header and the strides (R119, R120) -/

theorem MRec.kind_eq (r : MRec) : r.kind = (r.words.getD 0 0).toNat % 256 := by
  show (r.words.getD 0 0).toNat / 2 ^ 0 % 2 ^ 8 = _
  rw [Nat.pow_zero, Nat.div_one]
  rfl

theorem MRec.m_eq (r : MRec) : r.m = rowsOfRec r := rfl
theorem MRec.n_eq (r : MRec) : r.n = colsOfRec r := rfl
theorem MRec.k_eq (r : MRec) : r.k = innerOfRec r := rfl
theorem MRec.tc_eq (r : MRec) : r.tc = tileOfRec r := rfl

/-- A bit of a word, as the model cuts it out. -/
theorem bits_beq_one (x : Word) (i : Nat) : (bits x i i == 1) = x.getLsbD i := by
  unfold bits
  rw [Nat.add_sub_cancel_left, Nat.pow_one, BitVec.getLsbD, Nat.testBit_eq_decide_div_mod_eq]
  rfl

theorem MRec.z_eq (r : MRec) : r.z = zeroOfRec r := bits_beq_one _ _
theorem MRec.sc_eq (r : MRec) : r.sc = (r.words.getD 0 0).getLsbD 14 := bits_beq_one _ _

theorem MRec.ns_eq (r : MRec) : r.ns = presentOfRec r := by
  unfold MRec.ns presentOfRec MRec.sp MRec.h MRec.w
  rw [bits_beq_one]

theorem MRec.whole_eq (r : MRec) : r.whole = wholeTile r := by
  unfold MRec.whole wholeTile
  rw [MRec.z_eq, MRec.m_eq, MRec.n_eq]

theorem MRec.blocks_eq (r : MRec) : r.blocks = (innerOfRec r + 127) / 128 := rfl

theorem MRec.stride_toNat (r : MRec) (j : Nat) : (r.stride j).toNat = strideOfRec r j := by
  unfold MRec.stride bits strideOfRec MRec.w
  rw [BitVec.toNat_ofNat, show 16 * j + 15 + 1 - 16 * j = 16 by omega]
  exact Nat.mod_eq_of_lt ((Nat.mod_lt _ (by decide)).trans (by decide))

/-- N is at most 64 (R119). -/
theorem colsOfRec_le (r : MRec) : colsOfRec r ≤ 64 := by
  unfold colsOfRec
  have := Nat.mod_lt ((r.words.getD 0 0).toNat / 2 ^ 24) (show 0 < 64 by decide)
  omega

theorem innerOfRec_le (r : MRec) : innerOfRec r ≤ 2 ^ 16 := by
  unfold innerOfRec
  have := Nat.mod_lt ((r.words.getD 0 0).toNat / 2 ^ 32) (show 0 < 2 ^ 16 by decide)
  omega

theorem strideAddr_eq (base stride : Word) (i : Nat) : strideAddr base stride i = effAddr base ((stride.toNat * i : Nat) : Int) := by
  rw [strideAddr, Nat.cast_mul]

/-! ### Operands that fit (R193, R332) -/

/-- The views of the operands and the type of the accumulator, as R193 pairs them; K a multiple of 32 for a compressed A (R197). -/
structure OperandsFit (s : State) (r : MRec) : Prop where
  sameView : viewOf (r.w 2) = viewOfRec r
  view : viewOfRec r = 1 ∨ viewOfRec r = 2 ∨ viewOfRec r = 3 ∨ viewOfRec r = 4
  scaledView : r.scaled = true ↔ viewOfRec r = 1
  type : s.tileType r.tid r.tc = if viewOfRec r = 4 then 2 else 0
  groups : r.kind = 3 → innerOfRec r % 32 = 0

theorem MRec.tcType_some {r : MRec} {ty : Nat} (h : r.tcType = some ty) :
    viewOf (r.w 2) = viewOfRec r ∧ (viewOfRec r = 1 ∨ viewOfRec r = 2 ∨ viewOfRec r = 3 ∨ viewOfRec r = 4) ∧
    (r.scaled = true ↔ viewOfRec r = 1) ∧ ty = if viewOfRec r = 4 then 2 else 0 := by
  unfold MRec.tcType at h
  change (if viewOfRec r ≠ viewOf (r.w 2) then none else _) = _ at h
  by_cases hsame : viewOfRec r = viewOf (r.w 2)
  · rw [if_neg (not_not_intro hsame)] at h
    refine ⟨hsame.symm, ?_⟩
    change (if r.scaled then (if viewOfRec r = 1 then some 0 else none) else if viewOfRec r = 2 ∨ viewOfRec r = 3 then some 0
      else if viewOfRec r = 4 then some 2 else none) = _ at h
    by_cases hscaled : r.scaled = true
    · rw [if_pos hscaled] at h
      by_cases h1 : viewOfRec r = 1
      · simp [h1, hscaled] at h ⊢; exact h.symm
      · simp [h1] at h
    · rw [if_neg hscaled] at h
      by_cases h23 : viewOfRec r = 2 ∨ viewOfRec r = 3
      · rw [if_pos h23] at h
        rcases h23 with h2 | h2 <;> simp [h2, hscaled] at h ⊢ <;> exact h.symm
      · rw [if_neg h23] at h
        by_cases h4 : viewOfRec r = 4
        · simp [h4, hscaled] at h ⊢; exact h.symm
        · simp [h4] at h
  · rw [if_pos hsame] at h
    cases h

theorem operandsFit_of_recBad_none {s : State} {r : MRec} (hkind : r.kind ≤ 4) (h : s.recBad r = none) : OperandsFit s r := by
  unfold State.recBad at h
  split at h
  · cases h
  · split at h
    · cases h
    · dsimp only at h
      split at h
      · cases h
      · split at h
        · cases h
        · rename_i htype
          split at h
          · cases h
          · rename_i hgroups
            have hsome : r.tcType = some (s.tileType r.tid r.tc) := not_not.1 fun hne => htype ⟨hkind, hne⟩
            obtain ⟨hsame, hview, hscaled, hty⟩ := MRec.tcType_some hsome
            exact ⟨hsame, hview, hscaled, hty, fun h3 => not_not.1 fun hne => hgroups ⟨h3, hne⟩⟩

/-- The size of an operand's elements. -/
theorem OperandsFit.viewSize {s : State} {r : MRec} (h : OperandsFit s r) :
    viewSize (viewOf (r.w 1)) = (Elem.ofView (viewOfRec r)).size ∧ viewSize (viewOf (r.w 2)) = (Elem.ofView (viewOfRec r)).size := by
  have hne : viewOfRec r ≠ 0 := by rcases h.view with h | h | h | h <;> rw [h] <;> decide
  rw [h.sameView]
  exact ⟨if_neg hne, if_neg hne⟩

/-! ### What a row reads (R99, R194, R197) -/

theorem OperandsFit.rowReads {s : State} {r : MRec} (h : OperandsFit s r) (i : Nat) :
    r.rowReads i = readsOfRow r r.kind r.scaled i := by
  obtain ⟨hA, hB⟩ := h.viewSize
  have hmask : (BitVec.ofNat 64 (4 * (r.k / 32))).toNat = 4 * (r.k / 32) := by
    rw [BitVec.toNat_ofNat]
    refine Nat.mod_eq_of_lt ?_
    have := innerOfRec_le r
    rw [← MRec.k_eq] at this
    omega
  unfold MRec.rowReads readsOfRow MRec.aBytes MRec.sbReads MRec.bReads
  simp only [strideAddr_eq, MRec.stride_toNat, hmask, hA, hB, MRec.ns_eq]
  rfl

end Sys2Proof.Machine

/-! SUPPORT. The row of A along K, and the elements of a row of the result (R196, R197). -/

namespace Sys2Proof.Machine

open Sys2Proof.Claims

/-! ### A compressed row of A (R197) -/

/-- The set bits of a mask below a place. -/
def rankIn (mask p : Nat) : Nat := ((List.range p).filter fun q => mask.testBit q).length

theorem bitCount_eq (mask : Nat) : bitCount mask = rankIn mask 32 := by
  unfold bitCount rankIn
  simp only [Nat.testBit_eq_decide_div_mod_eq]

/-- The set bits of a mask among `i` places from `p` on. -/
def rankFrom (mask p i : Nat) : Nat := ((List.range i).filter fun q => mask.testBit (p + q)).length

theorem rankFrom_zero (mask i : Nat) : rankFrom mask 0 i = rankIn mask i := by
  unfold rankFrom rankIn
  simp only [Nat.zero_add]

theorem rankFrom_succ (mask p i : Nat) : rankFrom mask p (i + 1) = (if mask.testBit p then 1 else 0) + rankFrom mask (p + 1) i := by
  have hnext : (fun q => mask.testBit (p + q)) ∘ Nat.succ = fun q => mask.testBit (p + 1 + q) := by
    funext q
    rw [Function.comp_apply, Nat.succ_eq_add_one, Nat.add_right_comm, Nat.add_assoc]
  unfold rankFrom
  rw [List.range_succ_eq_map, List.filter_cons, List.filter_map, hnext, Nat.add_zero]
  split
  · rw [List.length_cons, List.length_map, Nat.add_comm]
  · rw [List.length_map, Nat.zero_add]

/-- The element at a place of a group, if its bit is set: present elements stand in their order. -/
def presentAt (mask p : Nat) (l : List Nat) (i : Nat) : Option Nat := if mask.testBit (p + i) then l[rankFrom mask p i]? else none

theorem presentAt_succ (mask p : Nat) (l : List Nat) (i : Nat) :
    presentAt mask p l (i + 1) = presentAt mask (p + 1) (if mask.testBit p then l.drop 1 else l) i := by
  unfold presentAt
  rw [rankFrom_succ, show p + (i + 1) = p + 1 + i by omega]
  by_cases h : mask.testBit p = true
  · rw [if_pos h, if_pos h, List.getElem?_drop]
  · rw [if_neg h, if_neg h, Nat.zero_add]

theorem expandGroup_eq (mask n p : Nat) (l : List Nat) : expandGroup mask n p l = (List.range n).map (presentAt mask p l) := by
  induction n generalizing p l with
  | zero => rfl
  | succ n ih =>
    have hbit : (mask / 2 ^ p % 2 = 1) ↔ mask.testBit p = true := by rw [Nat.testBit_eq_decide_div_mod_eq, decide_eq_true_iff]
    have htail : presentAt mask p l ∘ Nat.succ = presentAt mask (p + 1) (if mask.testBit p then l.drop 1 else l) :=
      funext fun i => presentAt_succ mask p l i
    rw [expandGroup, List.range_succ_eq_map, List.map_cons, List.map_map, htail, ih, ih]
    by_cases h : mask.testBit p = true
    · rw [if_pos (hbit.2 h), if_pos h]
      congr 1
      rw [presentAt, Nat.add_zero, if_pos h, List.head?_eq_getElem?]
      rfl
    · rw [if_neg (mt hbit.1 h), if_neg h]
      congr 1
      rw [presentAt, Nat.add_zero, if_neg h]

/-- The groups of a row side by side. -/
theorem expandRow_eq (ns n : Nat) (mask : Nat → Nat) (l : List Nat) :
    expandRow ns ((List.range n).map mask) l =
      (List.range (32 * n)).map fun k => presentAt (mask (k / 32)) 0 ((l.drop (ns * (k / 32))).take ns) (k % 32) := by
  induction n generalizing mask l with
  | zero => rfl
  | succ n ih =>
    have hlast : ∀ k, (32 + k) / 32 = k / 32 + 1 ∧ (32 + k) % 32 = k % 32 := fun k => by omega
    rw [List.range_succ_eq_map, List.map_cons, List.map_map, expandRow, ih, expandGroup_eq, show 32 * (n + 1) = 32 + 32 * n by omega,
      List.range_add, List.map_append, List.map_map]
    refine congrArg₂ (· ++ ·) (List.map_congr_left fun k hk => ?_) (List.map_congr_left fun k _ => ?_)
    · rw [List.mem_range] at hk
      rw [Nat.div_eq_of_lt hk, Nat.mod_eq_of_lt hk, Nat.mul_zero, List.drop_zero]
    · rw [Function.comp_apply, Function.comp_apply, (hlast k).1, (hlast k).2, List.drop_drop, Nat.mul_succ, Nat.add_comm ns]

theorem rankIn_lt {mask p n : Nat} (hp : p < n) (hbit : mask.testBit p = true) : rankIn mask p < rankIn mask n := by
  have hsub := (List.range_sublist.2 hp).filter fun q => mask.testBit q
  have hle := hsub.length_le
  rw [List.range_succ, List.filter_append, List.length_append, List.filter_singleton, hbit] at hle
  exact hle

theorem elemsOf_getElem? {z n v i : Nat} (h : i < n) : (elemsOf z n v)[i]? = some (piecewise z v i) := by
  simp [elemsOf, h, piecewise]

theorem elemsOf_getD {z n v i : Nat} (h : i < n) : (elemsOf z n v).getD i 0 = piecewise z v i := by
  rw [List.getD, elemsOf_getElem? h]; rfl

theorem elemsOf_eq_map (z n v : Nat) : elemsOf z n v = (List.range n).map (piecewise z v) := rfl

/-- With as many present elements as each mask says, every present place has its element of the row. -/
theorem expandRow_elemsOf {ns n v : Nat} {mask : Nat → Nat} (hmask : ∀ g < n, rankIn (mask g) 32 = ns) :
    expandRow ns ((List.range n).map mask) (elemsOf 1 (n * ns) v) = (List.range (32 * n)).map fun k =>
      if (mask (k / 32)).testBit (k % 32) then some (piecewise 1 v (k / 32 * ns + rankIn (mask (k / 32)) (k % 32))) else none := by
  rw [expandRow_eq]
  refine List.map_congr_left fun k hk => ?_
  rw [List.mem_range] at hk
  unfold presentAt
  rw [rankFrom_zero, Nat.zero_add]
  by_cases hbit : (mask (k / 32)).testBit (k % 32) = true
  · have hgroup : k / 32 < n := by omega
    have hrank := rankIn_lt (Nat.mod_lt k (by decide)) hbit
    rw [hmask _ hgroup] at hrank
    have hplace : ns * (k / 32) + rankIn (mask (k / 32)) (k % 32) < n * ns := by
      calc _ < ns * (k / 32) + ns := Nat.add_lt_add_left hrank _
        _ = (k / 32 + 1) * ns := by ring
        _ ≤ n * ns := Nat.mul_le_mul_right _ hgroup
    rw [if_pos hbit, if_pos hbit, List.getElem?_take_of_lt hrank, List.getElem?_drop, elemsOf_getElem? hplace, Nat.mul_comm ns]
  · rw [if_neg hbit, if_neg hbit]

/-! ### The values of a row (R196) -/

/-- Where the scales of A stand among what a row has read: behind A, and the mask of a compressed one. -/
def scalesAt (kind : Nat) : Nat := if kind = 3 then 2 else 1

/-- Where the rows of B stand: behind the scales. -/
def rowsAt (r : MRec) (kind : Nat) (scaled : Bool) : Nat :=
  scalesAt kind + (if scaled then 1 else 0) + if scaled && r.scalesB.isEmpty then (innerOfRec r + 127) / 128 else 0

/-- Element k of the row of A, where it is present. -/
def elementA (r : MRec) (kind : Nat) (l : List Nat) (k : Nat) : Option Nat :=
  if kind = 3 then
    if (piecewise 4 (l.getD 1 0) (k / 32)).testBit (k % 32) then
      some (piecewise 1 (l.getD 0 0) (k / 32 * presentOfRec r + rankIn (piecewise 4 (l.getD 1 0) (k / 32)) (k % 32)))
    else none
  else some (piecewise (Elem.ofView (viewOfRec r)).size (l.getD 0 0) k)

/-- Element k of column j of B. -/
def elementB (r : MRec) (kind : Nat) (scaled : Bool) (l : List Nat) (j k : Nat) : Nat :=
  piecewise (Elem.ofView (viewOfRec r)).size (l.getD (rowsAt r kind scaled + k) 0) j

/-- The scales of B: read with the row, or held from an earlier one (R99). -/
def scalesOfB (r : MRec) (kind : Nat) (scaled : Bool) (l : List Nat) : List Nat :=
  if scaled && r.scalesB.isEmpty then (List.range ((innerOfRec r + 127) / 128)).map fun kb => l.getD (scalesAt kind + 1 + kb) 0
  else r.scalesB.map (·.toNat)

/-- The product at k, where the element of A is present. -/
def productAt (r : MRec) (kind : Nat) (scaled : Bool) (l : List Nat) (j k : Nat) : Option FV :=
  (elementA r kind l k).map fun x => (viewValue (viewOfRec r) x).mul (viewValue (viewOfRec r) (elementB r kind scaled l j k))

theorem headD_drop (l : List Nat) (n : Nat) : (l.drop n).headD 0 = l.getD n 0 := by
  rw [List.headD_eq_head?_getD, List.head?_drop, List.getD]

theorem take_drop_eq_map {l : List Nat} {n m : Nat} (h : n + m ≤ l.length) :
    (l.drop n).take m = (List.range m).map fun i => l.getD (n + i) 0 := by
  refine List.ext_getElem (by simp; omega) fun i hi _ => ?_
  simp only [List.length_take] at hi
  rw [List.getElem_take, List.getElem_drop, List.getElem_map, List.getElem_range, List.getD_eq_getElem]

theorem MRec.length_rowReads (r : MRec) (i : Nat) : (r.rowReads i).length = rowsAt r r.kind r.scaled + innerOfRec r := by
  unfold MRec.rowReads MRec.sbReads MRec.bReads rowsAt scalesAt
  simp only [List.length_append, List.length_singleton, List.length_map, List.length_range, MRec.blocks_eq, MRec.k_eq]
  congr 1
  split <;> split <;> split <;> simp

/-- The row of A along K. -/
theorem OperandsFit.row_of_A {s : State} {r : MRec} (h : OperandsFit s r) {l : List Nat}
    (hmask : r.kind = 3 → ∀ g < innerOfRec r / 32, rankIn (piecewise 4 (l.getD 1 0) g) 32 = presentOfRec r) :
    (if r.kind = 3 then expandRow r.ns (if r.kind = 3 then elemsOf 4 (r.k / 32) (l.getD 1 0) else []) (elemsOf 1 r.aBytes (l.getD 0 0))
      else (elemsOf (Elem.ofView (viewOfRec r)).size r.k (l.getD 0 0)).map some) = (List.range (innerOfRec r)).map (elementA r r.kind l) := by
  unfold elementA
  by_cases h3 : r.kind = 3
  · have hK : 32 * (innerOfRec r / 32) = innerOfRec r := Nat.mul_div_cancel' (Nat.dvd_of_mod_eq_zero (h.groups h3))
    simp only [if_pos h3]
    rw [MRec.aBytes, if_pos h3, MRec.ns_eq, MRec.k_eq, elemsOf_eq_map 4, expandRow_elemsOf (hmask h3), hK]
  · simp only [if_neg h3]
    rw [elemsOf_eq_map, List.map_map]
    rfl

/-- A row's values from its reads, each mask with as many present elements as it must have. -/
theorem OperandsFit.rowData {s : State} {r : MRec} (h : OperandsFit s r) {l : List Nat}
    (hl : l.length = rowsAt r r.kind r.scaled + innerOfRec r)
    (hmask : r.kind = 3 → ∀ g < innerOfRec r / 32, rankIn (piecewise 4 (l.getD 1 0) g) 32 = presentOfRec r) :
    r.rowData l = .ok
      { a := (List.range (innerOfRec r)).map (elementA r r.kind l)
        sa := if r.scaled then (List.range ((innerOfRec r + 127) / 128)).map (piecewise 4 (l.getD (scalesAt r.kind) 0)) else []
        sb := scalesOfB r r.kind r.scaled l
        b := (List.range (innerOfRec r)).map fun k =>
          elemsOf (Elem.ofView (viewOfRec r)).size (colsOfRec r) (l.getD (rowsAt r r.kind r.scaled + k) 0) } := by
  obtain ⟨hA, hB⟩ := h.viewSize
  have hmasks : (if r.kind = 3 then elemsOf 4 (r.k / 32) (l.getD 1 0) else []).find? (fun m => bitCount m != r.ns) = none := by
    rw [List.find?_eq_none]
    split
    · rename_i h3
      intro m hm
      obtain ⟨g, hg, rfl⟩ := List.mem_map.1 hm
      have := hmask h3 g (List.mem_range.1 hg)
      rw [bitCount_eq, MRec.ns_eq]
      simpa [piecewise] using this
    · simp
  have hbehindMask : (if r.kind = 3 then (l.drop 1).drop 1 else l.drop 1) = l.drop (scalesAt r.kind) := by
    unfold scalesAt
    split
    · rw [List.drop_drop]
    · rfl
  have hbehindScales : (if r.scaled then (l.drop (scalesAt r.kind)).drop 1 else l.drop (scalesAt r.kind)) =
      l.drop (scalesAt r.kind + if r.scaled then 1 else 0) := by
    split
    · rw [List.drop_drop]
    · rfl
  have hrows : (if r.scaled && r.scalesB.isEmpty then (l.drop (scalesAt r.kind + if r.scaled then 1 else 0)).drop r.blocks
      else l.drop (scalesAt r.kind + if r.scaled then 1 else 0)) = (List.range (innerOfRec r)).map fun k => l.getD (rowsAt r r.kind r.scaled + k) 0 := by
    rw [← take_drop_eq_map hl.ge, List.take_of_length_le (by rw [List.length_drop, hl]; omega)]
    unfold rowsAt
    split
    · rw [List.drop_drop, MRec.blocks_eq]
    · rw [Nat.add_zero]
  have hsb : (if r.scaled && r.scalesB.isEmpty then (l.drop (scalesAt r.kind + if r.scaled then 1 else 0)).take r.blocks
      else r.scalesB.map (·.toNat)) = scalesOfB r r.kind r.scaled l := by
    unfold scalesOfB
    by_cases hfresh : (r.scaled && r.scalesB.isEmpty) = true
    · obtain ⟨hscaled, -⟩ := Bool.and_eq_true_iff.1 hfresh
      have hlen : scalesAt r.kind + 1 + (innerOfRec r + 127) / 128 ≤ l.length := by
        rw [hl, rowsAt, if_pos hscaled, if_pos hfresh]
        omega
      rw [if_pos hfresh, if_pos hfresh, if_pos hscaled, MRec.blocks_eq, take_drop_eq_map hlen]
    · rw [if_neg hfresh, if_neg hfresh]
  have hhead : l.headD 0 = l.getD 0 0 := headD_drop l 0
  unfold MRec.rowData
  simp only [hbehindMask, hbehindScales, hrows, hsb, headD_drop, hhead, hA, hB, hmasks]
  rw [h.row_of_A hmask, List.map_map]
  rfl

/-! ### The elements of a row of the result (R196, R97, R98) -/

theorem piecewise_lt (z v n : Nat) : piecewise z v n < 2 ^ (8 * z) := Nat.mod_lt _ (Nat.two_pow_pos _)

/-- The value of an element of an operand. -/
theorem elemVal_eq_viewValue {view x : Nat} (hview : view = 1 ∨ view = 2 ∨ view = 3 ∨ view = 4) (hx : x < 2 ^ (8 * (Elem.ofView view).size)) :
    elemVal (Elem.ofView view) x = viewValue view x := by
  rcases hview with rfl | rfl | rfl | rfl
  · rfl
  · rfl
  · rfl
  · change x < 256 at hx
    show FV.ofInt (BitVec.ofNat 8 x).toInt 0 = FV.fin (decide (128 ≤ x)) (if x < 128 then x else 256 - x) 0
    rw [BitVec.toInt_eq_toNat_cond, BitVec.toNat_ofNat, Nat.mod_eq_of_lt hx, FV.ofInt]
    by_cases hpos : x < 128
    · rw [if_pos (by omega), if_pos hpos, decide_eq_false (by omega), decide_eq_false (by omega), Int.natAbs_natCast]
    · rw [if_neg (by omega), if_neg hpos, decide_eq_true (by omega), decide_eq_true (by omega)]
      congr 1
      omega

theorem viewValue_four_isInt (x : Nat) : (viewValue 4 x).IsInt := rfl

/-- A present element of A has as many bits as its view gives it. -/
theorem OperandsFit.elementA_lt {s : State} {r : MRec} (h : OperandsFit s r) {l : List Nat} {k x : Nat} (hx : elementA r r.kind l k = some x) :
    x < 2 ^ (8 * (Elem.ofView (viewOfRec r)).size) := by
  unfold elementA at hx
  split at hx
  · rename_i h3
    have hview : viewOfRec r = 1 := h.scaledView.1 (by simp [MRec.scaled, h3])
    split at hx
    · obtain rfl := Option.some.inj hx
      rw [hview]
      exact piecewise_lt 1 _ _
    · cases hx
  · obtain rfl := Option.some.inj hx
    exact piecewise_lt _ _ _

theorem OperandsFit.products {s : State} {r : MRec} (h : OperandsFit s r) {l : List Nat} {j : Nat} (hj : j < colsOfRec r) :
    products (Elem.ofView (viewOfRec r)) (Elem.ofView (viewOfRec r)) ((List.range (innerOfRec r)).map (elementA r r.kind l))
      ((List.range (innerOfRec r)).map fun k =>
        elemsOf (Elem.ofView (viewOfRec r)).size (colsOfRec r) (l.getD (rowsAt r r.kind r.scaled + k) 0)) j =
      (List.range (innerOfRec r)).map (productAt r r.kind r.scaled l j) := by
  unfold Machine.products
  rw [List.zip_map', List.map_map]
  refine List.map_congr_left fun k _ => ?_
  rw [Function.comp_apply, elemsOf_getD hj]
  unfold productAt
  refine Option.map_congr fun x hx => ?_
  rw [elemVal_eq_viewValue h.view (h.elementA_lt hx), elemVal_eq_viewValue h.view (piecewise_lt _ _ _)]
  rfl

/-- An element of the result, from the products by their index. -/
theorem resultOf_eq (r : MRec) (kind : Nat) (scaled : Bool) (l : List Nat) (old j : Nat) :
    resultOf r kind scaled l old j =
      if scaled then
        scaledSum (innerOfRec r) (if zeroOfRec r then 0 else old) (productAt r kind scaled l j) (piecewise 4 (l.getD (scalesAt kind) 0))
          fun kb => if r.scalesB.isEmpty then l.getD (scalesAt kind + 1 + kb) 0 else (r.scalesB.getD kb 0).toNat
      else
        (plainSum (viewOfRec r) (innerOfRec r) (if zeroOfRec r then 0 else old) fun k =>
          (viewValue (viewOfRec r) ((elementA r kind l k).getD 0)).mul (viewValue (viewOfRec r) (elementB r kind scaled l j k)), false) := rfl

theorem scalesOfB_getD (r : MRec) (kind : Nat) (l : List Nat) {kb : Nat} (hkb : kb < (innerOfRec r + 127) / 128) :
    (scalesOfB r kind true l).getD kb 0 = if r.scalesB.isEmpty then l.getD (scalesAt kind + 1 + kb) 0 else (r.scalesB.getD kb 0).toNat := by
  unfold scalesOfB
  rw [Bool.true_and]
  split
  · simp [List.getD, hkb]
  · rw [List.getD, List.getElem?_map, List.getD]
    cases r.scalesB[kb]? <;> rfl

theorem resultElem_eq_resultOf (r : MRec) (l : List Nat) {old : Nat} (hold : old < 2 ^ 32) (j : Nat) :
    resultElem r.scaled (viewOfRec r == 4) ((List.range (innerOfRec r)).map (productAt r r.kind r.scaled l j))
      (if r.scaled then (List.range ((innerOfRec r + 127) / 128)).map (piecewise 4 (l.getD (scalesAt r.kind) 0)) else [])
      (scalesOfB r r.kind r.scaled l) (if zeroOfRec r then 0 else old) = resultOf r r.kind r.scaled l old j := by
  rw [resultOf_eq]
  unfold Machine.resultElem
  cases hscaled : r.scaled with
  | true =>
    rw [if_pos rfl, if_pos rfl, if_pos rfl]
    refine (sumBlocks_eq_scaledSum _ _ _ _ _).trans (scaledSum_congr (fun kb hkb => ?_) (fun kb hkb => scalesOfB_getD r _ l hkb) _ _)
    simp [List.getD, hkb]
  | false =>
    have h3 : r.kind ≠ 3 := fun h3 => by simp [MRec.scaled, h3] at hscaled
    have hpresent : ((List.range (innerOfRec r)).map (productAt r r.kind false l j)).filterMap id =
        (List.range (innerOfRec r)).map fun k =>
          (viewValue (viewOfRec r) ((elementA r r.kind l k).getD 0)).mul (viewValue (viewOfRec r) (elementB r r.kind false l j k)) := by
      rw [List.filterMap_map, ← List.filterMap_eq_map]
      refine List.filterMap_congr fun k _ => ?_
      simp [productAt, elementA, h3]
    have hacc : (if zeroOfRec r then 0 else old) < 2 ^ 32 := by split <;> omega
    rw [if_neg Bool.false_ne_true, if_neg Bool.false_ne_true, hpresent]
    by_cases h4 : viewOfRec r = 4
    · rw [if_pos (by rw [h4]; rfl), h4, sumInts_eq_plainSum hacc fun k _ => (viewValue_four_isInt _).mul (viewValue_four_isInt _)]
    · rw [if_neg (by simpa using h4), sumGroups_eq_plainSum h4]

/-! ### Results fit their element -/

theorem Fmt.fp32_withSign_lt (n : Bool) {mag : Nat} (h : mag < 2 ^ 31) : Fmt.fp32.withSign n mag < 2 ^ 32 := by
  have hsign : 2 ^ Fmt.fp32.signPos = 2 ^ 31 := rfl
  unfold Fmt.withSign
  rw [hsign]
  split <;> omega

/-- A rounding to nearest overflows, or gives a finite magnitude with its sign. -/
theorem Fmt.roundFrac_ne_cases (f : Fmt) (n : Bool) (m d : Nat) (e : Int) :
    (f.roundFrac .ne n m d e).1 = f.overflow .ne n ∨ ∃ mag < f.top, (f.roundFrac .ne n m d e).1 = f.withSign n mag := by
  unfold Fmt.roundFrac
  extract_lets ex uFree u r mag free tiny
  by_cases h : f.top ≤ mag
  · rw [if_pos h]
    exact .inl rfl
  · rw [if_neg h]
    exact .inr ⟨mag, Nat.lt_of_not_le h, rfl⟩

theorem Fmt.fp32_ne_lt (v : FV) : Fmt.fp32.ne v < 2 ^ 32 := by
  have htop : Fmt.fp32.top < 2 ^ 31 := by decide
  cases v with
  | nan => decide
  | inf n => exact Fmt.fp32_withSign_lt n htop
  | fin n m e =>
    by_cases hm : m = 0
    · rw [Fmt.ne, Fmt.round, if_pos hm]
      exact Fmt.fp32_withSign_lt n (by decide)
    · rw [Fmt.ne, Fmt.round, if_neg hm]
      rcases Fmt.fp32.roundFrac_ne_cases n m 1 e with h | ⟨mag, hmag, h⟩
      · rw [h]
        exact Fmt.fp32_withSign_lt n htop
      · rw [h]
        exact Fmt.fp32_withSign_lt n (hmag.trans htop)

theorem single_lt (l : List FV) : single l < 2 ^ 32 := Fmt.fp32_ne_lt _

theorem resultOf_lt (r : MRec) (kind : Nat) (scaled : Bool) (l : List Nat) {old : Nat} (hold : old < 2 ^ 32) (j : Nat) :
    (resultOf r kind scaled l old j).1 < 2 ^ 32 := by
  have hacc : (if zeroOfRec r then 0 else old) < 2 ^ 32 := by split <;> omega
  rw [resultOf_eq]
  split
  · exact List.foldlRecOn (motive := fun a : Nat × Bool => a.1 < 2 ^ 32) _ _ hacc fun _ _ _ _ => single_lt _
  · unfold plainSum
    dsimp only
    split
    · exact BitVec.isLt _
    · exact List.foldlRecOn (motive := fun a : Nat => a < 2 ^ 32) _ _ hacc fun _ _ _ _ => single_lt _

end Sys2Proof.Machine

/-! SUPPORT. A row of a multiplying command (R173, R195, R196, R345): the row of the tile, the tile, the record, and the statement assembled
from them. -/

namespace Sys2Proof.Machine

open Sys2Proof.Claims

/-! ### Rows with elements replaced (R169) -/

theorem packElems_lt (z : Nat) (l : List Nat) : packElems z l < 2 ^ (8 * z * l.length) := by
  induction l with
  | nil => exact Nat.one_pos
  | cons x l ih =>
    rw [List.length_cons, Nat.mul_succ, Nat.add_comm]
    exact add_two_pow_mul_lt (Nat.mod_lt x (Nat.two_pow_pos (8 * z))) ih

/-- An element of packed ones, whatever stands above them. -/
theorem packElems_cut {z : Nat} {l : List Nat} (hl : ∀ x ∈ l, x < 2 ^ (8 * z)) (above : Nat) {j : Nat} (hj : j < l.length) :
    (packElems z l + above * 2 ^ (8 * z * l.length)) / 2 ^ (8 * z * j) % 2 ^ (8 * z) = l.getD j 0 := by
  induction l generalizing j with
  | nil => cases hj
  | cons x l ih =>
    obtain ⟨hx, hrest⟩ := List.forall_mem_cons.1 hl
    have hsplit : packElems z (x :: l) + above * 2 ^ (8 * z * (x :: l).length) =
        x + 2 ^ (8 * z) * (packElems z l + above * 2 ^ (8 * z * l.length)) := by
      rw [packElems, Nat.mod_eq_of_lt hx, List.length_cons, Nat.mul_succ, Nat.pow_add]
      ring
    rw [hsplit]
    cases j with
    | zero => rw [Nat.mul_zero, Nat.pow_zero, Nat.div_one, Nat.add_mul_mod_self_left, Nat.mod_eq_of_lt hx]; rfl
    | succ j =>
      rw [Nat.mul_succ, Nat.add_comm (8 * z * j), Nat.pow_add, ← Nat.div_div_eq_div_mul, Nat.add_mul_div_left _ _ (Nat.two_pow_pos _),
        Nat.div_eq_of_lt hx, Nat.zero_add, ih hrest (Nat.lt_of_succ_lt_succ hj)]
      rfl

theorem toNat_ofNat_of_lt {w x : Nat} (h : x < 2 ^ w) : (BitVec.ofNat w x).toNat = x := Nat.mod_eq_of_lt h

/-- An element of a row with its first elements replaced. -/
theorem elemAt_rowWith {z : Nat} {l : List Nat} (hl : ∀ x ∈ l, x < 2 ^ (8 * z)) (hfit : 8 * z * l.length ≤ 2048) (old : Row) (j : Nat) :
    elemAt (rowWith old z l) z j = if j < l.length then l.getD j 0 else elemAt old z j := by
  have hpack := packElems_lt z l
  have hvalue : (rowWith old z l).toNat = packElems z l + old.toNat / 2 ^ (8 * z * l.length) * 2 ^ (8 * z * l.length) := by
    have habove : old.toNat / 2 ^ (8 * z * l.length) < 2 ^ (2048 - 8 * z * l.length) := by
      rw [Nat.div_lt_iff_lt_mul (Nat.two_pow_pos _), ← Nat.pow_add, Nat.sub_add_cancel hfit]
      exact old.isLt
    have hlt := add_two_pow_mul_lt hpack habove
    rw [Nat.add_sub_cancel' hfit, Nat.mul_comm] at hlt
    exact toNat_ofNat_of_lt hlt
  unfold elemAt
  rw [hvalue]
  split
  · rename_i hj
    exact packElems_cut hl _ hj
  · rename_i hj
    have hplace : 8 * z * j = 8 * z * l.length + 8 * z * (j - l.length) := by rw [← Nat.mul_add, Nat.add_sub_cancel' (Nat.le_of_not_lt hj)]
    rw [hplace, Nat.pow_add, ← Nat.div_div_eq_div_mul, ← Nat.div_div_eq_div_mul, Nat.add_mul_div_right _ _ (Nat.two_pow_pos _),
      Nat.div_eq_of_lt hpack, Nat.zero_add]

/-- Elements of 4 bytes: FP32 and INT32 (R169). -/
theorem Elem.size_ofType {ty : BitVec 2} (h : ty.toNat = 0 ∨ ty.toNat = 2) : (Elem.ofType ty).size = 4 ∧ elemBytes ty = 4 := by
  unfold Elem.ofType elemBytes
  rcases h with h | h <;> rw [h] <;> exact ⟨rfl, rfl⟩

theorem element_lt {ty : BitVec 2} (h : ty.toNat = 0 ∨ ty.toNat = 2) (row : Row) (j : Nat) : element ty row j < 2 ^ 32 := by
  rw [element, (Elem.size_ofType h).2]
  exact Nat.mod_lt _ (Nat.two_pow_pos _)

theorem rowElems_getD (row : Row) (e : Elem) {j : Nat} (h : j < e.count) : (rowElems row e).getD j 0 = elemAt row e.size j := by
  simp [rowElems, List.getD, h]

/-! ### The tile of a record (R173, R345) -/

theorem State.team?_modTeam_self {s : State} {g l : Nat} {x : Team} (h : s.team? g l = some x) (f : Team → Team)
    (hf : ∀ y : Team, (f y).grid = y.grid ∧ (f y).lteam = y.lteam) : (s.modTeam g l f).team? g l = some (f x) := by
  have hkey := List.find?_some h
  unfold State.team? State.modTeam at *
  have hcond : ((fun t : Team => t.grid == g && t.lteam == l) ∘ fun y => if y.grid = g ∧ y.lteam = l then f y else y) =
      fun t => t.grid == g && t.lteam == l := by
    funext y
    rw [Function.comp_apply]
    split
    · rw [(hf y).1, (hf y).2]
    · rfl
  rw [List.find?_map, hcond, h, Option.map_some]
  congr 1
  exact if_pos (by simpa using hkey)

theorem State.tileOf?_setTileOf {s : State} {id : Tid} {n : Nat} {z : Tile} (h : s.tileOf? id n = some z) (y : Tile) :
    (s.setTileOf id n y).tileOf? id n = some y := by
  unfold State.tileOf? State.teamD at *
  cases hteam : s.team? id.grid id.team with
  | none => simp [hteam, Team.vacant] at h
  | some x =>
    rw [hteam] at h
    obtain ⟨hn, -⟩ := List.getElem?_eq_some_iff.1 h
    have hnew := State.team?_modTeam_self hteam (fun t => { t with tiles := t.tiles.set n y }) fun _ => ⟨rfl, rfl⟩
    unfold State.setTileOf
    rw [hnew]
    exact List.getElem?_set_self hn

theorem State.setTileOf_setTileOf (s : State) (id : Tid) (n : Nat) (x y : Tile) :
    (s.setTileOf id n x).setTileOf id n y = s.setTileOf id n y := by
  unfold State.setTileOf State.modTeam
  dsimp only
  congr 1
  rw [List.map_map]
  refine List.map_congr_left fun t _ => ?_
  rw [Function.comp_apply]
  by_cases h : t.grid = id.grid ∧ t.lteam = id.team
  · simp [h]
  · simp [h]

theorem State.modTc_of_tile {s : State} {r : MRec} {z : Tile} (h : s.tileOf? r.tid r.tc = some z) (f : Tile → Tile) :
    s.modTc r f = s.setTileOf r.tid r.tc (f z) := by
  unfold State.modTc
  rw [h]

/-- OVF as the first row of a command that writes the whole tile leaves it (R173). -/
def startedOvf (r : MRec) (z : Tile) : Bool := if wholeTile r && !r.running then false else z.ovf

/-- The first row of a command clears OVF at most: the errors stay, and the tile written next is the same. -/
theorem State.startTc_of_tile {s : State} {r : MRec} {z : Tile} (h : s.tileOf? r.tid r.tc = some z) :
    (s.startTc r).tileOf? r.tid r.tc = some { z with ovf := startedOvf r z } ∧ (s.startTc r).soft = s.soft ∧
    ∀ y, (s.startTc r).setTileOf r.tid r.tc y = s.setTileOf r.tid r.tc y := by
  unfold State.startTc startedOvf
  rw [MRec.whole_eq]
  split
  · rw [State.modTc_of_tile h]
    exact ⟨State.tileOf?_setTileOf h _, rfl, fun y => State.setTileOf_setTileOf s _ _ _ y⟩
  · exact ⟨h, rfl, fun _ => rfl⟩

/-- A row read that holds no error of one bit. -/
theorem State.correctRows_of_notMem {s : State} {id : Tid} {reads : List (Nat × Nat)} (h : ∀ p ∈ reads, tileErr id p.1 p.2 ∉ s.soft) :
    s.correctRows id reads = s := by
  unfold State.correctRows
  induction reads with
  | nil => rfl
  | cons p rest ih =>
    obtain ⟨hp, hrest⟩ := List.forall_mem_cons.1 h
    rw [List.foldl_cons, State.correctPlace_of_notMem hp]
    exact ih hrest

/-- The machine with a tile of a record's team, the errors of one row's place perhaps gone, and the record changed. -/
def State.rowWritten (s : State) (c : Nat) (r : MRec) (y : Tile) (full : Bool) (f : MRec → MRec) : State :=
  let t := s.setTileOf r.tid r.tc y
  (if full then t.clearError (tileErr r.tid r.tc r.rows) else t).modRec c r.id f

/-- The tile set again. -/
theorem State.rowWritten_setTileOf (s : State) (c : Nat) (r : MRec) (x y : Tile) (full : Bool) (f : MRec → MRec) :
    (s.rowWritten c r x full f).setTileOf r.tid r.tc y = s.rowWritten c r y full f := by
  have hset := State.setTileOf_setTileOf s r.tid r.tc x y
  unfold State.rowWritten
  rw [← hset]
  cases full <;> rfl

/-- The checksum of a row's tile set afterwards, as if with its row. -/
theorem State.sealTc_rowWritten {s : State} {r : MRec} {z : Tile} (h : s.tileOf? r.tid r.tc = some z) (c : Nat) (y : Tile) (full : Bool)
    (f : MRec → MRec) :
    (s.rowWritten c r y full f).sealTc r =
      s.rowWritten c r { y with valid := y.valid || r.whole, sumBad := y.valid && y.sumBad && !r.whole } full f := by
  have htile : (s.rowWritten c r y full f).tileOf? r.tid r.tc = some y := by
    cases full <;> exact State.tileOf?_setTileOf h y
  rw [State.sealTc, State.modTc_of_tile htile, State.rowWritten_setTileOf]

/-! ### One row (R195, R196) -/

/-- The tile with a row of results, and OVF. -/
def rowOfResults (r : MRec) (z : Tile) (v : List Nat × Bool) : Tile :=
  { z.putRow r.rows (rowWith (z.row r.rows) z.elem.size v.1) with ovf := startedOvf r z || v.2 }

/-- A record one row further, with the scales that the row has read (R99). -/
def recordAfter (r : MRec) (d : RowData) (x : MRec) : MRec :=
  { x with running := true, rows := r.rows + 1, scalesA := x.scalesA ++ d.sa.map (BitVec.ofNat 64), scalesB := d.sb.map (BitVec.ofNat 64) }

theorem State.multiplyRow_eq {s u : State} {r : MRec} {l : List Nat} {d : RowData} {z : Tile} (hbad : s.recBad r = none)
    (htc : s.tcError r = false) (halign : r.readMisaligned r.rows = none)
    (hreads : s.engineReads r.tid r.upto (r.rowReads r.rows) = (.ok l, u)) (hdata : r.rowData l = .ok d)
    (htile : u.tileOf? r.tid r.tc = some z) (hsoft : s.tcReads r = true → tileErr r.tid r.tc r.rows ∉ u.soft) (c : Nat) (last : State → State) :
    s.multiplyRow c r last =
      (let t := u.rowWritten c r (rowOfResults r z (r.resultRow d (rowElems (z.row r.rows) z.elem))) (r.n * z.elem.size == 256) (recordAfter r d)
       if r.rows + 1 < r.m then t else last (t.sealTc r)) := by
  obtain ⟨hstarted, hsame, hset⟩ := State.startTc_of_tile htile
  have hcorrect : (u.startTc r).correctRows r.tid (if s.tcReads r then [(r.tc, r.rows)] else []) = u.startTc r := by
    refine State.correctRows_of_notMem ?_
    rw [hsame]
    split
    · rename_i hr
      simpa using hsoft hr
    · simp
  have hrow : (u.startTc r).readRow r.tid r.tc r.rows = z.row r.rows := by
    unfold State.readRow
    rw [hstarted]
    rfl
  have helem : (u.startTc r).tileElem r.tid r.tc = z.elem := by
    unfold State.tileElem
    rw [hstarted]
    rfl
  have hput : ∀ v w full, ((u.startTc r).putTcRow r v w full).modRec c r.id (recordAfter r d) =
      u.rowWritten c r { z.putRow r.rows v with ovf := startedOvf r z || w } full (recordAfter r d) := by
    intro v w full
    unfold State.putTcRow State.rowWritten
    rw [State.modTc_of_tile hstarted, hset]
    rfl
  unfold State.multiplyRow
  simp only [hbad, htc, halign, hreads, hdata, hcorrect, hrow, helem, Bool.false_eq_true, if_false]
  unfold State.tcBytes
  rw [helem]
  exact congrArg (fun t => if r.rows + 1 < r.m then t else last (t.sealTc r)) (hput _ _ _)

/-- The row of results, from the values that the claims give its elements. -/
theorem OperandsFit.resultRow {s : State} {r : MRec} (h : OperandsFit s r) {l : List Nat} {d : RowData} (hdata : r.rowData l = .ok d)
    (hl : l.length = rowsAt r r.kind r.scaled + innerOfRec r)
    (hmask : r.kind = 3 → ∀ g < innerOfRec r / 32, rankIn (piecewise 4 (l.getD 1 0) g) 32 = presentOfRec r)
    {ty : BitVec 2} (hty : ty.toNat = 0 ∨ ty.toNat = 2) (row : Row) :
    r.resultRow d (rowElems row (Elem.ofType ty)) =
      ((List.range (colsOfRec r)).map fun j => (resultOf r r.kind r.scaled l (element ty row j) j).1,
        (List.range (colsOfRec r)).any fun j => (resultOf r r.kind r.scaled l (element ty row j) j).2) := by
  obtain ⟨hsize, hbytes⟩ := Elem.size_ofType hty
  obtain rfl := Except.ok.inj ((h.rowData hl hmask).symm.trans hdata)
  have helement : ∀ j < colsOfRec r, (if r.z then 0 else (rowElems row (Elem.ofType ty)).getD j 0) =
      if zeroOfRec r then 0 else element ty row j := by
    intro j hj
    have hcols := colsOfRec_le r
    rw [rowElems_getD _ _ (by rw [Elem.count, hsize]; omega), MRec.z_eq, hsize, element, hbytes]
    rfl
  have hall : ∀ j ∈ List.range (colsOfRec r), resultElem r.scaled (viewOf (r.w 1) == 4)
      (Machine.products (Elem.ofView (viewOf (r.w 1))) (Elem.ofView (viewOf (r.w 2))) ((List.range (innerOfRec r)).map (elementA r r.kind l))
        ((List.range (innerOfRec r)).map fun k =>
          elemsOf (Elem.ofView (viewOfRec r)).size (colsOfRec r) (l.getD (rowsAt r r.kind r.scaled + k) 0)) j)
      (if r.scaled then (List.range ((innerOfRec r + 127) / 128)).map (piecewise 4 (l.getD (scalesAt r.kind) 0)) else [])
      (scalesOfB r r.kind r.scaled l) (if r.z then 0 else (rowElems row (Elem.ofType ty)).getD j 0) =
      resultOf r r.kind r.scaled l (element ty row j) j := by
    intro j hj
    rw [List.mem_range] at hj
    rw [h.sameView, helement j hj]
    exact (congrArg (fun ps => resultElem r.scaled (viewOfRec r == 4) ps _ _ _) (h.products hj)).trans
      (resultElem_eq_resultOf r l (element_lt hty row j) j)
  unfold MRec.resultRow
  dsimp only
  rw [MRec.n_eq, List.map_congr_left hall, List.map_map, List.any_map]
  rfl

/-- The accumulator of a record whose operands fit has elements of 4 bytes. -/
theorem OperandsFit.tile_type {s : State} {r : MRec} (h : OperandsFit s r) {z : Tile} (htile : s.tileOf? r.tid r.tc = some z) :
    z.type.toNat = 0 ∨ z.type.toNat = 2 := by
  have htype := h.type
  unfold State.tileType at htype
  rw [htile] at htype
  change z.type.toNat = _ at htype
  rw [htype]
  split
  · exact .inr rfl
  · exact .inl rfl

end Sys2Proof.Machine

namespace Sys2Proof.Claims

open Sys2Proof.Machine

/-! ### The core and its queue -/

theorem coreIs_setCore (s : State) (c : Nat) (k : Core) (hk : k.num = c) : CoreIs s (s.setCore k) c k := by
  refine ⟨?_, fun d hd => ?_⟩
  · rw [State.core_setCore, if_pos hk.symm]
  · rw [State.core_setCore, hk, if_neg hd]

theorem CoreIs.trans {s t u : State} {c : Nat} {k j : Core} (h : CoreIs s t c k) (h' : CoreIs t u c j) : CoreIs s u c j :=
  ⟨h'.1, fun d hd => (h'.2 d hd).trans (h.2 d hd)⟩

theorem coreIs_modRec (s : State) (c n : Nat) (f : MRec → MRec) : CoreIs s (s.modRec c n f) c (mapRec (s.core c) n f) :=
  coreIs_setCore s c _ (s.core_num c)

/-- A record taken from a queue that held one. -/
theorem coreIs_dropRec (s : State) (c n : Nat) (h : (s.core c).mq ≠ []) : CoreIs s (s.dropRec c n) c (dropRec (s.core c) n s.cycle) := by
  have hnonempty : (s.core c).mq.isEmpty = false := by simpa using h
  have hcore := coreIs_setCore s c (dropRec (s.core c) n s.cycle) (s.core_num c)
  unfold State.dropRec
  simp only [hnonempty, Bool.not_false, Bool.and_true]
  exact hcore

/-- A record changed and then gone. -/
theorem dropRec_mapRec (k : Core) (n : Nat) (f : MRec → MRec) (hf : ∀ q, (f q).id = q.id) (now : Word) :
    dropRec (mapRec k n f) n now = dropRec k n now := by
  have hmq : (mapRec k n f).mq.filter (·.id != n) = k.mq.filter (·.id != n) := by
    unfold mapRec
    induction k.mq with
    | nil => rfl
    | cons q rest ih =>
      rw [List.map_cons, List.filter_cons, List.filter_cons, ih]
      by_cases hq : q.id = n
      · simp [hq, hf]
      · simp [hq]
  unfold dropRec
  rw [hmq]
  rfl

/-- A row written changes the record at its core, and no other core. -/
theorem coreIs_rowWritten (u : State) (c : Nat) (r : MRec) (y : Tile) (full : Bool) (f : MRec → MRec) :
    CoreIs u (u.rowWritten c r y full f) c (mapRec (u.core c) r.id f) := by
  unfold State.rowWritten
  cases full
  · exact coreIs_modRec (u.setTileOf r.tid r.tc y) c r.id f
  · exact coreIs_modRec ((u.setTileOf r.tid r.tc y).clearError (tileErr r.tid r.tc r.rows)) c r.id f

/-- A command that ends with a row takes its record with it. -/
theorem coreIs_endRec_rowWritten {u : State} {c : Nat} (hqueue : (u.core c).mq ≠ []) (r : MRec) (y : Tile) (full : Bool) {f : MRec → MRec}
    (hf : ∀ q, (f q).id = q.id) : CoreIs u ((u.rowWritten c r y full f).endRec c r) c (dropRec (u.core c) r.id u.cycle) := by
  have hwritten := coreIs_rowWritten u c r y full f
  have hcycle : (u.rowWritten c r y full f).cycle = u.cycle := by cases full <;> rfl
  have hdrop := coreIs_dropRec (u.rowWritten c r y full f) c r.id (by rw [hwritten.1]; simpa [mapRec] using hqueue)
  rw [hwritten.1, dropRec_mapRec _ _ _ hf, hcycle] at hdrop
  exact hwritten.trans hdrop

/-- What a row written leaves but the cores, and the end of its command where it has one: all of a row written clears the errors there (R345). -/
theorem rowWritten_frame (u : State) (c : Nat) (r : MRec) (y : Tile) (full : Prop) [Decidable full] (f : MRec → MRec) (ends : Bool) :
    (let w := u.rowWritten c r y (decide full) f
     let t := if ends then w.endRec c r else w
     t = { (if ends then onThread u r.tid (fun x => { x with cntM := lowered x.cntM }) else u) with
      teams := (tileChanged u r y).teams
      poison := if full then u.poison.filter (· != tileErr r.tid (tileOfRec r) r.rows) else u.poison
      soft := if full then u.soft.filter (· != tileErr r.tid (tileOfRec r) r.rows) else u.soft
      cores := t.cores }) := by
  by_cases h : full
  · rw [decide_eq_true h, if_pos h, if_pos h]
    cases ends <;> rfl
  · rw [decide_eq_false h, if_neg h, if_neg h]
    cases ends <;> rfl

theorem HeadRuns.queue_head {s : State} {c kind : Nat} {r : MRec} (h : HeadRuns s c kind r) : (s.core c).mq.head? = some r := by
  obtain ⟨hhead, -⟩ := h
  exact hhead

theorem HeadRuns.queue_ne_nil {s : State} {c kind : Nat} {r : MRec} (h : HeadRuns s c kind r) : (s.core c).mq ≠ [] := fun hnil => by
  have hhead := h.queue_head
  rw [hnil] at hhead
  cases hhead

theorem HeadRuns.kind_eq {s : State} {c kind : Nat} {r : MRec} (h : HeadRuns s c kind r) : r.kind = kind := by
  obtain ⟨-, -, hkind, -⟩ := h
  exact r.kind_eq.trans hkind

theorem HeadRuns.head? {s : State} {c kind : Nat} {r : MRec} (h : HeadRuns s c kind r) : s.head? c kind = some r := by
  have hkind := h.kind_eq
  obtain ⟨hhead, -, -, hlegal, hruns⟩ := h
  unfold State.head?
  rw [hhead]
  simp [hkind, hlegal, hruns]

theorem HeadRuns.readRec {s : State} {c kind : Nat} {r : MRec} (h : HeadRuns s c kind r) : s.readRec c r = s := by
  obtain ⟨-, hsoft, -⟩ := h
  exact State.correctPlace_of_notMem hsoft _ _ _

/-! ### The statement -/

/-- The tile after a row, and after the last one its checksum too (R173). -/
def tileAfter (r : MRec) (z : Tile) (v : List Nat × Bool) : Tile :=
  { rowOfResults r z v with
    valid := z.valid || (r.rows + 1 == rowsOfRec r && wholeTile r)
    sumBad := if r.rows + 1 == rowsOfRec r then z.valid && z.sumBad && !wholeTile r else z.sumBad }

/-- A row multiplied, in one step: `t` after the last row ends the command where it does. -/
theorem multiplyRow_eq_rowWritten {s u : State} {r : MRec} {l : List Nat} {d : RowData} {z : Tile} (hrows : r.rows < rowsOfRec r)
    (hbad : s.recBad r = none) (htc : s.tcError r = false) (halign : r.readMisaligned r.rows = none)
    (hreads : s.engineReads r.tid r.upto (r.rowReads r.rows) = (.ok l, u)) (hdata : r.rowData l = .ok d)
    (htile : u.tileOf? r.tid r.tc = some z) (hsoft : s.tcReads r = true → tileErr r.tid r.tc r.rows ∉ u.soft) (c : Nat) (ends : Bool) :
    s.multiplyRow c r (fun t => if ends then t.endRec c r else t) =
      (let t := u.rowWritten c r (tileAfter r z (r.resultRow d (rowElems (z.row r.rows) z.elem))) (r.n * z.elem.size == 256) (recordAfter r d)
       if r.rows + 1 == rowsOfRec r && ends then t.endRec c r else t) := by
  rw [State.multiplyRow_eq hbad htc halign hreads hdata htile hsoft, MRec.m_eq]
  dsimp only
  unfold tileAfter
  by_cases hlast : r.rows + 1 = rowsOfRec r
  · rw [if_neg (by omega), State.sealTc_rowWritten htile, beq_iff_eq.2 hlast, MRec.whole_eq]
    rfl
  · rw [if_pos (by omega), beq_eq_false_iff_ne.2 hlast]
    simp only [Bool.false_and, Bool.or_false, Bool.false_eq_true, if_false]
    rfl

/-- The scales of A as a row keeps them. -/
theorem scalesA_kept (r : MRec) (kind : Nat) (scaled : Bool) (l : List Nat) :
    (if scaled then (List.range ((innerOfRec r + 127) / 128)).map (piecewise 4 (l.getD (scalesAt kind) 0)) else []).map (BitVec.ofNat 64) =
      if scaled then (List.range ((innerOfRec r + 127) / 128)).map fun kb => BitVec.ofNat 64 (piecewise 4 (l.getD (scalesAt kind) 0) kb)
      else [] := by
  cases scaled
  · rfl
  · rw [if_pos rfl, if_pos rfl, List.map_map]
    rfl

/-- The scales of B as a row keeps them. -/
theorem scalesB_kept (r : MRec) (kind : Nat) (scaled : Bool) (l : List Nat) :
    (scalesOfB r kind scaled l).map (BitVec.ofNat 64) =
      if scaled then (if r.scalesB.isEmpty then (List.range ((innerOfRec r + 127) / 128)).map fun kb =>
        BitVec.ofNat 64 (l.getD (scalesAt kind + 1 + kb) 0) else r.scalesB) else r.scalesB := by
  have hheld : (r.scalesB.map (·.toNat)).map (BitVec.ofNat 64) = r.scalesB := by
    rw [List.map_map]
    exact (List.map_congr_left fun b _ => by rw [Function.comp_apply, BitVec.ofNat_toNat, BitVec.setWidth_eq, id]).trans (List.map_id _)
  unfold scalesOfB
  cases scaled
  · exact hheld
  · rw [Bool.true_and, if_pos rfl]
    split
    · rw [List.map_map]
      rfl
    · exact hheld

/-- A record one row further, in the words of the claims. -/
theorem recordAfter_eq {s : State} {r : MRec} (h : OperandsFit s r) {l : List Nat} {d : RowData} (hdata : r.rowData l = .ok d)
    (hl : l.length = rowsAt r r.kind r.scaled + innerOfRec r)
    (hmask : r.kind = 3 → ∀ g < innerOfRec r / 32, rankIn (piecewise 4 (l.getD 1 0) g) 32 = presentOfRec r) :
    recordAfter r d = fun q => { q with
      running := true, rows := r.rows + 1
      scalesA := q.scalesA ++ if r.scaled then (List.range ((innerOfRec r + 127) / 128)).map fun kb =>
        BitVec.ofNat 64 (piecewise 4 (l.getD (scalesAt r.kind) 0) kb) else []
      scalesB := if r.scaled then (if r.scalesB.isEmpty then (List.range ((innerOfRec r + 127) / 128)).map fun kb =>
        BitVec.ofNat 64 (l.getD (scalesAt r.kind + 1 + kb) 0) else r.scalesB) else r.scalesB } := by
  obtain rfl := Except.ok.inj ((h.rowData hl hmask).symm.trans hdata)
  funext q
  rw [← scalesA_kept, ← scalesB_kept]
  rfl

/-- The old row is read only where the statement asks that it hold no error of one bit (R345). -/
theorem not_soft_of_tcReads {s u : State} {r : MRec} (hsize : (s.tileElem r.tid r.tc).size = 4)
    (hsoft : zeroOfRec r = true ∧ colsOfRec r % 2 = 0 ∨ tileErr r.tid (tileOfRec r) r.rows ∉ u.soft) (hreads : s.tcReads r = true) :
    tileErr r.tid r.tc r.rows ∉ u.soft := by
  rcases hsoft with ⟨hzero, heven⟩ | hsoft
  · unfold State.tcReads State.tcBytes at hreads
    rw [MRec.z_eq, hzero, hsize, MRec.n_eq] at hreads
    simp at hreads
    omega
  · exact hsoft

/-- The elements of a row of results: its first N, and the old ones behind them. -/
theorem element_rowWith {ty : BitVec 2} (hty : ty.toNat = 0 ∨ ty.toNat = 2) {N : Nat} (hN : N ≤ 64) {f : Nat → Nat} (hf : ∀ j, f j < 2 ^ 32)
    (row : Row) (j : Nat) :
    element ty (rowWith row (Elem.ofType ty).size ((List.range N).map f)) j = if j < N then f j else element ty row j := by
  obtain ⟨hsize, hbytes⟩ := Elem.size_ofType hty
  have hresults : ∀ x ∈ (List.range N).map f, x < 2 ^ (8 * 4) := by
    intro x hx
    obtain ⟨k, -, rfl⟩ := List.mem_map.1 hx
    exact hf k
  unfold element
  rw [hbytes, hsize]
  refine (elemAt_rowWith hresults (by rw [List.length_map, List.length_range]; omega) row j).trans ?_
  rw [List.length_map, List.length_range]
  split
  · rename_i hj
    simp [List.getD, hj]
  · rfl

/-- A multiplying command whose head record may run does one row in a step. -/
theorem rowMultiplied {i : Instr} {s : State} {c kind : Nat} {scaled ends : Bool} (hkind : kind ≤ 4)
    (hscaled : ∀ r : MRec, r.kind = kind → (kind = 4 → scaled = r.sc) → r.scaled = scaled)
    (hexec : ∀ r, s.head? c kind = some r → r.rows < rowsOfRec r →
      exec i s = .next ((s.readRec c r).multiplyRow c r fun t => if ends then t.endRec c r else t)) :
    RowMultiplied i s c kind scaled ends := by
  intro r u l z n id hruns hrows hbad htc halign hsc hreads hmask htile hsoft
  obtain rfl : r.kind = kind := hruns.kind_eq
  obtain rfl : r.scaled = scaled := hscaled r rfl fun h4 => (hsc h4).trans r.sc_eq.symm
  have hfit := operandsFit_of_recBad_none hkind hbad
  have hlen : l.length = rowsAt r r.kind r.scaled + innerOfRec r := by
    rw [(readsInTurn_engineReads hreads).length, ← hfit.rowReads, MRec.length_rowReads]
  rw [← hfit.rowReads] at hreads
  have hwalk : WalksOnly s u := (congrArg (fun x => WalksOnly s x.2) hreads).mp (s.engineReads_only ..)
  have hold : s.tileOf? r.tid r.tc = some z := by
    rw [← htile, State.tileOf?, State.teamD_congr hwalk.teams]
    rfl
  have hty := hfit.tile_type hold
  have helem : s.tileElem r.tid r.tc = Elem.ofType z.type := by
    unfold State.tileElem
    rw [hold]
    rfl
  obtain ⟨hsize, -⟩ := Elem.size_ofType hty
  have hdata := hfit.rowData hlen hmask
  have hrow := hfit.resultRow hdata hlen hmask hty (z.row r.rows)
  have hstep := hexec r hruns.head? hrows
  rw [hruns.readRec, multiplyRow_eq_rowWritten hrows hbad htc halign hreads hdata htile
    (not_soft_of_tcReads (by rw [helem, hsize]) hsoft), recordAfter_eq hfit hdata hlen hmask] at hstep
  have hfull : (r.n * (Elem.ofType z.type).size == 256) = decide (colsOfRec r = 64) := by
    rw [hsize, MRec.n_eq]
    exact decide_eq_decide.2 (by omega)
  have hqueue : (u.core c).mq ≠ [] := by
    rw [State.core_congr hwalk.cores]
    exact hruns.queue_ne_nil
  rw [show z.elem = Elem.ofType z.type from rfl, hrow, hfull] at hstep
  refine ⟨_, rowWith (z.row r.rows) (Elem.ofType z.type).size _, hstep,
    fun j _ => element_rowWith hty (colsOfRec_le r) (fun j => resultOf_lt r _ _ l (element_lt hty _ j) j) _ j, ?_, ?_⟩
  · cases (r.rows + 1 == rowsOfRec r && ends) with
    | true => exact coreIs_endRec_rowWritten hqueue r _ _ fun _ => rfl
    | false => exact coreIs_rowWritten u c r _ _ _
  · exact rowWritten_frame u c r _ _ _ _

/-! ### The five commands -/

theorem rowMultiplied_mma {i : Instr} {s : State} {c kind : Nat} {scaled : Bool} (hkind : kind ≤ 3)
    (hscaled : ∀ r : MRec, r.kind = kind → r.scaled = scaled) (hexec : exec i s = .next (s.mmaStep c kind)) :
    RowMultiplied i s c kind scaled true := by
  refine rowMultiplied (hkind.trans (by decide)) (fun r hr _ => hscaled r hr) fun r hhead _ => ?_
  rw [hexec, State.mmaStep, hhead]
  rfl

theorem rowMultiplied_mrot (s : State) (c : Nat) (scaled : Bool) : RowMultiplied (.mrot c) s c 4 scaled false := by
  refine rowMultiplied (by decide) (fun r hr hsc => ?_) fun r hhead hrows => ?_
  · simp [MRec.scaled, hr, hsc rfl]
  · show execMrot c s = _
    rw [execMrot, hhead]
    simp only [MRec.m_eq, hrows, if_true]
    rfl

end Sys2Proof.Claims

section
open Sys2Proof.Machine Sys2Proof.Claims

/-- Settles O33: a step of a multiplying command makes its reads in turn, sums the products of each column by the indices of the claims, and
writes the row; what the reads give are the bytes of memory unit by unit. -/
theorem matrixCommandsMultiplyRowByRow : Obligations.MatrixCommandsMultiplyRowByRow :=
  ⟨enginesReadMemory, fun s c =>
    ⟨rowMultiplied_mma (by decide) (fun r hr => by simp [MRec.scaled, hr]) rfl,
      rowMultiplied_mma (by decide) (fun r hr => by simp [MRec.scaled, hr]) rfl,
      rowMultiplied_mma (by decide) (fun r hr => by simp [MRec.scaled, hr]) rfl,
      rowMultiplied_mrot s c false, rowMultiplied_mrot s c true⟩⟩

end

/-! SUPPORT. The commit of a replay-mode chunk (R262–R264, R327): what it puts into memory, its other effects one by one, and the chunk that
follows. -/

namespace Sys2Proof.Machine

open Sys2Proof.Claims

/-! ### What a chunk puts into memory (R262) -/

theorem Memory.get_of_unlisted {m : List Host.Cell} {k : Nat} (h : k ∉ m.map (·.1)) : Memory.get m k = Memory.unlisted := by
  induction m with
  | nil => rfl
  | cons c r ih =>
    rw [List.map_cons, List.mem_cons, not_or] at h
    rw [Memory.get, if_neg fun e => h.1 e.symm, ih h.2]

/-- A chunk writes what its threads stored, and what it changed. -/
theorem Apart.mem_bytes (x : Apart) (k : Nat) :
    k ∈ x.bytes ↔ (∃ w ∈ x.writes, w.1 ≤ k ∧ k < w.1 + w.2) ∨ Memory.get x.mem k ≠ Memory.get x.mem0 k := by
  have hstored : (k ∈ x.writes.flatMap fun w => (List.range w.2).map fun i => w.1 + i) ↔ ∃ w ∈ x.writes, w.1 ≤ k ∧ k < w.1 + w.2 := by
    simp only [List.mem_flatMap, List.mem_map, List.mem_range]
    refine exists_congr fun w => and_congr_right fun _ => ⟨?_, fun ⟨h1, h2⟩ => ⟨k - w.1, by omega, by omega⟩⟩
    rintro ⟨i, hi, rfl⟩
    omega
  have hlisted : Memory.get x.mem k ≠ Memory.get x.mem0 k → k ∈ x.mem.map (·.1) ++ x.mem0.map (·.1) := fun hne => by
    by_contra hnot
    rw [List.mem_append, not_or] at hnot
    exact hne (by rw [Memory.get_of_unlisted hnot.1, Memory.get_of_unlisted hnot.2])
  simp only [Apart.bytes, List.mem_append (s := List.flatMap _ _), hstored, List.mem_filter, bne_iff_ne]
  exact or_congr_right (and_iff_right_of_imp hlisted)

theorem Memory.get_sets (v : Nat → Byte) (l : List Nat) {m : List Host.Cell} (h : Memory.wf m = true) (k : Nat) :
    Memory.get (l.foldl (fun m k => Memory.set m k (v k)) m) k = if k ∈ l then v k else Memory.get m k := by
  induction l generalizing m with
  | nil => simp
  | cons j r ih =>
    rw [List.foldl_cons, ih (Memory.wf_set m j _ h), Memory.get_set _ _ _ _ h]
    by_cases hr : k ∈ r <;> by_cases hj : k = j <;> simp [hr, hj]

theorem get_mergeCells (x : Apart) {m : List Host.Cell} (h : Memory.wf m = true) (k : Nat) :
    Memory.get (mergeCells x m) k = if k ∈ x.bytes then Memory.get x.mem k else Memory.get m k := Memory.get_sets _ _ h k

theorem Apart.mem_emptied (x : Apart) (w : Nat) : w ∈ x.emptied ↔ w ∈ x.empty ∧ w ∉ x.empty0 := by simp [Apart.emptied]
theorem Apart.mem_filled (x : Apart) (w : Nat) : w ∈ x.filled ↔ w ∉ x.empty ∧ w ∈ x.empty0 := by simp [Apart.filled, and_comm]

/-- The empty words after a chunk: those it emptied, and those there were but for the ones it filled. -/
theorem mem_mergeEmpty (x : Apart) (now : List Nat) (w : Nat) : w ∈ mergeEmpty x now ↔ w ∈ x.emptied ∨ w ∈ now ∧ w ∉ x.filled := by
  have happart : w ∈ x.emptied → w ∉ x.filled := fun h h' => ((x.mem_filled w).1 h').1 ((x.mem_emptied w).1 h).1
  simp only [mergeEmpty, List.mem_append, List.mem_filter, List.contains_eq_mem, Bool.not_eq_true', decide_eq_false_iff_not]
  tauto

theorem State.mergeApart_isFull (s : State) (g : Nat) (x : Apart) (k : Nat) : (s.mergeApart g x).isFull k =
    if k / 8 ∈ x.empty ∧ k / 8 ∉ x.empty0 then false else if k / 8 ∉ x.empty ∧ k / 8 ∈ x.empty0 then true else s.isFull k := by
  have hmerge : (s.mergeApart g x).isFull k = !decide (k / 8 ∈ mergeEmpty x s.empty) := by
    rw [← List.contains_eq_mem]; rfl
  have hbefore : s.isFull k = !decide (k / 8 ∈ s.empty) := by
    rw [← List.contains_eq_mem]; rfl
  rw [hmerge, hbefore]
  simp only [mem_mergeEmpty, ← Apart.mem_emptied, ← Apart.mem_filled]
  by_cases he : k / 8 ∈ x.emptied <;> by_cases hf : k / 8 ∈ x.filled <;> simp [he, hf]

/-- The numbers that a chunk's keep-region stores take are used up (R86). -/
theorem fresh_renumber (l : List KeepStore) (n : Nat) : n ≤ l.foldl (fun n (y : KeepStore) => max n (y.id + 1)) n ∧
    ∀ y ∈ l, y.id < l.foldl (fun n (y : KeepStore) => max n (y.id + 1)) n := by
  induction l generalizing n with
  | nil => exact ⟨le_refl _, fun y hy => absurd hy List.not_mem_nil⟩
  | cons z r ih =>
    obtain ⟨hle, hlt⟩ := ih (max n (z.id + 1))
    refine ⟨(le_max_left _ _).trans hle, fun y hy => ?_⟩
    rcases List.mem_cons.1 hy with rfl | hy
    · exact (le_max_right n _).trans hle
    · exact hlt y hy

/-! ### The steps of a commit (R327) -/

/-- A thread that goes on, in the words of the statements. -/
theorem Thread.goOn_eq (t : Thread) : t.goOn = goesOn t := by
  have hhm : t.hm = t.tstat.getLsbD 9 := bits_beq_one _ _
  have hframe : t.endHalf = { t with half := t.endHalf.half } := by
    unfold Thread.endHalf
    split <;> rfl
  have hhalf : t.endHalf.half =
      match t.half with | some h => if h.pc = t.pc ∧ h.hm = t.tstat.getLsbD 9 then none else some h | none => none := by
    unfold Thread.endHalf Thread.atHalf
    rw [hhm]
    generalize t.tstat.getLsbD 9 = hm
    cases hhalf : t.half with
    | none => simpa using hhalf
    | some h => by_cases hat : h.pc = t.pc ∧ h.hm = hm <;> simp [hat, hhalf]
  rw [Thread.goOn, hframe, hhalf]
  rfl

/-- A grid's commit with its first effect no longer kept. -/
def State.committed (t : State) (g : Nat) (rest : List Deferred) : State :=
  t.modGrid g fun y => { y with replay := { y.replay with deferred := rest } }

theorem State.num_of_grid? {s : State} {gn : Nat} {g : Grid} (h : s.grid? gn = some g) : g.num = gn := by
  simpa using List.find?_some h

section
variable {s : State} {gn : Nat} {g : Grid} (hg : s.grid? gn = some g)
include hg

/-- R262: the chunk has run, or its grid is to end, and no reach program holds what it wrote. -/
theorem inningsCommit_merges {x : Apart} (hcommit : g.replay.committing = false) (hx : g.replay.apart = some x)
    (hrun : g.replay.turn = 512 ∨ g.faults ≠ []) (hreach : s.reachHolds x = false) :
    exec (.inningsCommit gn) s = .next (s.mergeApart gn x) := by
  have hends : (decide (g.replay.turn = 512) || !g.faults.isEmpty) = true := by
    rcases hrun with h | h <;> simp [h]
  show execInningsCommit gn s = _
  simp [execInningsCommit, hg, hcommit, hx, hends, hreach]

theorem inningsCommit_waits {x : Apart} (hcommit : g.replay.committing = false) (hx : g.replay.apart = some x)
    (hwait : g.replay.turn ≠ 512 ∧ g.faults = [] ∨ s.reachHolds x = true) : exec (.inningsCommit gn) s = .next s := by
  show execInningsCommit gn s = _
  rcases hwait with ⟨hturn, hfaults⟩ | hreach
  · simp [execInningsCommit, hg, hcommit, hx, hturn, hfaults]
  · simp [execInningsCommit, hg, hcommit, hx, hreach]

theorem inningsCommit_steps (hcommit : g.replay.committing = true) : exec (.inningsCommit gn) s = .next (s.commitStep g) := by
  show execInningsCommit gn s = _
  simp [execInningsCommit, hg, hcommit]

/-- An effect that can be performed is (R327). -/
theorem inningsCommit_performs {d : Deferred} {rest : List Deferred} {t : State} (hcommit : g.replay.committing = true)
    (hd : g.replay.deferred = d :: rest) (h : s.commitOne gn d = some t) : exec (.inningsCommit gn) s = .next (t.committed gn rest) := by
  obtain rfl := State.num_of_grid? hg
  rw [inningsCommit_steps hg hcommit, State.commitStep, hd]
  simp only [State.commitNext, h]
  rfl

/-- One that has to wait holds up the commit. -/
theorem inningsCommit_holds {d : Deferred} {rest : List Deferred} (hcommit : g.replay.committing = true)
    (hd : g.replay.deferred = d :: rest) (h : s.commitOne gn d = none) (hfaults : g.faults = []) : exec (.inningsCommit gn) s = .next s := by
  obtain rfl := State.num_of_grid? hg
  rw [inningsCommit_steps hg hcommit, State.commitStep, hd]
  simp [State.commitNext, h, hfaults]

end

/-- A thread whose copies or multiplies are under way (R83, R85). -/
theorem State.countersZero_false {s : State} {who : Tid} {x : Thread} (hx : s.thread? who = some x) (h : x.cntC ≠ 0 ∨ x.cntM ≠ 0) :
    s.countersZero who = false := by
  unfold State.countersZero
  rw [hx]
  show (decide (x.cntC = 0) && decide (x.cntM = 0)) = false
  rwa [Bool.and_eq_false_iff, decide_eq_false_iff_not, decide_eq_false_iff_not]

/-! ### The next chunk (R262, R263) -/

theorem State.sweepGrid_none {s : State} {g : Grid} (h : ∀ n < 8, g.sweeps n = false) (ends : Region → Bool) : s.sweepGrid g ends = s := by
  have hsteps : ∀ l : List Nat, (∀ n ∈ l, n < 8) →
      l.foldl (fun t n => if g.sweeps n && ends (g.regionNo n) then t.sweepRegion g.num (g.regionNo n) else t) s = s := fun l => by
    induction l with
    | nil => exact fun _ => rfl
    | cons n r ih =>
      intro hl
      rw [List.foldl_cons, h n (hl n List.mem_cons_self), Bool.false_and, if_neg Bool.false_ne_true]
      exact ih fun m hm => hl m (List.mem_cons_of_mem _ hm)
  exact hsteps _ fun n hn => List.mem_range.1 hn

theorem pumpList_inRing (l : List FsRec) (s : State) (done : List FsRec) (h : ∀ f ∈ l, f.inRing = true) :
    pumpList l s done = { s with fs := done ++ l } := by
  induction l generalizing done with
  | nil => rw [pumpList, List.append_nil]
  | cons f r ih =>
    rw [pumpList]
    simp only [h f List.mem_cons_self, Bool.true_or, if_true]
    rw [ih _ fun y hy => h y (List.mem_cons_of_mem _ hy), List.append_assoc]
    rfl

/-- Records that are all in the ring leave nothing to write (R362). -/
theorem State.pumpFs_inRing {s : State} (h : ∀ f ∈ s.fs, f.inRing = true) : s.pumpFs = s := pumpList_inRing s.fs s [] h

/-- The chunk that follows (R263): that of the next team, or the first of the next innings. -/
theorem Replay.nextChunk_eq (r : Replay) (d : Descriptor) (hdeferred : r.deferred = []) : r.nextChunk d.nteam =
    { r with
      turn := 0, committing := false
      team := if r.team < bits d.shape 12 0 then r.team + 1 else 0
      innings := if r.team < bits d.shape 12 0 then r.innings else r.innings + 1 } := by
  have hteam : r.team + 1 < d.nteam ↔ r.team < bits d.shape 12 0 := Nat.add_lt_add_iff_right
  by_cases h : r.team < bits d.shape 12 0
  · simp only [Replay.nextChunk, hteam, h, if_true, hdeferred]
  · simp only [Replay.nextChunk, hteam, h, if_false, hdeferred]

/-- The innings goes on, or no region of the grid is enabled: nothing is swept (R208). -/
theorem State.sweepInnings_none {s : State} {gn : Nat} {g : Grid} (hg : s.grid? gn = some g)
    (h : g.replay.team < bits g.desc.shape 12 0 ∨ ∀ n < 8, g.sweeps n = false) : s.sweepInnings gn = s := by
  unfold State.sweepInnings
  rw [hg]
  dsimp only
  split
  · rfl
  · rename_i hnext
    refine State.sweepGrid_none (h.resolve_left fun hteam => hnext ?_) _
    simp only [Replay.nextChunk, Descriptor.nteam, Nat.add_lt_add_iff_right, hteam, if_true]

/-- A grid changed as a function of what it is, where its number is its alone. -/
theorem State.modGrid_congr {s : State} {gn : Nat} {g : Grid} (hg : s.grid? gn = some g) (hnums : (s.grids.map (·.num)).Nodup)
    {f h : Grid → Grid} (hfh : f g = h g) : s.modGrid gn f = s.modGrid gn h := by
  have hmem : g ∈ s.grids := List.mem_of_find?_eq_some hg
  have hgrids : (s.grids.map fun x => if x.num = gn then f x else x) = s.grids.map fun x => if x.num = gn then h x else x := by
    refine List.map_congr_left fun x hx => ?_
    by_cases hx' : x.num = gn
    · rw [List.inj_on_of_nodup_map hnums hx hmem (hx'.trans (State.num_of_grid? hg).symm), hfh]
    · rw [if_neg hx', if_neg hx']
  unfold State.modGrid
  rw [hgrids]

/-- The chunk that comes after that of a grid, in the words of the statements. -/
def Grid.nextChunk (g : Grid) (y : Replay) : Replay :=
  { y with
    turn := 0, committing := false
    team := if g.replay.team < bits g.desc.shape 12 0 then g.replay.team + 1 else 0
    innings := if g.replay.team < bits g.desc.shape 12 0 then g.replay.innings else g.replay.innings + 1 }

/-- A thread of the chunk's team that waited for the commit goes on. -/
def Thread.afterCommit (g l : Nat) (y : Thread) : Thread := if y.id.grid = g ∧ y.id.team = l ∧ y.wait = .commit then goesOn y else y

/-- R263: with no effect left, the threads that waited go on, and the next chunk follows. -/
theorem inningsCommit_ends {s : State} {gn : Nat} {g : Grid} (hg : s.grid? gn = some g) (hnums : (s.grids.map (·.num)).Nodup)
    (hcommit : g.replay.committing = true) (hd : g.replay.deferred = [])
    (hsweep : g.replay.team < bits g.desc.shape 12 0 ∨ ∀ n < 8, g.sweeps n = false) (hring : ∀ f ∈ s.fs, f.inRing = true) :
    exec (.inningsCommit gn) s = .next ((s.mapThreads (Thread.afterCommit gn g.replay.team)).modGrid gn fun y =>
      { y with replay := g.nextChunk y.replay }) := by
  obtain rfl := State.num_of_grid? hg
  have hwake : s.wakeCommit g.num g.replay.team = s.mapThreads (Thread.afterCommit g.num g.replay.team) := by
    simp only [State.wakeCommit, Thread.goOn_eq]
    rfl
  have hsame : (s.mapThreads (Thread.afterCommit g.num g.replay.team)).grid? g.num = some g := hg
  rw [inningsCommit_steps hg hcommit, State.commitStep, hd]
  dsimp only
  rw [hwake, State.sweepInnings_none hsame hsweep, State.modGrid_congr hsame hnums (h := fun y => { y with replay := g.nextChunk y.replay })
    (congrArg (fun y => { g with replay := y }) (g.replay.nextChunk_eq g.desc hd))]
  rw [State.pumpFs_inRing]
  exact hring

/-- A write of one bank, and nothing else. -/
theorem bankIs_write (s : State) (b : Nat) (v : Word) : BankIs s (s.setBank ((s.bank b).write v)) b ((s.bank b).write v) := by
  have hbank : ∀ d, (s.setBank ((s.bank b).write v)).bank d = if d = b then (s.bank b).write v else s.bank d := fun d => by
    rw [State.bank_setBank, Bank.write_num, State.bank_num]
  exact ⟨(hbank b).trans (if_pos rfl), fun d hd => (hbank d).trans (if_neg hd)⟩

end Sys2Proof.Machine

section

open Sys2Proof.Machine Sys2Proof.Claims

/-- Settles O41: a step of the commit puts what the chunk wrote into memory, performs the first of the effects that are kept or waits for it,
or, when none is left, begins the next chunk. -/
theorem chunksAreCommittedWhole : Obligations.ChunksAreCommittedWhole := by
  intro s gn g hg hnums r put
  refine ⟨fun x hx hcommit => ⟨fun hrun hreach => ?_, inningsCommit_waits hg hcommit hx⟩, fun d rest hcommit hd => ⟨?_, ?_, ?_, ?_⟩,
    fun hcommit hd hsweep hring => ?_⟩
  · refine ⟨_, inningsCommit_merges hg hcommit hx hrun hreach, fun hwf k => ?_, s.mergeApart_isFull gn x, ?_⟩
    · have hbyte : (s.mergeApart gn x).byte k = if k ∈ x.bytes then Memory.get x.mem k else s.byte k := get_mergeCells x hwf k
      exact ⟨fun h => hbyte.trans (if_pos ((x.mem_bytes k).2 h)), fun h => hbyte.trans (if_neg (mt (x.mem_bytes k).1 h))⟩
    · exact ⟨(fresh_renumber _ _).1, (fresh_renumber _ _).2, rfl⟩
  · rintro l k rfl
    have hgrid : s.gridD gn = g := by rw [State.gridD, hg]; rfl
    refine (inningsCommit_performs hg hcommit hd rfl).trans ?_
    rw [hgrid]
    rfl
  · rintro core who v rfl
    exact ⟨_, inningsCommit_performs hg hcommit hd rfl, bankIs_write s _ v, rfl⟩
  · rintro who x hkind hx hcounts hfaults
    have hzero := State.countersZero_false hx hcounts
    refine inningsCommit_holds hg hcommit hd ?_ hfaults
    rcases hkind with rfl | ⟨loc, rfl⟩ <;> simp [State.commitOne, hzero]
  · rintro who kind fpc ops id p x rfl hx hfaults hfull
    have hslots : 32 ≤ s.copySlots (clusterOf x.core) := hfull
    exact inningsCommit_holds hg hcommit hd (by simp only [State.commitOne, hx, hslots, if_true]) hfaults
  · exact inningsCommit_ends hg hnums hcommit hd hsweep hring

end

/-! SUPPORT. What the referee does as entries complete (R254, R255): which entries of a queue its sequence word counts next, and the bytes
of the record, the word and the interrupt. -/

namespace Sys2Proof.Machine

open Sys2Proof.Claims

/-! ### Bytes that the device writes for the host (R61, R286) -/

/-- A write for the host while no cache holds an error. -/
theorem State.deviceStore_only {s : State} (hclean : CachesClean s) (k n v : Nat) : WordsOnly s (s.deviceStore k n v) := by
  have hp : ∀ gone, errorsAfter gone s.poison = s.poison := fun gone => errorsAfter_clean gone fun c w => (hclean c w).1
  have hs : ∀ gone, errorsAfter gone s.soft = s.soft := fun gone => errorsAfter_clean gone fun c w => (hclean c w).2
  refine ⟨rfl, fun w hw => ?_, fun w hw => ?_, fun l hl => (List.mem_filter.1 hl).1⟩
  · rw [← hp]
    exact (List.mem_filter.1 hw).1
  · rw [← hs]
    exact (List.mem_filter.1 hw).1

/-- Where `IRQADDR` has an interrupt written (R286). -/
def State.irqKey (s : State) : Nat := s.host.irqaddr.toNat / 2 ^ 2 % 2 ^ 51 * 4

theorem WordsOnly.irqKey {s t : State} (h : WordsOnly s t) : t.irqKey = s.irqKey := by
  have hhost : t.host = s.host := by rw [h.frame]
  rw [State.irqKey, hhost, State.irqKey]

/-- The four bytes of an interrupt write (R286). -/
theorem State.byte_interrupt {s : State} (h : Memory.wf s.mem = true) (cause which b : Nat) : (s.interrupt cause which).byte b =
    if s.irqKey ≤ b ∧ b < s.irqKey + 4 then BitVec.ofNat 8 ((cause + which % 2048 * 256) / 256 ^ (b - s.irqKey)) else s.byte b :=
  State.byte_store (s.invalidate _ 4 none) _ 4 _ b h

/-! ### The entries that a queue counts (R254) -/

/-- An entry whose record is written and that comes next in number. -/
def Queue.counts (x : Queue) (e : QEntry) : Bool := !e.old && e.num == x.seqDone + 1 && e.done && e.written

/-- No entry is counted that is of an earlier enabling, not complete, or without its record. -/
theorem Queue.counts_false {x : Queue} {e : QEntry} (h : e.num = x.seqDone + 1 → e.old = true ∨ e.done = false ∨ e.written = false) :
    x.counts e = false := by
  by_cases hnum : e.num = x.seqDone + 1
  · rcases h hnum with h | h | h <;> simp [Queue.counts, h]
  · simp [Queue.counts, hnum]

theorem Queue.advance_stops {x : Queue} (h : ∀ e ∈ x.entries, x.counts e = false) (n : Nat) : x.advance n = x := by
  cases n with
  | zero => rfl
  | succ n =>
    have hnone : x.entries.find? x.counts = none := List.find?_eq_none.2 fun e he => by simp [h e he]
    unfold Queue.advance
    rw [show (x.entries.find? fun e => !e.old && e.num == x.seqDone + 1 && e.done && e.written) = none from hnone]

theorem Queue.advance_counts {x : Queue} {e : QEntry} (h : x.entries.find? x.counts = some e) (n : Nat) :
    x.advance (n + 1) = Queue.advance { x with seqDone := e.num, entries := x.entries.filter fun y => y.id != e.id } n := by
  rw [Queue.advance, show (x.entries.find? fun e => !e.old && e.num == x.seqDone + 1 && e.done && e.written) = some e from h]

theorem Queue.advance_num (x : Queue) (n : Nat) : (x.advance n).num = x.num := by
  induction n generalizing x with
  | zero => rfl
  | succ n ih =>
    unfold Queue.advance
    split
    · exact ih _
    · rfl

/-- An entry of a list marked as recorded. -/
def markWritten (n : Nat) (e : QEntry) : QEntry := if e.id = n then { e with written := true } else e

theorem markWritten_num (n : Nat) (e : QEntry) : (markWritten n e).num = e.num := by unfold markWritten; split <;> rfl
theorem markWritten_id (n : Nat) (e : QEntry) : (markWritten n e).id = e.id := by unfold markWritten; split <;> rfl
theorem markWritten_self (e : QEntry) : markWritten e.id e = { e with written := true } := if_pos rfl
theorem markWritten_of_ne {n : Nat} {e : QEntry} (h : e.id ≠ n) : markWritten n e = e := if_neg h

/-- Without the marked entry nothing of the marking is left. -/
theorem filter_map_markWritten (n : Nat) (l : List QEntry) :
    (l.map (markWritten n)).filter (·.id != n) = l.filter (·.id != n) := by
  rw [List.filter_map, show ((fun e : QEntry => e.id != n) ∘ markWritten n) = fun e => e.id != n from
    funext fun e => by rw [Function.comp_apply, markWritten_id]]
  refine (List.map_congr_left fun e he => ?_).trans (List.map_id _)
  exact markWritten_of_ne (by simpa using (List.mem_filter.1 he).2)

/-- A queue after the record of one of its entries is written: an entry that stops it clears EN (R320). -/
def Queue.recorded (x : Queue) (e : QEntry) : Queue := { x with en := x.en && !e.stops, entries := x.entries.map (markWritten e.id) }

/-- An entry whose record is written and that is not the next in number stays. -/
theorem Queue.recorded_stops {x : Queue} {e : QEntry} (hid : (x.entries.map (·.id)).Nodup) (he : e ∈ x.entries)
    (hnum : e.num ≠ x.seqDone + 1) (hnext : ∀ y ∈ x.entries, y.num = x.seqDone + 1 → y.old = true ∨ y.done = false ∨ y.written = false)
    (n : Nat) : (x.recorded e).advance n = x.recorded e := by
  refine Queue.advance_stops (fun z hz => Queue.counts_false fun hz' => ?_) n
  obtain ⟨y, hy, rfl⟩ := List.mem_map.1 hz
  rw [markWritten_num] at hz'
  have hne : y.id ≠ e.id := fun h => hnum (List.inj_on_of_nodup_map hid hy he h ▸ hz')
  rw [markWritten_of_ne hne]
  exact hnext y hy hz'

/-- An entry whose record is written and that is the next in number is counted, and no more. -/
theorem Queue.recorded_counts {x : Queue} {e : QEntry} (he : e ∈ x.entries) (hdone : e.done = true) (hold : e.old = false)
    (hone : ∀ y ∈ x.entries, y.num = e.num → y = e) (hnum : e.num = x.seqDone + 1)
    (hnext : ∀ y ∈ x.entries, y.num = e.num + 1 → y.old = true ∨ y.done = false ∨ y.written = false) (n : Nat) :
    (x.recorded e).advance (n + 1) =
      { x with en := x.en && !e.stops, seqDone := e.num, entries := x.entries.filter (·.id != e.id) } := by
  have hcounts : (x.recorded e).counts (markWritten e.id e) = true := by
    simp [Queue.counts, Queue.recorded, markWritten_self, hold, hdone, hnum]
  have honly : ∀ z ∈ (x.recorded e).entries, (x.recorded e).counts z = true → z = markWritten e.id e := fun z hz hc => by
    obtain ⟨y, hy, rfl⟩ := List.mem_map.1 hz
    have hy' : y.num = x.seqDone + 1 := by
      simp only [Queue.counts, Bool.and_eq_true, beq_iff_eq, markWritten_num] at hc
      exact hc.1.1.2
    rw [hone y hy (hy'.trans hnum.symm)]
  have hfind : (x.recorded e).entries.find? (x.recorded e).counts = some (markWritten e.id e) := by
    cases h : (x.recorded e).entries.find? (x.recorded e).counts with
    | none => exact absurd hcounts (List.find?_eq_none.1 h _ (List.mem_map_of_mem he))
    | some z => rw [honly z (List.mem_of_find?_eq_some h) (List.find?_some h)]
  rw [Queue.advance_counts hfind, markWritten_num, markWritten_id]
  simp only [Queue.recorded, filter_map_markWritten]
  refine Queue.advance_stops (fun y hy => Queue.counts_false fun hy' => ?_) n
  exact hnext y (List.mem_filter.1 hy).1 hy'

/-! ### The step -/

/-- The record of a completed entry of the present enabling (R255). -/
def State.recorded (s : State) (e : QEntry) : State :=
  s.storeWords (e.addr + 48) [e.status + e.cause * 2 ^ 8 + e.grid * 2 ^ 16 + 2 ^ 31 + e.num % 2 ^ 32 * 2 ^ 32, s.cycle.toNat]

theorem State.recorded_only {s : State} {e : QEntry} (hkeep : ∀ b, e.addr + 48 ≤ b → b < e.addr + 64 → isKeep b = false)
    (hclean : CachesClean s) (hchunk : s.chunkWrites = none) : WordsOnly s (s.recorded e) :=
  State.storeWords_only _ _ (fun b h1 h2 => hkeep b h1 (by simpa using h2)) hclean hchunk

/-- Where the sequence word of a queue stands (R254). -/
def Queue.seqKey (x : Queue) : Nat := x.seq.toNat / 2 ^ 3 % 2 ^ 50 * 8

/-- The sequence word, and the interrupt where the queue asks for it (R254, R286). -/
def State.signalled (s : State) (x : Queue) (n : Nat) : State :=
  let t := s.putWord x.seqKey n
  if x.sirq then t.interrupt 1 x.num else t

section
variable {s : State} {x : Queue} (hkeep : isKeep x.seqKey = false) (hclean : CachesClean s) (hchunk : s.chunkWrites = none)
include hkeep hclean hchunk

theorem State.signalled_only (n : Nat) : WordsOnly s (s.signalled x n) := by
  obtain ⟨hput, -⟩ := State.putWord_only n hkeep hclean hchunk
  unfold State.signalled
  dsimp only
  split
  · exact hput.trans (State.deviceStore_only (hput.cachesClean hclean) _ _ _)
  · exact hput

theorem State.byte_signalled (h : Memory.wf s.mem = true) (n b : Nat) : (s.signalled x n).byte b =
    if x.sirq = true ∧ s.irqKey ≤ b ∧ b < s.irqKey + 4 then BitVec.ofNat 8 ((1 + x.num % 2048 * 256) / 256 ^ (b - s.irqKey))
    else if x.seqKey ≤ b ∧ b < x.seqKey + 8 then BitVec.ofNat 8 (n / 256 ^ (b - x.seqKey))
    else s.byte b := by
  have hirq := (State.putWord_only n hkeep hclean hchunk).1.irqKey
  unfold State.signalled
  dsimp only
  cases x.sirq with
  | true => rw [if_pos rfl, State.byte_interrupt (State.putWord_wf h _ _), hirq, State.byte_putWord h]; simp only [true_and]
  | false => rw [if_neg Bool.false_ne_true, State.byte_putWord h, if_neg (c := false = true ∧ _) fun h => Bool.false_ne_true h.1]

end

/-- R254: the record of a completed entry, then what its queue counts now. -/
theorem entryComplete_records {s : State} {q : Nat} {e : QEntry} {y : Queue} (he : e ∈ (s.queue q).entries) (hdone : e.done = true)
    (hwritten : e.written = false) (hold : e.old = false) (hone : ∀ z ∈ (s.queue q).entries, z.num = e.num → z = e)
    (hy : ((s.queue q).recorded e).advance (s.queue q).entries.length = y) :
    exec (.entryComplete q e.num) s = .next
      (if y.seqDone = (s.queue q).seqDone then (s.recorded e).setQueue y else ((s.recorded e).setQueue y).signalled y y.seqDone) := by
  have hfind : ((s.queue q).entries.find? fun z => z.num == e.num && z.done) = some e := by
    cases h : (s.queue q).entries.find? fun z => z.num == e.num && z.done with
    | none => exact absurd (List.find?_eq_none.1 h e he) (by simp [hdone])
    | some z =>
      have hz := List.find?_some h
      rw [Bool.and_eq_true, beq_iff_eq] at hz
      rw [hone z (List.mem_of_find?_eq_some h) hz.1]
  have hnum : y.num = q := by rw [← hy, Queue.advance_num]; exact s.queue_num q
  show execEntryComplete q e.num s = _
  unfold execEntryComplete State.signalled
  rw [hnum, ← hy, ← List.length_map (markWritten e.id)]
  cases hstops : e.stops <;>
    simp only [hfind, hwritten, hold, hstops, Queue.recorded, Bool.not_false, Bool.not_true, Bool.and_true, Bool.and_false,
      Bool.false_eq_true, if_true, if_false, List.filter_true] <;>
    rfl

/-- What a completion changes besides bytes: a queue, and of errors and copies of lines it adds none. -/
theorem WordsOnly.completes {s u t : State} {q : Nat} {y : Queue} (hu : WordsOnly s u) (hy : y.num = q) (ht : WordsOnly (u.setQueue y) t) :
    QueueIs s t q y ∧ (∀ w, w ∈ t.poison → w ∈ s.poison) ∧ (∀ w, w ∈ t.soft → w ∈ s.soft) ∧ (∀ l, l ∈ t.lines → l ∈ s.lines) ∧
      t = { s with mem := t.mem, poison := t.poison, soft := t.soft, lines := t.lines, queues := t.queues } := by
  have hqueue : ∀ d, t.queue d = if d = q then y else s.queue d := fun d => by
    rw [ht.frame, ← hy]
    show (u.setQueue y).queue d = _
    rw [State.queue_setQueue, hu.frame]
    rfl
  refine ⟨⟨(hqueue q).trans (if_pos rfl), fun d hd => (hqueue d).trans (if_neg hd)⟩, fun w hw => hu.poison w (ht.poison w hw),
    fun w hw => hu.soft w (ht.soft w hw), fun l hl => hu.lines l (ht.lines l hl), ?_⟩
  rw [ht.frame, hu.frame]
  rfl

end Sys2Proof.Machine

section

open Sys2Proof.Machine Sys2Proof.Claims

/-- Settles O43: the record is two words; the queue then counts the entry where it is the next in number, and stops at the one after it. -/
theorem completedEntriesAreRecordedInOrder : Obligations.CompletedEntriesAreRecordedInOrder := by
  intro s q e x seq irq words he hdone hwritten hold hid hone hclean hchunk hkeep
  have hrec : WordsOnly s (s.recorded e) := State.recorded_only (fun b h1 h2 => hkeep b (.inl ⟨h1, h2⟩)) hclean hchunk
  have hbyte : Memory.wf s.mem = true → ∀ b, (s.recorded e).byte b =
      if e.addr + 48 ≤ b ∧ b < e.addr + 64 then byteOfWords words (e.addr + 48) b else s.byte b :=
    fun hwf b => State.byte_storeWords hwf words (e.addr + 48) b
  have hnum : x.num = q := s.queue_num q
  have hfuel : x.entries.length = x.entries.length - 1 + 1 := (Nat.sub_add_cancel (List.length_pos_of_mem he)).symm
  refine ⟨fun hnot hnext => ?_, fun hnow hnext => ?_⟩
  · have hexec := entryComplete_records he hdone hwritten hold hone (Queue.recorded_stops hid he hnot hnext _)
    rw [if_pos (show (x.recorded e).seqDone = x.seqDone from rfl)] at hexec
    exact ⟨_, hexec, hbyte, hrec.completes hnum (.refl _)⟩
  · have hexec := entryComplete_records he hdone hwritten hold hone (hfuel ▸ Queue.recorded_counts he hdone hold hone hnow hnext _)
    rw [if_neg (by show e.num ≠ x.seqDone; omega)] at hexec
    set y : Queue := { x with en := x.en && !e.stops, seqDone := e.num, entries := x.entries.filter (·.id != e.id) }
    set t := (s.recorded e).setQueue y
    have hseq : isKeep y.seqKey = false := hkeep seq (.inr ⟨le_refl _, by omega⟩)
    have hclean' : CachesClean t := hrec.cachesClean hclean
    have hchunk' : t.chunkWrites = none := hrec.chunkWrites.trans hchunk
    refine ⟨_, hexec, fun hwf b => ?_, hrec.completes hnum (State.signalled_only hseq hclean' hchunk' _)⟩
    have hwf' : Memory.wf t.mem = true := State.storeWords_wf hwf words (e.addr + 48)
    have hirq : t.irqKey = irq := hrec.irqKey
    have hkept : t.byte b = _ := hbyte hwf b
    rw [State.byte_signalled hseq hclean' hchunk' hwf', hirq, hkept, show y.num = q from hnum]
    rfl

end

/-! SUPPORT. A queue entry that the telemetry ring overlaps: the record of an error corrected on the way to its address overwrites its header. -/

namespace Sys2Proof.Claims

open Sys2Proof.Machine

/-- Queue 0 stands at a graph entry at 256, the rest of which is 0. Its page table at 0 maps nothing; the table's first word has an error of
one bit. The telemetry ring of two records begins at 256 too. -/
def overlappedEntry : State :=
  { State.reset with
    queues := [{ Queue.reset 0 with en := true, pos := 256 }], mem := [(256, 2)], soft := [0]
    host := { HostRegs.reset with telbase := 256, telSize := 2 } }

/-- The machine once the entry's address has been looked up. -/
def overlappedEntryLooked : State := (overlappedEntry.engineCheck (.queue 0) 0 8 false).2

theorem overlappedEntry_noError : NoError overlappedEntry 256 192 := by
  refine ⟨by decide +kernel, fun w hw => ?_⟩
  obtain rfl : w = 0 := by simpa [overlappedEntry, State.reset] using hw
  decide +kernel

theorem overlappedEntry_noDeps : ndepOf overlappedEntry 256 = 0 := by decide +kernel

theorem overlappedEntry_stands : Stands overlappedEntry 0 2 256 := by
  refine ⟨⟨rfl, rfl, rfl, by decide, rfl, fun _ h => absurd h List.not_mem_nil, rfl, fun _ h => absurd h List.not_mem_nil, by decide, by decide,
    by decide +kernel, fun _ _ h => absurd h List.not_mem_nil, overlappedEntry_noError⟩, by decide +kernel, by decide +kernel, ?_, ?_⟩
  · simp [DepsRejected, overlappedEntry_noDeps]
  · simp [DepsMet, overlappedEntry_noDeps]

theorem overlappedEntry_absent : overlappedEntry.engineCheck (.queue 0) 0 8 false = (.absent 0, overlappedEntryLooked) := by
  have habsent : (overlappedEntry.engineCheck (.queue 0) 0 8 false).1 = .absent 0 := by decide +kernel
  rw [← habsent, overlappedEntryLooked]

/-- The step consumes the entry, whose header is by then the first word of the record. -/
theorem overlappedEntry_consumed {t : State} (h : exec (.graphEntry 0) overlappedEntry = .next t) :
    (t.queue 0).entries.map (·.kind) = [0] := by
  have ht : t = overlappedEntry.onEntry 0 2 fun t a => t.graphEntry 0 a := (Host.Outcome.next.inj h).symm
  rw [ht]
  decide +kernel

end Sys2Proof.Claims

section
open Sys2Proof.Machine Sys2Proof.Claims

/-- Refutes O45: where an entry is rejected because its word cannot be reached, the statement gives it the KIND that its header held before
its address was looked up. The look-up corrects the errors of one bit in the page-table entries that it reads and reports them (R343, R344),
and no hypothesis keeps the telemetry ring off the entry. In `overlappedEntry` the first word of that record, the cycle 0, overwrites the
header of a graph entry; the referee reads KIND again as it rejects the entry (`rejectEntry`), and consumes one of KIND 0. TELBASE is the
host's to choose, so the machine does not rule the state out. -/
theorem not_entriesLaunchCopyChooseWaitAndSignal : ¬ Obligations.EntriesLaunchCopyChooseWaitAndSignal := by
  unfold Obligations.EntriesLaunchCopyChooseWaitAndSignal
  rintro ⟨-, hchoose⟩
  obtain ⟨hgraph, -⟩ := hchoose overlappedEntry 0 256 0 overlappedEntryLooked
  obtain ⟨-, hunreachable⟩ := hgraph overlappedEntry_stands
  obtain ⟨t, hexec, ⟨hqueue, -⟩, -⟩ := hunreachable (by decide +kernel) ⟨by decide +kernel, .inr ⟨0, overlappedEntry_absent⟩⟩
  have hkinds := overlappedEntry_consumed hexec
  rw [hqueue] at hkinds
  have hbefore : (overlappedEntryLooked.queue 0).entries = [] := by decide +kernel
  simp [hbefore, entryOf] at hkinds

end
